-- ==== Sys2Proof/Word.lean ====
section
/-!
DEFINITION. Words, bytes, register fields and register rows: the plain types every other file uses.
R4: multi-byte fields are little-endian, bit 0 is the least significant bit. R6: every register is 64 bits wide.
-/

namespace Sys2Proof

/-- A 64-bit word: a register, or one word of a descriptor, record or table entry (R6). -/
abbrev Word := BitVec 64

/-- One byte of memory, a pool, Shingle or flash. -/
abbrev Byte := BitVec 8

/-- A field of a register: the register's address, the field's lowest bit and its width. -/
structure Fld where
  /-- The register's address. -/
  reg : Nat
  /-- The field's lowest bit. -/
  lo : Nat
  /-- The field's width in bits. -/
  w : Nat
  deriving DecidableEq, Repr

/-- The access codes of R8. -/
inductive Acc where
  | ro | rw | w1c | wo | rwl
  deriving DecidableEq, Repr

/-- One field of a register table: lowest bit, width, access code and reset value. -/
structure FieldDef where
  /-- Lowest bit. -/
  lo : Nat
  /-- Width in bits. -/
  w : Nat
  /-- Access code (R8). -/
  acc : Acc
  /-- Reset value. -/
  reset : Nat
  deriving DecidableEq, Repr

/-- One register of a register table, with the counts and strides of its indices. -/
structure RegDef where
  /-- The manual's name, without its subscripts. -/
  name : String
  /-- Address at index 0. -/
  base : Nat
  /-- Count and stride of each index, the largest stride first. -/
  dims : List (Nat × Nat)
  /-- The listed fields; every other bit is reserved (R9). -/
  fields : List FieldDef
  deriving DecidableEq, Repr

end Sys2Proof
end

