-- ==== Sys2Proof/Syntax.lean ====
section
/-!
DEFINITION. The commands of the block: one constructor of `Instr` for each row of the table of operations and events.

A command is something that reaches the module from outside or an event the manual names: a register write, a bus
request, a protocol message, a deadline passing, a physical event. What the environment decides (which wires of a flit
were wrong, whether training passed, what a sensor reads) is an operand. A deadline is a command of its own, as in the table.
-/

namespace Sys2Proof

/-- A core of a Reef die: die 0 to 3 for Reef A to Reef D, core 0 to 47 (R14). -/
structure CoreId where
  /-- Reef A to Reef D. -/
  die : Fin 4
  /-- Core within the die. -/
  core : Fin 48
  deriving DecidableEq, Repr

/-- A directory position of R197; positions 28 to 63 are reserved. -/
abbrev Pos := Fin 28

/-- Who makes an access (R15, R205). -/
inductive Agent where
  /-- A Headland hart. -/
  | headland (h : Fin 64)
  /-- The landward host through port `p`. -/
  | host (p : Fin 2)
  /-- Lighthouse. -/
  | lighthouse
  /-- The sequencer of a core. -/
  | sequencer (c : CoreId)
  /-- An internal agent of Harbour at a directory position. -/
  | internal (p : Pos)
  deriving DecidableEq, Repr

/-- The engines a command header names (R111), PAD aside. -/
inductive Engine where
  | sequencer | matrix | matvec | vector | mover | collective | intake
  deriving DecidableEq, Repr

/-- A sequencer: that of a Reef core, or Harbour's own (R104). -/
inductive Seq where
  | core (c : CoreId)
  | harbour
  deriving DecidableEq, Repr

/-- The rights an access needs (R183). -/
inductive Access where
  | read | write | atomic
  deriving DecidableEq, Repr

/-- The atomics of R51 and R270; the manual names no others. -/
inductive AtomicOp where
  /-- 32-bit integer add. -/
  | iadd32
  /-- 64-bit integer add. -/
  | iadd64
  /-- FP32 add, rounded to nearest even. -/
  | fadd32
  deriving DecidableEq, Repr

/-- What a write does at its home: store bytes, or apply an atomic. -/
inductive WriteOp where
  | store (data : List Byte)
  | atomic (op : AtomicOp) (operand : BitVec 64)
  deriving DecidableEq, Repr

/-- Who asks the home for a line: a coherent agent at its position, or an engine of a core. -/
inductive Requester where
  | agent (p : Pos)
  | engine (c : CoreId)
  deriving DecidableEq, Repr

/-- How a snooped agent answers (R200). -/
inductive SnoopAns where
  /-- Its copy was clean, and it supplies the line's data where it holds any. -/
  | clean (data : Option (BitVec 512))
  /-- It held the line Modified. -/
  | dirty (data : BitVec 512)
  /-- Its write-back was in flight: it answers with the write-back's data and counts as Invalid. -/
  | writeBack (data : BitVec 512)
  /-- It held the line Modified, and its data arrives poisoned. -/
  | poisoned
  deriving DecidableEq, Repr

/-- Who waits on a translation fault (R187). -/
inductive Waiter where
  | engine (c : CoreId) (e : Engine)
  | harbour (p : Pos)
  deriving DecidableEq, Repr

/-- The fields of a vector instruction (R92), its opcode and version aside. -/
structure VInst where
  /-- Lane format code of R79. -/
  fmt : BitVec 2
  /-- Destination group. -/
  vd : BitVec 5
  /-- First source group. -/
  va : BitVec 5
  /-- Second source group. -/
  vb : BitVec 5
  /-- Third source group. -/
  vc : BitVec 5
  /-- COUNT − 1. -/
  cntm1 : BitVec 12
  /-- Operand b is IMM repeated. -/
  sb : BitVec 1
  /-- The writeback is counted. -/
  cnt : BitVec 1
  /-- Rounding mode. -/
  rnd : BitVec 2
  /-- Saturation. -/
  sat : BitVec 1
  /-- Memory format, or destination lane format of VCVT. -/
  fmt2 : BitVec 4
  /-- Address slot. -/
  slot : BitVec 3
  /-- Immediate, or byte offset. -/
  imm : BitVec 32
  /-- Stride. -/
  stride : BitVec 24
  deriving DecidableEq, Repr

/-- One group of a Limtos flit: its 34 data and control wires over 8 unit intervals, and its check wire (R217, R218).
Bit `34 * t + w` of `bits` is wire `w` in unit interval `t`; bit `t` of `crc` is the check wire in interval `t`. -/
structure FlitGroup where
  /-- Group number. -/
  g : Fin 64
  /-- Data and control bits. -/
  bits : BitVec 272
  /-- Check bits. -/
  crc : BitVec 8
  deriving DecidableEq, Repr

/-- A command whose fault stands: its engine, and its place in fetch order among those of that engine (R139). -/
structure FaultedWork where
  engine : Engine
  nth : Fin 64
  deriving DecidableEq, Repr

/-- A command that the watchdog times: its engine, and its place in fetch order among those it times (R144). -/
structure TimedWork where
  engine : Engine
  nth : Fin 8
  deriving DecidableEq, Repr

/-- What the training of a die's port finds when the die returns: whether every step passes, the groups found lost and the wires
spared, by group, direction and wire (R220, R223, R224). -/
structure Retraining where
  ok : Bool
  lost : List (Fin 64 × Bool)
  spared : List (Fin 64 × Bool × Fin 35)
  deriving DecidableEq, Repr

/-- The form of an ordered sum: widening, and masked by v0 (R246). -/
structure VredForm where
  widen : Bool
  masked : Bool
  deriving DecidableEq, Repr

/-- A hart at wrs.nto or wrs.sto: with the line that it reserves and waits on, or, without one, woken (R257). -/
structure WrsWait where
  hart : Fin 64
  line : Option (BitVec 46)
  deriving DecidableEq, Repr

/-- What SENSOR_SAMPLE reads: temperatures in sixteenths of a degree; and of domains the voltage in mV and the current in 10 mA (R412). -/
structure Readings where
  temps : List (Fin 412 × BitVec 16)
  rails : List (Fin 164 × BitVec 16 × BitVec 20)
  deriving DecidableEq, Repr

/-- A message on the seaward fabric that names its destination rank and carries a hop count (R315). -/
structure FabMsg where
  /-- Destination rank. -/
  dest : BitVec 12
  /-- Hops so far. -/
  hops : Nat
  /-- Lane-schedule tag, 0 for open traffic. -/
  tag : BitVec 4
  /-- Contents. -/
  data : List Byte
  deriving DecidableEq, Repr

/-- What a flit of the fabric carries: a message, and its end's answer to a flit received: its number, and whether it acknowledges or
refuses (R310). -/
structure FlitLoad where
  msg : Option FabMsg
  reply : Option (BitVec 12 × Bool)
  deriving DecidableEq, Repr

/-- A signal a remote write carries (R319): event and value of the receiving job. -/
structure RwSignal where
  /-- Harbour event. -/
  event : BitVec 8
  /-- Value. -/
  value : BitVec 48
  deriving DecidableEq, Repr

/-- A remote-write message (R319, R320). -/
structure RwMsg where
  /-- Sender's rank. -/
  rank : BitVec 12
  /-- Sender's context number. -/
  ctx : BitVec 14
  /-- Message number on the connection. -/
  num : Nat
  /-- Byte offset in the receive region. -/
  off : Nat
  /-- Data. -/
  data : List Byte
  /-- Signal, if any. -/
  sig : Option RwSignal
  deriving DecidableEq, Repr

/-- An election key (R325): role code (PRIMARY 0, CANDIDATE 1) and identity. -/
structure ElectKey where
  /-- 0 for PRIMARY, 1 for CANDIDATE. -/
  role : BitVec 1
  /-- Module identity. -/
  id : BitVec 48
  deriving DecidableEq, Repr

/-- An announcement of a Tide master (R326). -/
structure Announce where
  /-- The master's key. -/
  key : ElectKey
  /-- Generation. -/
  gen : BitVec 32
  /-- Sequence number. -/
  seq : Nat
  /-- Slot length in force. -/
  slot : BitVec 16
  /-- Guard in force. -/
  guard : BitVec 8
  /-- Hops from the master to the sender. -/
  hops : BitVec 6
  /-- The sender's Tide count, corrected by the link delay. -/
  time : Word
  deriving DecidableEq, Repr

/-- An Ethernet frame as received (R336). -/
structure EthFrame where
  /-- Destination address. -/
  dst : BitVec 48
  /-- Whether the frame check sequence is right. -/
  fcsOk : Bool
  /-- Frame bytes without the FCS. -/
  data : List Byte
  /-- Tide count at the start-of-frame delimiter. -/
  time : Word
  deriving DecidableEq, Repr

/-- A decoding unit of Intake (R285). -/
inductive UnitId where
  | video (u : Fin 16)
  | jpeg (u : Fin 32)
  | deflate (u : Fin 8)
  deriving DecidableEq, Repr

/-- A shard another module offers (R379): its source, that source's feed and sled, tag, step, number and the bytes that follow when
it is accepted. With `sealing`, the completed header and the seal-time segments that a source sends its holders (R381). -/
structure ShardOffer where
  /-- Source identity. -/
  source : BitVec 48
  /-- Source power-feed group. -/
  feed : BitVec 16
  /-- Source sled group. -/
  sled : BitVec 16
  /-- Whether the source is in this module's reach. -/
  sameReach : Bool
  /-- Retrieval tag. -/
  rtag : Word
  /-- Global step. -/
  gstep : Word
  /-- Shard number. -/
  shard : Nat
  /-- The seal of a Tidemark rather than a shard. -/
  sealing : Bool
  /-- Bytes. -/
  data : List Byte
  deriving DecidableEq, Repr

/-- One reading of the ageing inputs (R415), as fitted over the last 720 powered hours. -/
structure AgeFit where
  /-- Powered hours left by the ring-oscillator drift, the Shingle wear and the Stack refresh margin. -/
  moduleHours : List Nat
  /-- Powered hours left of each laser source. -/
  laserHours : List Nat
  /-- Headroom of each laser source in units of 0.1 percent. -/
  headroom : List Nat
  /-- Site date in hours since 1970-01-01 UTC while the reach master has PTP locked. -/
  siteHours : Option Nat
  deriving DecidableEq, Repr

/-- What the hardware reports while POWER_ON runs (R389): which trainings fail and which straps it reads. -/
structure BootInfo where
  /-- Nanoseconds of the local counter at the end of step 8. -/
  bootNs : Nat
  /-- Limtos groups that each port's training loses: port, group, direction toward Harbour. -/
  lostGroups : List (Fin 5 × Fin 64 × Bool)
  /-- Limtos wires that each port's training replaces by the spare: port, group, direction toward Harbour, wire. -/
  sparedWires : List (Fin 5 × Fin 64 × Bool × Fin 35)
  /-- Stacks whose PHY fails training. -/
  badStacks : List (Fin 8)
  /-- Shelf channels that fail training. -/
  badShelf : List (Fin 24)
  /-- Seaward lanes that fail training. -/
  badLanes : List (Fin 64)
  /-- Domains that fail to report power-good. -/
  badDomains : List (Fin 164)
  /-- Connectors that read present. -/
  connectors : BitVec 8
  /-- Bays that read fitted and latched. -/
  bays : BitVec 4
  /-- FEED_ID strap. -/
  feedId : BitVec 4
  /-- Landward ports whose REFCLK is present (R445). -/
  refclk : BitVec 2
  /-- Limtos ports whose far end reports other capabilities than this module's ends: port, lowest and highest version, groups, width (R221). -/
  far : List (Fin 5 × BitVec 4 × BitVec 4 × BitVec 8 × BitVec 2)
  /-- Blocks of Shingle found bad beside those retired in use (R164, R179). -/
  spareBad : Nat
  /-- Whether the replay-protected region passes its MAC and counter check (R393). -/
  regionOk : Bool
  deriving DecidableEq, Repr

/-- A laser bay's signed record (R449). -/
structure BayRecord where
  /-- Serial number. -/
  serial : Word
  /-- Bias for rated output. -/
  bias : Nat
  /-- End-of-life bias. -/
  eol : Nat
  /-- The signature block's bytes. -/
  sig : List Byte
  deriving DecidableEq, Repr

/-- What a decoding unit reports of the sample it ends (R298). -/
inductive DecodeEnd where
  /-- Every claimed frame or byte was produced and the last output write issued. -/
  | complete
  /-- The stream is malformed. -/
  | malformed
  /-- It used a feature outside R284. -/
  | unsupported
  /-- It would produce more than it claimed, or change picture size (R290). -/
  | overClaim
  /-- It ended with less than it claimed (R290). -/
  | underClaim
  /-- Its source met an unresolvable fault, poison or a landward loss, with that status (R303). -/
  | source (status : BitVec 16)
  deriving DecidableEq, Repr

/-- Selected element width of a Headland vector reduction (R244: ELEN 64, Zvfh). -/
inductive Sew where
  | e16 | e32 | e64
  deriving DecidableEq, Repr

/-- The commands: one constructor per row of the table, in the table's order. -/
inductive Instr where
  -- registers and address map
  | registerWrite (a : Agent) (addr : BitVec 52) (size : Nat) (v : Word)
  | accessNotPerformed (a : Agent) (addr : BitVec 52) (size : Nat) (wr : Bool)
  | unassignedAccess (a : Agent) (addr : BitVec 52) (size : Nat) (wr : Bool)
  | reservedRangeAccess (a : Agent) (pa : BitVec 52) (wr : Bool)
  | shingleWriteDiscard (a : Agent) (pa : BitVec 52)
  -- the directory
  | rds (x : Pos) (line : BitVec 46)
  | rdo (x : Pos) (line : BitVec 46)
  | upg (x : Pos) (line : BitVec 46)
  | wb (y : Pos) (line : BitVec 46) (data : BitVec 512)
  | evictionNotice (x : Pos) (line : BitVec 46) (toLlc : Bool)
  | nonCachingWrite (r : Requester) (pa : BitVec 52) (key : Fin 64) (w : WriteOp)
  | engineRead (c : CoreId) (job : Fin 64) (pa : BitVec 52) (key : Fin 64)
  | snoopResponse (y : Pos) (line : BitVec 46) (ans : SnoopAns)
  | completionAck (line : BitVec 46)
  | snoopTimeout (y : Pos) (line : BitVec 46)
  -- memory tiers
  | demandRead (pa : BitVec 52) (key : Fin 64) (errs : List (Fin 36 × Byte))
  | codewordWrite (pa : BitVec 52) (key : Fin 64) (data : List Byte)
  | scrub (pa : BitVec 52) (errs : List (Fin 36 × Byte))
  | shingleRead (pa : BitVec 52) (uncorrectable : Bool)
  | generate (a : Agent) (sel : Fin 64)
  | erase (a : Agent) (sel : Fin 64)
  | keyCommandDone
  -- jobs, rings and commands
  | create (a : Agent) (job : Fin 64)
  | destroy (a : Agent) (job : Fin 64)
  | destroyComplete (job : Fin 64)
  | sqDoorbell (a : Agent) (job : Fin 64) (ring : Fin 8) (tail : BitVec 32)
  | hbDbEvent (a : Agent) (job : Fin 64) (event : BitVec 8) (value : BitVec 48)
  | ringResume (a : Agent) (job : Fin 64) (ring : Fin 8)
  | ringReset (a : Agent) (job : Fin 64) (ring : Fin 8)
  | cqHeadWrite (a : Agent) (job : Fin 64) (head : BitVec 32)
  | eqHeadWrite (a : Agent) (job : Fin 64) (head : BitVec 32)
  | cqBatchTimeout (job : Fin 64)
  | commandFetch (job : Fin 64) (ring : Fin 8)
  | commandDispatch (t : Seq) (e : Engine)
  | commandComplete (t : Seq) (e : Engine)
  | switchOut (c : CoreId) (e : Engine)
  | faultLimitExpiry (t : Seq) (w : FaultedWork)
  | watchdogExpiry (t : Seq) (w : TimedWork)
  | stepBoundary (job : Fin 64)
  | nop (t : Seq)
  | fence (t : Seq)
  | flush (t : Seq)
  | stepend (t : Seq)
  | selftest (c : CoreId) (pass : Bool)
  | poolclear (c : CoreId)
  -- the data mover
  | copy (c : CoreId)
  | stage (c : CoreId)
  | fill (c : CoreId)
  -- the matrix engine and the matrix-vector unit
  | gemm (c : CoreId)
  | conv (c : CoreId)
  | mv (c : CoreId)
  | matrixPass (c : CoreId)
  | mxCntClr (a : Agent) (c : CoreId)
  | planFlush (a : Agent) (c : CoreId)
  -- the vector engine
  | chain (c : CoreId)
  | chainChunk (c : CoreId)
  | program (c : CoreId)
  | vxCntClr (a : Agent) (c : CoreId)
  | nfClr (a : Agent) (c : CoreId)
  | vadd (c : CoreId) (i : VInst)
  | vsub (c : CoreId) (i : VInst)
  | vmul (c : CoreId) (i : VInst)
  | vfma (c : CoreId) (i : VInst)
  | vfnma (c : CoreId) (i : VInst)
  | vdiv (c : CoreId) (i : VInst)
  | vsqrt (c : CoreId) (i : VInst)
  | vrcp (c : CoreId) (i : VInst)
  | vrsq (c : CoreId) (i : VInst)
  | vexp2 (c : CoreId) (i : VInst)
  | vlog2 (c : CoreId) (i : VInst)
  | vexp (c : CoreId) (i : VInst)
  | vlog (c : CoreId) (i : VInst)
  | vtanh (c : CoreId) (i : VInst)
  | vsigm (c : CoreId) (i : VInst)
  | verf (c : CoreId) (i : VInst)
  | vmin (c : CoreId) (i : VInst)
  | vmax (c : CoreId) (i : VInst)
  | vabs (c : CoreId) (i : VInst)
  | vneg (c : CoreId) (i : VInst)
  | vcmpeq (c : CoreId) (i : VInst)
  | vcmplt (c : CoreId) (i : VInst)
  | vcmple (c : CoreId) (i : VInst)
  | visnf (c : CoreId) (i : VInst)
  | vsel (c : CoreId) (i : VInst)
  | viadd (c : CoreId) (i : VInst)
  | visub (c : CoreId) (i : VInst)
  | vimul (c : CoreId) (i : VInst)
  | vand (c : CoreId) (i : VInst)
  | vor (c : CoreId) (i : VInst)
  | vxor (c : CoreId) (i : VInst)
  | vshl (c : CoreId) (i : VInst)
  | vshr (c : CoreId) (i : VInst)
  | vsra (c : CoreId) (i : VInst)
  | vimin (c : CoreId) (i : VInst)
  | vimax (c : CoreId) (i : VInst)
  | viota (c : CoreId) (i : VInst)
  | vcvt (c : CoreId) (i : VInst)
  | vrsum (c : CoreId) (i : VInst)
  | vrmax (c : CoreId) (i : VInst)
  | vmov (c : CoreId) (i : VInst)
  | vbcast (c : CoreId) (i : VInst)
  | vperm (c : CoreId) (i : VInst)
  | vld (c : CoreId) (i : VInst)
  | vst (c : CoreId) (i : VInst)
  | vgather (c : CoreId) (i : VInst)
  | vscatter (c : CoreId) (i : VInst)
  | vscadd (c : CoreId) (i : VInst)
  -- translation, faults, migration
  | pageWalk (w : Waiter) (job : Fin 64) (va : BitVec 57) (acc : Access)
  | faultRetry (w : Waiter)
  | frHeadWrite (a : Agent) (head : BitVec 32)
  | hbFltResolve (a : Agent) (record : BitVec 8) (status : BitVec 16)
  | tlbi (a : Agent) (asid : BitVec 16) (allAsid : Bool) (discard : Bool)
  | tlbiComplete
  | mpTailWrite (a : Agent) (tail : BitVec 32)
  | migrationComplete (record : Fin 256) (poisoned : List (Fin 32768))
  | evict (a : Agent) (asid : BitVec 16) (migrate : Bool)
  | evictionComplete
  -- Limtos
  | limtosCapability (p : Fin 5) (lo hi : BitVec 4) (groups : BitVec 8) (width : BitVec 2)
  | limtosFlit (p : Fin 5) (inward : Bool) (seq : BitVec 10) (groups : List FlitGroup)
  | spareSwitch (p : Fin 5) (g : Fin 64) (inward : Bool)
  | narrowingResume (p : Fin 5)
  -- Breakwater and the partner die
  | partnerRequest (acc : Access) (pa : BitVec 52) (len : Nat) (w : WriteOp)
  | rateAllowanceRelease
  | partnerMsix (vector : BitVec 11)
  | apertureAccess (a : Agent) (off : Fin 8388608) (size : Nat) (wr : Bool) (v : Word)
  | bwWindowWrite (a : Agent) (n : Fin 16) (lim : Bool) (v : Word)
  | windowRecallDone (n : Fin 16)
  | retrain (a : Agent) (ok : Bool) (lanes : BitVec 7)
  | partnerLinkDown
  -- die isolation
  | clockLoss (d : Fin 5)
  | dieReset (d : Fin 5)
  | hbDieFence (a : Agent) (d : Fin 4)
  | dieFenceInvalidate (d : Fin 5)
  | readmit (a : Agent) (d : Fin 4)
  | restoringComplete (d : Fin 4) (r : Retraining)
  -- Headland
  | poisonedLoad (h : Fin 64) (fetch : Bool) (addr : Word)
  | vfredusum (h : Fin 64) (vd vs2 vs1 : Fin 32) (sew : Sew) (form : VredForm) (vl : Nat)
  | wrsWake (w : WrsWait)
  | hartStart (a : Agent) (mask : Word)
  | claim (as : List Agent)
  | release (a : Agent)
  | interruptDelivery (src : Fin 192)
  -- the landward link
  | recoveryEntry (p : Fin 2)
  | recoveryExit (p : Fin 2) (lanes : BitVec 5) (rate : BitVec 3)
  | recoveryLimitExpiry (p : Fin 2)
  | linkDown (p : Fin 2)
  | perstAssert (p : Fin 2)
  | hotReset (p : Fin 2)
  | functionLevelReset (p : Fin 2)
  | epochArm (a : Agent) (p : Fin 2) (epoch : BitVec 32)
  | fenceRead (a : Agent)
  | fenceReadDone
  | routeChange (a : Agent) (mode : BitVec 2)
  | routeChangeDone
  | cxlMemRequest (p : Fin 2) (dpa : BitVec 41) (w : Option (List Byte))
  | configRequest (p : Fin 2)
  | landwardWriteAck (p : Fin 2)
  -- Intake
  | pixel
  | tokens
  | unitAssign (u : UnitId)
  | pictureBoundary (u : UnitId) (missingRef rap : Bool)
  | sampleDecodeEnd (u : UnitId) (us : Nat) (e : DecodeEnd)
  | lateEviction (u : UnitId) (us : Nat)
  | intakeBatchComplete (job : Fin 64) (stream : BitVec 16)
  -- the seaward fabric
  | connectorUnplug (c : Fin 8)
  | connectorPlug (c : Fin 8)
  | lossOfLight (l : Fin 64)
  | probePulse (l : Fin 64) (heard : Bool)
  | laneRelight (l : Fin 64)
  | fabricCapability (p : Fin 8) (lo hi : BitVec 4) (id : BitVec 48) (reach : BitVec 32) (key : ElectKey)
  /-- `reply`: what the flit carries of the far end's answer to this port's own flits: a number, and whether it acknowledges those through
  it or refuses those from it on (R310). -/
  | fabricFlit (p : Fin 8) (seq : BitVec 12) (lane : Fin 64) (ok : Bool) (load : FlitLoad)
  | restripe (p : Fin 8)
  | portDownNotice (source : BitVec 48) (lost : BitVec 48)
  | laneRetire (a : Agent) (l : Fin 64)
  | laneRestore (a : Agent) (l : Fin 64)
  | laneRetrained (l : Fin 64) (ok : Bool)
  | laserBayFault (b : Fin 4)
  | membershipLoad (a : Agent) (rank : BitVec 12) (size : BitVec 13)
  | openCtx (a : Agent)
  | closeCtx (a : Agent) (ctx : BitVec 14)
  | closeComplete (ctx : BitVec 14)
  | remoteWrite (ctx : BitVec 14) (msg : RwMsg)
  | remoteWriteAck (ctx : BitVec 14) (num : Nat) (refused : Option Bool)
  | resendTimeout (ctx : BitVec 14)
  | connectionFailure (ctx : BitVec 14)
  -- the Tide count
  | timeMessage (p : Fin 8) (offsetPs : Int) (hops : BitVec 6)
  | snap (a : Agent)
  | keyFlood (heard : Option ElectKey)
  | electWaitExpiry
  | announcement
  | announcementReceive (p : Fin 8) (an : Announce)
  | lossTimeout
  | holdoverLimitExpiry
  | rejoin (a : Agent)
  | scheduleLoad (a : Agent) (nslots : BitVec 11)
  | scheduleActivate
  -- Ethernet and PTP
  | ethTxDoorbell (a : Agent) (e : Fin 2) (tail : BitVec 32)
  | frameTransmitted (e : Fin 2)
  | frameReceived (e : Fin 2) (f : EthFrame)
  | ptpMessage (e : Fin 2) (siteTime : Word) (locked : Bool)
  -- collectives
  | allreduce
  | reducescatter
  | allgather
  | alltoall
  | broadcast
  | put
  | commit
  | collectiveMessage (ctx : BitVec 14) (w0 w1 : Word) (data : List Byte)
  | flagRoundStart (job : Fin 64)
  | flagRoundMessage (job : Fin 64) (pos : BitVec 12) (down : Bool) (nf : Bool)
  -- firmware
  | componentFault (c : Fin 195)
  | heartbeatTimeout (c : Fin 195)
  | componentRestart (c : Fin 195)
  | firmwareLoad (a : Agent) (target : BitVec 3) (override : Bool)
  | reload (a : Agent) (target : BitVec 3) (override : Bool)
  | firmwareLoaded
  | reloadQlimitExpiry
  | interfaceSelect (a : Agent) (sel : BitVec 4)
  -- Tidemark
  | riskUpdate
  | tidemarkArm (a : Agent) (job : Fin 64)
  | take (a : Agent) (job : Fin 64)
  | tidemarkCancel (a : Agent) (job : Fin 64)
  | intervalExpiry (job : Fin 64)
  | tidemarkRequest (job : Fin 64) (target : Word) (down : Bool)
  | refuse (job : Fin 64) (target : Word) (down : Bool)
  | captureDone (job : Fin 64)
  | shardOffer (o : ShardOffer)
  | offerAnswer (job : Fin 64) (accept : Bool) (id : BitVec 48) (feed : BitVec 16)
  | sealAck (job : Fin 64) (holder : BitVec 48)
  | restore (a : Agent) (job : Fin 64)
  | tidemarkRelease (a : Agent) (job : Fin 64)
  | restoreDone (shards : List (List Byte))
  -- Lighthouse
  | powerOn (b : BootInfo)
  | report (a : Agent)
  | reportComplete
  | idcert (a : Agent)
  | treePrepared
  | updateStage (a : Agent) (target : BitVec 2)
  | updateConfirm (a : Agent) (target : BitVec 2)
  | updateCancel (a : Agent) (target : BitVec 2)
  | svnCommit (a : Agent) (kind : BitVec 3)
  | lifecycleRetire (a : Agent) (confirm : BitVec 32)
  | transfer (a : Agent) (record : List Byte)
  | logCopy (a : Agent) (start : BitVec 40) (count : BitVec 17)
  | logFlashWrite
  | sensorSample (r : Readings)
  | ageingFit (f : AgeFit)
  | ident
  | sidebandStatus
  | recoveryData (data : List Byte)
  | recoveryCommit
  | getVersion (p : Fin 2)
  | getCapabilities (p : Fin 2)
  | negotiateAlgorithms (p : Fin 2) (ok : Bool)
  | getDigests (p : Fin 2)
  | getCertificate (p : Fin 2) (off len : Nat)
  | challenge (p : Fin 2) (nonce : BitVec 256)
  | getMeasurements (p : Fin 2) (index : Fin 8) (nonce : BitVec 256)
  | keyExchange (p : Fin 2) (session : BitVec 16)
  | finish (p : Fin 2) (session : BitVec 32) (ok : Bool) (ide : Bool)
  | endSession (p : Fin 2) (session : BitVec 32)
  -- power
  | underVoltage (mv us : Nat)
  | overVoltage (mv us : Nat)
  | overCurrent (ma us : Nat)
  | domainFail (n : Fin 164)
  | modeRequest (a : Agent) (req : BitVec 2)
  | modeChangeDone
  | modeQlimitExpiry
  | idleSlackExpiry
  | slackEntry
  | slackExitDone
  | capControl (watts : Nat) (us : Nat)
  | referenceFail
  -- the Shingle translation layer
  | write
  | unitCommit
  | trim
  | shingleDoorbell (a : Agent) (tail : BitVec 32)
  | qreset (a : Agent)
  | sanitize (a : Agent)
  | wearLevelling (block : Nat)
  | readDisturbRefresh (block : Nat)
  | blockRetire (block : Nat)
  -- prefetch
  | prefetchStart (a : Agent) (job : Fin 64)
  | prefetchStop (a : Agent) (job : Fin 64)
  | prefetchResume (a : Agent) (job : Fin 64)
  | prefetchCopy (job : Fin 64)
  | prefetchStage (job : Fin 64)
  | mark (job : Fin 64)
  | prefetchEntryDone (job : Fin 64)
  -- the front edge
  | shortPress
  | longPress
  | selectTimeout
  | baySafe
  | swapWindowExpiry
  | bayLatchOpen (b : Fin 4)
  | bayFitted (b : Fin 4) (r : BayRecord)
  | quiesceBay (a : Agent) (b : Fin 4)
  | frontCancel (a : Agent)
  | removeAck (a : Agent)
  | graceExpiry
  | powerDownDone
  | leverOpen
  | leverClose
  -- rows the table adds at its end
  | landwardLinkL0 (p : Fin 2) (lanes : BitVec 5) (rate : BitVec 3)
  | tideSlotStart
  | updateSlotWritten
  | sanitizeDone
  | logCopyDone
  | msixUnmask (p : Fin 2) (vector : Option (Fin 192))
  | ethernetLinkChange (e : Fin 2) (up : Bool)
  | frBaseWrite (a : Agent) (v : Word)
  deriving DecidableEq, Repr

end Sys2Proof
end

