-- ==== Sys2Proof/Config.lean ====
section
/-!
DEFINITION. What an implementation fixes and the free values: constants with no body, so that nothing can evaluate them
and every statement holds whatever they are. Each is named in the assumption log.
-/

namespace Sys2Proof.Config

/-- The value of a memory key (R160, R163), which comes from Lighthouse's random source: by the identity of the key. DESIGN CHOICE: log entry 12. -/
opaque keyValue : Nat → BitVec 512

/-- The value a vector operation gives where the manual states none (a quotient by zero, a root of a negative number, a
reciprocal of zero): opcode, lane format, operands a and b. DESIGN CHOICE: log entry 9. -/
opaque laneOpen : Nat → Nat → Nat → Nat → Nat

/-- The fixed algorithm of R32 for the functions with an ulp bound: opcode, lane format, operand bits. It picks one code among
those within the bound of R31. DEDUCED: log entry 10. -/
opaque funcUlp : Nat → Nat → Nat → Nat

/-- Outcome of an error pattern beyond R155, which has no guarantee: whether it is detected, by location and pattern. DESIGN CHOICE: log entry 13. -/
opaque beyondDetected : Nat → List (Nat × Nat) → Bool

/-- The data a miscorrected codeword reads as (R155): address, pattern, stored data. DESIGN CHOICE: log entry 13. -/
opaque miscorrected : Nat → List (Nat × Nat) → List (BitVec 8) → List (BitVec 8)

/-- A signature block of key set 3 over bytes (R402, R403): the attestation index it uses, the bytes. PRESUMED: log entry 55. -/
opaque attest : Nat → List (BitVec 8) → List (BitVec 8)

/-- An ECDSA P-384 signature by this module over an SPDM answer (R409): the bytes signed. PRESUMED: log entry 55. -/
opaque spdmSign : List (BitVec 8) → List (BitVec 8)

/-- A fresh value from Lighthouse's random source, by the model's free counter. PRESUMED: log entry 55. -/
opaque random : Nat → BitVec 64

/-- A measured or physical quantity that the manual leaves to the part, by name code and free counter. DESIGN CHOICE: log entry 8. -/
opaque measured : Nat → Nat → Nat

/-- An outcome the manual leaves open and the machine goes on from, by point and free counter. DESIGN CHOICE: log entry 8. -/
opaque openBit : Nat → Nat → Bool

/-- An undefined value the machine stores, by point and free counter. DESIGN CHOICE: log entry 8. -/
opaque openWord : Nat → Nat → BitVec 64

/-- The output of a picture decoder of R284 for a compressed sample: codec, the bytes a LIVE stream's picture buffer was decoded from,
the sample's bytes. DESIGN CHOICE: log entry 36. -/
opaque decoded : Nat → List (BitVec 8) → List (BitVec 8) → List (BitVec 8)

/-- A sample of a decoded picture, its chroma brought to the picture's size: codec, the decoded data, frame, component, row, column. DESIGN
CHOICE: log entry 36. -/
opaque sampleAt : Nat → List (BitVec 8) → Nat → Nat → Nat → Nat → BitVec 16

/-- A coefficient, in FP32, of the matrix by which a video stream's samples become RGB in the range [0, 1] (R294): codec, the decoded data,
the coefficient, four to a component and the last of them a constant. DESIGN CHOICE: log entry 36. -/
opaque rgbCoef : Nat → List (BitVec 8) → Nat → BitVec 32

/-- Where an output place of a scaling lies in the input, in units of 1/256 pixel (R294): input size, output size, place. DESIGN CHOICE: log
entry 36. -/
opaque scalePos : Nat → Nat → Nat → Int

/-- The mean of a component that JITTER's contrast turns about (R295): the frame's components in FP32, the component. DESIGN CHOICE: log
entry 36. -/
opaque jitterMean : List (BitVec 32) → Nat → BitVec 32

/-- The grey of a colour that JITTER's saturation turns about (R295), in FP32. DESIGN CHOICE: log entry 36. -/
opaque jitterGrey : BitVec 32 → BitVec 32 → BitVec 32 → BitVec 32

/-- A measure that a video codec's headers carry (whether they parse and are supported, width, height, bits): which, codec, bytes. DESIGN
CHOICE: log entry 36. -/
opaque claim : Nat → Nat → List (BitVec 8) → Nat

/-- A hash of a line number, undefined in the manual: the set of a far-cache line (R151), and past 2^52 that of a directory line, past 2^60 that of a die's cached translation. DESIGN CHOICE: log entries 14 and 15. -/
opaque farSet : Nat → Nat

end Sys2Proof.Config
end

