-- ==== Sys2Proof/Machine/Cipher.lean ====
section
/-!
DEFINITION. AES-256-XTS with data units of 64 bytes (R160), as FIPS 197 and IEEE Std 1619 define it: the block cipher on 16
bytes, and a cipher block of memory under a key of 512 bits and the tweak PA[51:6].
-/

namespace Sys2Proof.Machine

/-! The field of the cipher: GF(2^8) modulo x^8 + x^4 + x^3 + x + 1 -/

/-- Multiplication by x. -/
def aesX (a : Byte) : Byte := (a <<< 1) ^^^ (if a.getLsbD 7 then 0x1B else 0)

/-- A product, by the lowest `n` bits of `b`. -/
def aesMulN : Nat → Byte → Byte → Byte
  | 0, _, _ => 0
  | n + 1, a, b => (if b.getLsbD 0 then a else 0) ^^^ aesMulN n (aesX a) (b >>> 1)

def aesMul (a b : Byte) : Byte := aesMulN 8 a b

/-- The inverse, a^254; that of 0 is 0. -/
def aesInv (a : Byte) : Byte :=
  let p2 := aesMul a a
  let p4 := aesMul p2 p2
  let p8 := aesMul p4 p4
  let p16 := aesMul p8 p8
  let p32 := aesMul p16 p16
  let p64 := aesMul p32 p32
  aesMul (aesMul (aesMul p2 p4) (aesMul p8 p16)) (aesMul (aesMul p32 p64) (aesMul p64 p64))

def aesSub (a : Byte) : Byte :=
  let b := aesInv a
  b ^^^ b.rotateLeft 1 ^^^ b.rotateLeft 2 ^^^ b.rotateLeft 3 ^^^ b.rotateLeft 4 ^^^ 0x63

def aesUnsub (a : Byte) : Byte := aesInv (a.rotateLeft 1 ^^^ a.rotateLeft 3 ^^^ a.rotateLeft 6 ^^^ 0x05)

/-! Rounds: a state is 16 bytes, column by column -/

def xorBytes (a b : List Byte) : List Byte := List.zipWith (fun x y => x ^^^ y) a b

/-- Shift row `r` by `s × r` columns. -/
def aesShift (s : Nat) (b : List Byte) : List Byte :=
  (List.range 16).map (fun i => b.getD ((i / 4 + s * (i % 4)) % 4 * 4 + i % 4) 0)

/-- Multiply each column by the circulant matrix whose first row is given. -/
def aesMix (row : List Byte) (b : List Byte) : List Byte :=
  (List.range 16).map (fun i => (List.range 4).foldl (fun (acc : Byte) k =>
    acc ^^^ aesMul (row.getD ((k + 4 - i % 4) % 4) 0) (b.getD (i / 4 * 4 + k) 0)) 0)

/-- The next word of the key schedule from those before it, newest first. -/
def aesWord (i : Nat) (ws : List (List Byte)) : List Byte :=
  let t := ws.headD []
  let t1 := if i % 8 = 0 then
      xorBytes ((t.drop 1 ++ t.take 1).map aesSub) [(List.range (i / 8 - 1)).foldl (fun c _ => aesX c) 1, 0, 0, 0]
    else if i % 8 = 4 then t.map aesSub else t
  xorBytes (ws.getD 7 []) t1

/-- `n` further words of the schedule, newest first. -/
def aesWords : Nat → List (List Byte) → List (List Byte)
  | 0, ws => ws
  | n + 1, ws => aesWords n (aesWord ws.length ws :: ws)

/-- The 15 round keys of a 32-byte key, in order. -/
def aesKeys (key : List Byte) : List (List Byte) :=
  let ws := (aesWords 52 ((List.range 8).reverse.map (fun i => (key.drop (4 * i)).take 4))).reverse
  (List.range 15).map (fun r => (((ws.drop (4 * r)).take 4).flatten))

/-- AES-256 encryption of a block. -/
def aesEnc (key b : List Byte) : List Byte :=
  let ks := aesKeys key
  let s := (List.range 13).foldl (fun (s : List Byte) r =>
    xorBytes (aesMix [2, 3, 1, 1] (aesShift 1 (s.map aesSub))) (ks.getD (r + 1) [])) (xorBytes b (ks.getD 0 []))
  xorBytes (aesShift 1 (s.map aesSub)) (ks.getD 14 [])

/-- AES-256 decryption of a block. -/
def aesDec (key b : List Byte) : List Byte :=
  let ks := aesKeys key
  let s := (List.range 13).foldl (fun (s : List Byte) r =>
    aesMix [14, 11, 13, 9] (xorBytes ((aesShift 3 s).map aesUnsub) (ks.getD (13 - r) []))) (xorBytes b (ks.getD 14 []))
  xorBytes ((aesShift 3 s).map aesUnsub) (ks.getD 0 [])

/-! XTS -/

/-- Multiplication by α of a tweak, 16 bytes read little-endian. -/
def xtsMul (t : List Byte) : List Byte :=
  let carry := (t.getD 15 0).getLsbD 7
  (List.range 16).map (fun i =>
    let low := if i = 0 then (if carry then (0x87 : Byte) else 0) else (if (t.getD (i - 1) 0).getLsbD 7 then 1 else 0)
    (t.getD i 0 <<< 1) ^^^ low)

/-- The mask of cipher block `blk`, its address divided by 16: the unit's tweak is PA[51:6]. -/
def xtsMask (key : List Byte) (blk : Nat) : List Byte :=
  let unit := blk / 4
  let t0 := aesEnc (key.drop 32) ((List.range 16).map (fun i => BitVec.ofNat 8 (unit / 256 ^ i)))
  (List.range (blk % 4)).foldl (fun t _ => xtsMul t) t0

def xtsEnc (key : List Byte) (blk : Nat) (b : List Byte) : List Byte :=
  let t := xtsMask key blk
  xorBytes (aesEnc (key.take 32) (xorBytes b t)) t

def xtsDec (key : List Byte) (blk : Nat) (b : List Byte) : List Byte :=
  let t := xtsMask key blk
  xorBytes (aesDec (key.take 32) (xorBytes b t)) t

/-- The 64 bytes of a key: the one a fresh key has is random, and a zeroised slot holds zeros (R163). Identity 1 is a zeroised
slot. -/
def keyBytes (id : Nat) : List Byte :=
  let v := if id = 1 then 0 else Config.keyValue id
  (List.range 64).map (fun i => v.extractLsb' (8 * i) 8)

/-- A block written under one key identity as a read under another returns it; identity 0 is plaintext. -/
def recipher (old new blk : Nat) (b : List Byte) : List Byte :=
  let raw := if old = 0 then b else xtsEnc (keyBytes old) blk b
  if new = 0 then raw else xtsDec (keyBytes new) blk raw

end Sys2Proof.Machine
end

