-- ==== Sys2Proof/Machine/Numbers.lean ====
section
/-!
DEFINITION. Element formats, exact values, rounding and block scaling (R24 to R41, R459), and the Philox-4×32-10 draws
of R34. Values are exact dyadic numbers; a format rounds once, where the manual says an operation rounds.
-/

namespace Sys2Proof.Machine

/-- An exact value, or one of the two kinds of special value (R24). -/
inductive Num where
  /-- Any NaN; no payload is carried (R25). -/
  | nan
  /-- An infinity, negative when the argument is true. -/
  | inf (s : Bool)
  /-- `m × 2^e`, negative when `s` is true; `m = 0` is a signed zero. -/
  | fin (s : Bool) (m : Nat) (e : Int)
  deriving DecidableEq, Repr

/-- How a format spells what it cannot hold as a finite value (R24). -/
inductive Special where
  /-- Exponent all ones: infinity, or NaN when the significand is not zero. -/
  | ieee
  /-- E4M3: no infinity; 0x7F and 0xFF are NaN. -/
  | nanOnly
  /-- E2M1: neither. -/
  | neither
  deriving DecidableEq, Repr

/-- A floating-point element format (R24). -/
structure Fmt where
  /-- Exponent bits. -/
  eb : Nat
  /-- Significand bits. -/
  mb : Nat
  /-- Exponent bias. -/
  bias : Nat
  /-- Special values. -/
  sp : Special
  /-- Canonical NaN (R25); 0 where the format has none. -/
  qnan : Nat
  deriving DecidableEq, Repr

def Fmt.fp32 : Fmt := ⟨8, 23, 127, .ieee, 0x7FC00000⟩
def Fmt.bf16 : Fmt := ⟨8, 7, 127, .ieee, 0x7FC0⟩
def Fmt.fp16 : Fmt := ⟨5, 10, 15, .ieee, 0x7E00⟩
def Fmt.e4m3 : Fmt := ⟨4, 3, 7, .nanOnly, 0x7F⟩
def Fmt.e5m2 : Fmt := ⟨5, 2, 15, .ieee, 0x7E⟩
def Fmt.e2m1 : Fmt := ⟨2, 1, 1, .neither, 0⟩
/-- The 64-bit format of a Headland vector element of 64 bits (R244, R246). -/
def Fmt.fp64 : Fmt := ⟨11, 52, 1023, .ieee, 0x7FF8000000000000⟩

/-- Width of an element in bits. -/
def Fmt.width (f : Fmt) : Nat := 1 + f.eb + f.mb

/-- Code of the largest finite magnitude. -/
def Fmt.maxFin (f : Fmt) : Nat :=
  match f.sp with
  | .ieee => (2 ^ f.eb - 1) * 2 ^ f.mb - 1
  | .nanOnly => 2 ^ (f.eb + f.mb) - 2
  | .neither => 2 ^ (f.eb + f.mb) - 1

/-- Exponent of the last place of a subnormal. -/
def Fmt.eLow (f : Fmt) : Int := 1 - (f.bias : Int) - (f.mb : Int)

/-- The value an element's bits stand for. -/
def Fmt.decode (f : Fmt) (bits : Nat) : Num :=
  let s := bits / 2 ^ (f.eb + f.mb) % 2 == 1
  let c := bits % 2 ^ (f.eb + f.mb)
  let e := c / 2 ^ f.mb
  let m := c % 2 ^ f.mb
  if f.maxFin < c then
    (match f.sp with
     | .ieee => if m = 0 then .inf s else .nan
     | .nanOnly => .nan
     | .neither => .fin s m f.eLow)
  else if e = 0 then .fin s m f.eLow
  else .fin s (m + 2 ^ f.mb) (f.eLow + ((e : Int) - 1))

/-- The rounding of one result (R30, R33, R34). -/
inductive Rnd where
  | rne | rtz
  /-- Stochastic, with the element's 16-bit draw. -/
  | sr (r : Nat)
  deriving DecidableEq, Repr

/-- Whether a magnitude truncated to `q` with remainder `rem` out of `2 ^ sh` moves one place away from zero. -/
def Rnd.up (rnd : Rnd) (q rem sh : Nat) : Bool :=
  match rnd with
  | .rne => decide (2 ^ sh < 2 * rem) || (decide (2 * rem = 2 ^ sh) && q % 2 == 1)
  | .rtz => false
  | .sr r => decide (r < rem * 65536 / 2 ^ sh)

/-- The code of the magnitude `m × 2^e`, rounded with no bound on the exponent: codes past `maxFin` are out of range. -/
def Fmt.roundMag (f : Fmt) (rnd : Rnd) (m : Nat) (e : Int) : Nat :=
  if m = 0 then 0 else
  let p : Int := (Nat.log2 m : Int) + e
  let ue : Int := max (p - (f.mb : Int)) f.eLow
  let base := (ue - f.eLow).toNat * 2 ^ f.mb
  if ue ≤ e then base + m * 2 ^ (e - ue).toNat
  else
    let sh := (ue - e).toNat
    let q := m / 2 ^ sh
    let rem := m % 2 ^ sh
    base + q + (if rnd.up q rem sh then 1 else 0)

/-- Bits of a signed code. -/
def Fmt.sign (f : Fmt) (s : Bool) (c : Nat) : Nat := if s then c + 2 ^ (f.eb + f.mb) else c

/-- Infinity in a format that has one; the canonical NaN of E4M3 (R40); the largest finite E2M1. -/
def Fmt.infCode (f : Fmt) (s : Bool) : Nat :=
  match f.sp with
  | .ieee => f.sign s ((2 ^ f.eb - 1) * 2 ^ f.mb)
  | .nanOnly => f.qnan
  | .neither => f.sign s f.maxFin

/-- Round a value to a plain format. The flag says that R42 counts the element: it is written as NaN or infinity, or
saturated from an infinity or from beyond the range. FP32 is written as an infinity whatever SAT holds (R40). -/
def Fmt.encode (f : Fmt) (rnd : Rnd) (sat : Bool) : Num → Nat × Bool
  | .nan => (f.qnan, true)
  | .inf s => (if sat && f.mb != 23 then f.sign s f.maxFin else f.infCode s, true)
  | .fin s m e =>
    let c := f.roundMag rnd m e
    if c ≤ f.maxFin then (f.sign s c, false)
    else (if sat && f.mb != 23 then f.sign s f.maxFin else f.infCode s, true)

/-- Round a value to nearest even, no saturation, and read it back: the result of an arithmetic operation in a format. -/
def Fmt.rne (f : Fmt) (v : Num) : Num := f.decode (f.encode .rne false v).1

/-- The sign of a value; a NaN has none. -/
def Num.neg? : Num → Bool
  | .nan => false
  | .inf s => s
  | .fin s _ _ => s

def Num.isNan : Num → Bool
  | .nan => true
  | _ => false

def Num.isInf : Num → Bool
  | .inf _ => true
  | _ => false

def Num.isZero : Num → Bool
  | .fin _ 0 _ => true
  | _ => false

/-- NaN or infinite. -/
def Num.nonFinite (v : Num) : Bool := v.isNan || v.isInf

/-- The value with its sign inverted; a NaN stays the canonical NaN. -/
def Num.negate : Num → Num
  | .nan => .nan
  | .inf s => .inf (!s)
  | .fin s m e => .fin (!s) m e

/-- The value with its sign clear. -/
def Num.abs : Num → Num
  | .nan => .nan
  | .inf _ => .inf false
  | .fin _ m e => .fin false m e

/-- Exact product (R40: infinity × 0 is NaN). -/
def Num.mul : Num → Num → Num
  | .nan, _ => .nan
  | _, .nan => .nan
  | .inf s, b => if b.isZero then .nan else .inf (s != b.neg?)
  | a, .inf s => if a.isZero then .nan else .inf (a.neg? != s)
  | .fin s m e, .fin t n g => .fin (s != t) (m * n) (e + g)

/-- `v × 2^k`, exact. -/
def Num.scale (k : Int) : Num → Num
  | .nan => .nan
  | .inf s => .inf s
  | .fin s m e => .fin s m (e + k)

/-- The signed multiple of `2 ^ e0` that a finite value is, for `e0` at most its exponent. -/
def Num.units (e0 : Int) : Num → Int
  | .fin s m e => (if s then -1 else 1) * (m : Int) * (2 ^ (e - e0).toNat : Nat)
  | _ => 0

/-- The least exponent among finite nonzero values, at most `d`. -/
def Num.minExp (d : Int) (vs : List Num) : Int :=
  vs.foldl (fun a v => match v with | .fin _ m e => if m = 0 then a else min a e | _ => a) d

/-- The exact sum of values (R36, R40, R41): NaN with a NaN or with both infinities, an infinity with one of them, and
+0 for a zero sum unless every addend is −0. -/
def Num.sum (vs : List Num) : Num :=
  if vs.any Num.isNan || (vs.any (fun v => decide (v = .inf false)) && vs.any (fun v => decide (v = .inf true))) then .nan
  else if vs.any (fun v => decide (v = .inf false)) then .inf false
  else if vs.any (fun v => decide (v = .inf true)) then .inf true
  else
    let e0 := Num.minExp 0 vs
    let t := vs.foldl (fun (a : Int) v => a + v.units e0) 0
    if t = 0 then .fin (!vs.isEmpty && vs.all (fun v => v.neg? && v.isZero)) 0 0
    else .fin (decide (t < 0)) t.natAbs e0

/-- Exact sum of two values. -/
def Num.add (a b : Num) : Num := Num.sum [a, b]

/-- Whether `a < b`; false when either is NaN. Both zeros are equal. -/
def Num.lt : Num → Num → Bool
  | .nan, _ => false
  | _, .nan => false
  | .inf s, b => s && decide (b ≠ .inf true)
  | a, .inf t => !t && decide (a ≠ .inf false)
  | a, b =>
    let e0 := Num.minExp 0 [a, b]
    decide (a.units e0 < b.units e0)

/-- Whether two values are equal as numbers; false when either is NaN. -/
def Num.eqv (a b : Num) : Bool := !a.isNan && !b.isNan && !a.lt b && !b.lt a

/-- The larger value; NaN when either is NaN (R31). +0 counts as larger than −0. -/
def Num.maxOf (a b : Num) : Num :=
  if a.isNan || b.isNan then .nan
  else if a.lt b then b
  else if b.lt a then a
  else if a.neg? then b else a

/-- The smaller value; NaN when either is NaN (R31). -/
def Num.minOf (a b : Num) : Num :=
  if a.isNan || b.isNan then .nan
  else if a.lt b then a
  else if b.lt a then b
  else if a.neg? then a else b

/-- A quotient of finite values with its divisor not zero, exact but for a sticky last place, wide enough to round once. -/
def Num.quot (s : Bool) (m : Nat) (e : Int) (n : Nat) (g : Int) : Num :=
  let k : Nat := 192
  let q := m * 2 ^ k / n
  let r := m * 2 ^ k % n
  .fin s (2 * q + (if r = 0 then 0 else 1)) (e - g - (k : Int) - 1)

/-- Integer square root, bit by bit from bit `k`. -/
def isqrt : Nat → Nat → Nat → Nat
  | 0, _, r => r
  | k + 1, n, r => let r' := r + 2 ^ k; isqrt k n (if r' * r' ≤ n then r' else r)

/-- The square root of a finite value, exact but for a sticky last place, wide enough to round once. -/
def Num.root (m : Nat) (e : Int) : Num :=
  let m1 := if e % 2 = 0 then m else 2 * m
  let e1 := if e % 2 = 0 then e else e - 1
  let n := m1 * 2 ^ 128
  let r := isqrt 200 n 0
  .fin false (2 * r + (if r * r = n then 0 else 1)) (e1 / 2 - 64 - 1)

/-- The exact value of a two's-complement integer of width `w`. -/
def Num.ofInt (i : Int) : Num := .fin (decide (i < 0)) i.natAbs 0

/-- Two's-complement value of the low `w` bits. -/
def sext (w n : Nat) : Int :=
  let x := n % 2 ^ w
  if x < 2 ^ (w - 1) then (x : Int) else (x : Int) - (2 ^ w : Nat)

/-- The low `w` bits of an integer. -/
def wrap (w : Nat) (i : Int) : Nat := (i % (((2 : Nat) ^ w : Nat) : Int)).toNat

/-- Floor of log2 of a finite nonzero magnitude. -/
def Num.logFloor : Num → Int
  | .fin _ m e => (Nat.log2 m : Int) + e
  | _ => 0

/-- Integer part toward zero, or by RNE, of a value as a multiple of 1; used by conversions to integers. -/
def Num.toInt (rnd : Rnd) : Num → Int
  | .fin s m e =>
    let mag : Nat := if 0 ≤ e then m * 2 ^ e.toNat
      else
        let sh := (-e).toNat
        let q := m / 2 ^ sh
        q + (if rnd.up q (m % 2 ^ sh) sh then 1 else 0)
    if s then -(mag : Int) else (mag : Int)
  | _ => 0

/- Block scaling (R27 to R29, R459). -/

/-- The value of an MX element: its stored value times `2 ^ (scale − 127)`; NaN in a block of scale 0xFF (R28). -/
def mxValue (f : Fmt) (scale bits : Nat) : Num :=
  if scale = 255 then .nan else (f.decode bits).scale ((scale : Int) - 127)

/-- The exponent the scale rule of R29 subtracts. -/
def mxEmax (f : Fmt) : Int := if f.eb = 4 then 8 else if f.eb = 5 then 15 else 2

/-- The scale R29 writes for a block of values. -/
def mxScale (f : Fmt) (vs : List Num) : Nat :=
  if vs.any Num.nonFinite then 255
  else
    let nz := vs.filter (fun v => !v.isZero)
    match nz with
    | [] => 0x7F
    | v :: rest =>
      let big := rest.foldl (fun a u => max a u.logFloor) v.logFloor
      (max 0 (min 254 (127 + big - mxEmax f))).toNat

/-- One element of a block written with scale `sc`: saturating whatever SAT holds (R459); zero in a block of scale 0xFF. -/
def mxElem (f : Fmt) (rnd : Rnd) (sc : Nat) (v : Num) : Nat :=
  if sc = 255 then 0
  else
    match v.scale (127 - (sc : Int)) with
    | .fin s m e => f.sign s (min (f.roundMag rnd m e) f.maxFin)
    | _ => 0

/- Philox-4×32-10 (R34, R294). -/

/-- One Philox round on counter words and key words. PRESUMED: log entry 11. -/
def philoxRound (c : Nat × Nat × Nat × Nat) (k : Nat × Nat) : Nat × Nat × Nat × Nat :=
  let (c0, c1, c2, c3) := c
  let p0 := 0xD2511F53 * c0
  let p1 := 0xCD9E8D57 * c2
  ((p1 / 2 ^ 32).xor (c1.xor k.1), p1 % 2 ^ 32, (p0 / 2 ^ 32).xor (c3.xor k.2), p0 % 2 ^ 32)

/-- `n` rounds, the key moving on after each. -/
def philoxRounds : Nat → Nat × Nat × Nat × Nat → Nat × Nat → Nat × Nat × Nat × Nat
  | 0, c, _ => c
  | n + 1, c, k =>
    philoxRounds n (philoxRound c k) ((k.1 + 0x9E3779B9) % 2 ^ 32, (k.2 + 0xBB67AE85) % 2 ^ 32)

/-- The 128 output bits of Philox-4×32-10, low word first: key, counter words 0 and 1 as one 64-bit value, words 2 and 3. -/
def philox (key ctr01 ctr2 ctr3 : Nat) : Nat :=
  let (a, b, c, d) := philoxRounds 10
    (ctr01 % 2 ^ 32, ctr01 / 2 ^ 32 % 2 ^ 32, ctr2 % 2 ^ 32, ctr3 % 2 ^ 32) (key % 2 ^ 32, key / 2 ^ 32 % 2 ^ 32)
  a + b * 2 ^ 32 + c * 2 ^ 64 + d * 2 ^ 96

/-- The 16-bit draw of R34 for element `i` of a destination tensor. -/
def srDraw (seed stream i : Nat) : Nat := philox seed (i / 8) stream 1 / 2 ^ (16 * (i % 8)) % 65536

/-- The rounding that a 2-bit RND field selects for element `i` (R30); code 11 never reaches a rounding. -/
def rndOf (rnd seed stream i : Nat) : Rnd :=
  if rnd = 0 then .rne else if rnd = 1 then .rtz else .sr (srDraw seed stream i)

/-! The functions with an ulp bound (R31): their exact values, truncated far past any format's last place -/

/-- One in the fixed-point values below. -/
def fixOne : Nat := 2 ^ 192
/-- ln 2 and 2/√π, truncated. -/
def fixLn2 : Nat := 4350955369971217654477563090224794165364344896676135745069
def fixErf : Nat := 7082950827949419406546779429796514218173736946937360083502

/-- The magnitude `m × 2^e` in fixed point, truncated. -/
def fixOf (m : Nat) (e : Int) : Nat := if 0 ≤ e + 192 then m * 2 ^ (e + 192).toNat else m / 2 ^ (-(e + 192)).toNat

/-- `n` terms of 1 + r/k · (1 + r/(k+1) · (…)). -/
def expSeries (r : Nat) : Nat → Nat → Nat
  | 0, _ => fixOne
  | n + 1, k => fixOne + r * expSeries r n (k + 1) / fixOne / k

/-- `n` terms of 1/k + y · (1/(k+2) + y · (…)). -/
def atanhSeries (y : Nat) : Nat → Nat → Nat
  | 0, _ => 0
  | n + 1, k => fixOne / k + y * atanhSeries y n (k + 2) / fixOne

/-- `n` terms of 1 + t/k · (1 + t/(k+2) · (…)). -/
def erfSeries (t : Nat) : Nat → Nat → Nat
  | 0, _ => fixOne
  | n + 1, k => fixOne + t * erfSeries t n (k + 2) / fixOne / k

/-- e^x for a fixed-point `x`: a power of two and a factor from one to two. -/
def expFix (x : Nat) : Nat × Nat := (x / fixLn2, expSeries (x % fixLn2) 60 1)

/-- Just above or just below one. -/
def nearOne (s up : Bool) : Num := .fin s (if up then 2 ^ 100 + 1 else 2 ^ 100 - 1) (-100)

/-- `f × 2^n` or its reciprocal, `f` a fixed-point factor with bits lost below it. -/
def powNum (recip : Bool) (n f : Nat) : Num :=
  if recip then .fin false (2 * (2 ^ 400 / f) + 1) (-209 - (n : Int)) else .fin false (2 * f + 1) ((n : Int) - 193)

/-- e^x and 2^x where `x` is not near zero; past 512 they leave every format. -/
def expNum (two s : Bool) (x : Nat) : Num :=
  if x < 2 ^ 128 then nearOne false (!s)
  else if 512 * fixOne ≤ x then .fin false 1 (if s then -2000 else 2000)
  else if two then
    (if x % fixOne = 0 then .fin false 1 (if s then -((x / fixOne : Nat) : Int) else (x / fixOne : Nat))
     else powNum s (x / fixOne) (expSeries (x % fixOne * fixLn2 / fixOne) 60 1))
  else powNum s (expFix x).1 (expFix x).2

/-- The natural or binary logarithm of `m × 2^e`. -/
def logNum (two : Bool) (m : Nat) (e : Int) : Num :=
  let b := Nat.log2 m
  let k : Int := (b : Int) + e
  let y := (m - 2 ^ b) * fixOne / (m + 2 ^ b)
  let ln := 2 * y * atanhSeries (y * y / fixOne) 70 1 / fixOne
  if m = 2 ^ b ∧ (two ∨ k = 0) then .fin (decide (k < 0)) k.natAbs 0
  else
    let t : Int := if two then k * (fixOne : Int) + ((ln * fixOne / fixLn2 : Nat) : Int) else k * (fixLn2 : Int) + (ln : Int)
    .fin (decide (t < 0)) (2 * t.natAbs + 1) (-193)

def tanhNum (s : Bool) (m : Nat) (e : Int) : Num :=
  let x := fixOf m e
  if x < 2 ^ 152 then .fin s (m * 2 ^ 64 - 1) (e - 64)
  else if 30 * fixOne ≤ x then nearOne s false
  else
    let p := (expFix (2 * x)).2 * 2 ^ (expFix (2 * x)).1
    .fin s (2 * ((p - fixOne) * fixOne / (p + fixOne)) + 1) (-193)

def sigmNum (s : Bool) (m : Nat) (e : Int) : Num :=
  let x := fixOf m e
  if x < 2 ^ 128 then Num.scale (-1) (nearOne false (!s))
  else if 512 * fixOne ≤ x then (if s then .fin false 1 (-2000) else nearOne false false)
  else
    let p := (expFix x).2 * 2 ^ (expFix x).1
    if s then .fin false (2 * (fixOne * 2 ^ 1000 / (p + fixOne)) + 1) (-1001)
    else .fin false (2 * (p * fixOne / (p + fixOne)) + 1) (-193)

def erfNum (s : Bool) (m : Nat) (e : Int) : Num :=
  let x := fixOf m e
  if x < 2 ^ 152 then .fin s (2 * (m * fixErf) + 1) (e - 193)
  else if 6 * fixOne ≤ x then nearOne s false
  else
    let x2 := x * x / fixOne
    .fin s (2 * (fixErf * x * erfSeries (2 * x2) 200 3 / ((expFix x2).2 * 2 ^ (expFix x2).1 * fixOne)) + 1) (-193)

/-- The value of an opcode's function (R93) at a finite argument; none where the manual gives none, a logarithm of what is not
positive. -/
def funcValue (op : Nat) (s : Bool) (m : Nat) (e : Int) : Option Num :=
  match op with
  | 0x0A => some (if m = 0 then .fin false 1 0 else expNum true s (fixOf m e))
  | 0x0B => if s ∨ m = 0 then none else some (logNum true m e)
  | 0x0C => some (if m = 0 then .fin false 1 0 else expNum false s (fixOf m e))
  | 0x0D => if s ∨ m = 0 then none else some (logNum false m e)
  | 0x0E => some (if m = 0 then .fin s 0 0 else tanhNum s m e)
  | 0x0F => some (if m = 0 then .fin false 1 (-1) else sigmNum s m e)
  | 0x10 => some (if m = 0 then .fin s 0 0 else erfNum s m e)
  | _ => none

end Sys2Proof.Machine
end

