-- ==== Sys2Proof/Machine/RegMap.lean ====
section
/-!
DEFINITION. Every register of the manual: its address, its fields, its access codes and its reset value.

Each register table of the manual (R47, R78, R100, R101, R108, R117, R118, R125, R175, R177 to R179, R211, R212,
R240 to R242, R262, R282, R283, R304, R340, R341, R369, R370, R387, R388, R422, R442, R456) appears here as one
function from the register's indices to its address, one `Fld` for each field, and one row of `regTable`.
An index that the manual writes as a subscript (job j, die d, core n, port p, ...) is an argument here.
A field whose reset the manual gives as fused, measured, strapped or loaded reads the value the log names until POWER_ON.
-/

namespace Sys2Proof.Reg

/-- HB_FIN_STATE_j, R47: the address of the register. -/
def HB_FIN_STATE (j : Nat) : Nat := 0xF00010040000 + j * 0x20
/-- STEP of HB_FIN_STATE_j (RO). -/
def HB_FIN_STATE_STEP (j : Nat) : Fld := ⟨HB_FIN_STATE j, 0, 32⟩
/-- FINAL of HB_FIN_STATE_j (RO). -/
def HB_FIN_STATE_FINAL (j : Nat) : Fld := ⟨HB_FIN_STATE j, 32, 1⟩
/-- FINITE of HB_FIN_STATE_j (RO). -/
def HB_FIN_STATE_FINITE (j : Nat) : Fld := ⟨HB_FIN_STATE j, 33, 1⟩
/-- LOCAL_NF of HB_FIN_STATE_j (RO). -/
def HB_FIN_STATE_LOCAL_NF (j : Nat) : Fld := ⟨HB_FIN_STATE j, 34, 1⟩
/-- LATE_NF of HB_FIN_STATE_j (RO). -/
def HB_FIN_STATE_LATE_NF (j : Nat) : Fld := ⟨HB_FIN_STATE j, 35, 1⟩

/-- HB_FIN_COUNT_j, R47: the address of the register. -/
def HB_FIN_COUNT (j : Nat) : Nat := 0xF00010040008 + j * 0x20
/-- GRAD_NF of HB_FIN_COUNT_j (RO). -/
def HB_FIN_COUNT_GRAD_NF (j : Nat) : Fld := ⟨HB_FIN_COUNT j, 0, 32⟩
/-- LOSS_NF of HB_FIN_COUNT_j (RO). -/
def HB_FIN_COUNT_LOSS_NF (j : Nat) : Fld := ⟨HB_FIN_COUNT j, 32, 32⟩

/-- HB_FIN_PREV_j, R47: the address of the register. -/
def HB_FIN_PREV (j : Nat) : Nat := 0xF00010040010 + j * 0x20
/-- STEP of HB_FIN_PREV_j (RO). -/
def HB_FIN_PREV_STEP (j : Nat) : Fld := ⟨HB_FIN_PREV j, 0, 32⟩
/-- VALID of HB_FIN_PREV_j (RO). -/
def HB_FIN_PREV_VALID (j : Nat) : Fld := ⟨HB_FIN_PREV j, 32, 1⟩
/-- FINITE of HB_FIN_PREV_j (RO). -/
def HB_FIN_PREV_FINITE (j : Nat) : Fld := ⟨HB_FIN_PREV j, 33, 1⟩
/-- DECIDED of HB_FIN_PREV_j (RO). -/
def HB_FIN_PREV_DECIDED (j : Nat) : Fld := ⟨HB_FIN_PREV j, 34, 1⟩

/-- RF_MX_STATE, R78: the address of the register. -/
def RF_MX_STATE (d : Nat) (n : Nat) : Nat := 0xF00001030000 + d * 0x4000000 + n * 0x100000
/-- BUSY of RF_MX_STATE (RO). -/
def RF_MX_STATE_BUSY (d : Nat) (n : Nat) : Fld := ⟨RF_MX_STATE d n, 0, 1⟩
/-- JOB of RF_MX_STATE (RO). -/
def RF_MX_STATE_JOB (d : Nat) (n : Nat) : Fld := ⟨RF_MX_STATE d n, 1, 6⟩
/-- DRAINING of RF_MX_STATE (RO). -/
def RF_MX_STATE_DRAINING (d : Nat) (n : Nat) : Fld := ⟨RF_MX_STATE d n, 7, 1⟩
/-- PASS of RF_MX_STATE (RO). -/
def RF_MX_STATE_PASS (d : Nat) (n : Nat) : Fld := ⟨RF_MX_STATE d n, 8, 8⟩
/-- PASSES of RF_MX_STATE (RO). -/
def RF_MX_STATE_PASSES (d : Nat) (n : Nat) : Fld := ⟨RF_MX_STATE d n, 16, 9⟩
/-- SHAPE of RF_MX_STATE (RO). -/
def RF_MX_STATE_SHAPE (d : Nat) (n : Nat) : Fld := ⟨RF_MX_STATE d n, 25, 2⟩
/-- HELD of RF_MX_STATE (RO). -/
def RF_MX_STATE_HELD (d : Nat) (n : Nat) : Fld := ⟨RF_MX_STATE d n, 27, 1⟩

/-- RF_MX_CTRL, R78: the address of the register. -/
def RF_MX_CTRL (d : Nat) (n : Nat) : Nat := 0xF00001030008 + d * 0x4000000 + n * 0x100000
/-- CNT_CLR of RF_MX_CTRL (WO). -/
def RF_MX_CTRL_CNT_CLR (d : Nat) (n : Nat) : Fld := ⟨RF_MX_CTRL d n, 0, 1⟩
/-- PLAN_FLUSH of RF_MX_CTRL (WO). -/
def RF_MX_CTRL_PLAN_FLUSH (d : Nat) (n : Nat) : Fld := ⟨RF_MX_CTRL d n, 1, 1⟩

/-- RF_MX_CYC_BUSY, R78: the address of the register. -/
def RF_MX_CYC_BUSY (d : Nat) (n : Nat) : Nat := 0xF00001030010 + d * 0x4000000 + n * 0x100000
/-- COUNT of RF_MX_CYC_BUSY (RO). -/
def RF_MX_CYC_BUSY_COUNT (d : Nat) (n : Nat) : Fld := ⟨RF_MX_CYC_BUSY d n, 0, 64⟩

/-- RF_MX_CYC_HELD, R78: the address of the register. -/
def RF_MX_CYC_HELD (d : Nat) (n : Nat) : Nat := 0xF00001030018 + d * 0x4000000 + n * 0x100000
/-- COUNT of RF_MX_CYC_HELD (RO). -/
def RF_MX_CYC_HELD_COUNT (d : Nat) (n : Nat) : Fld := ⟨RF_MX_CYC_HELD d n, 0, 64⟩

/-- RF_MX_PROD, R78: the address of the register. -/
def RF_MX_PROD (d : Nat) (n : Nat) : Nat := 0xF00001030020 + d * 0x4000000 + n * 0x100000
/-- COUNT of RF_MX_PROD (RO). -/
def RF_MX_PROD_COUNT (d : Nat) (n : Nat) : Fld := ⟨RF_MX_PROD d n, 0, 64⟩

/-- RF_MX_PLAN, R78: the address of the register. -/
def RF_MX_PLAN (d : Nat) (n : Nat) : Nat := 0xF00001030028 + d * 0x4000000 + n * 0x100000
/-- HITS of RF_MX_PLAN (RO). -/
def RF_MX_PLAN_HITS (d : Nat) (n : Nat) : Fld := ⟨RF_MX_PLAN d n, 0, 32⟩
/-- MISSES of RF_MX_PLAN (RO). -/
def RF_MX_PLAN_MISSES (d : Nat) (n : Nat) : Fld := ⟨RF_MX_PLAN d n, 32, 32⟩

/-- RF_MV_STATE, R78: the address of the register. -/
def RF_MV_STATE (d : Nat) (n : Nat) : Nat := 0xF00001030040 + d * 0x4000000 + n * 0x100000
/-- BUSY of RF_MV_STATE (RO). -/
def RF_MV_STATE_BUSY (d : Nat) (n : Nat) : Fld := ⟨RF_MV_STATE d n, 0, 1⟩
/-- JOB of RF_MV_STATE (RO). -/
def RF_MV_STATE_JOB (d : Nat) (n : Nat) : Fld := ⟨RF_MV_STATE d n, 1, 6⟩

/-- RF_MV_CYC_BUSY, R78: the address of the register. -/
def RF_MV_CYC_BUSY (d : Nat) (n : Nat) : Nat := 0xF00001030048 + d * 0x4000000 + n * 0x100000
/-- COUNT of RF_MV_CYC_BUSY (RO). -/
def RF_MV_CYC_BUSY_COUNT (d : Nat) (n : Nat) : Fld := ⟨RF_MV_CYC_BUSY d n, 0, 64⟩

/-- RF_MV_CYC_HELD, R78: the address of the register. -/
def RF_MV_CYC_HELD (d : Nat) (n : Nat) : Nat := 0xF00001030050 + d * 0x4000000 + n * 0x100000
/-- COUNT of RF_MV_CYC_HELD (RO). -/
def RF_MV_CYC_HELD_COUNT (d : Nat) (n : Nat) : Fld := ⟨RF_MV_CYC_HELD d n, 0, 64⟩

/-- RF_MV_PROD, R78: the address of the register. -/
def RF_MV_PROD (d : Nat) (n : Nat) : Nat := 0xF00001030058 + d * 0x4000000 + n * 0x100000
/-- COUNT of RF_MV_PROD (RO). -/
def RF_MV_PROD_COUNT (d : Nat) (n : Nat) : Fld := ⟨RF_MV_PROD d n, 0, 64⟩

/-- RF_NF_SRC, R100: the address of the register. -/
def RF_NF_SRC (d : Nat) (n : Nat) : Nat := 0xF00001040058 + d * 0x4000000 + n * 0x100000
/-- MX of RF_NF_SRC (W1C). -/
def RF_NF_SRC_MX (d : Nat) (n : Nat) : Fld := ⟨RF_NF_SRC d n, 0, 1⟩
/-- MV of RF_NF_SRC (W1C). -/
def RF_NF_SRC_MV (d : Nat) (n : Nat) : Fld := ⟨RF_NF_SRC d n, 1, 1⟩
/-- VX of RF_NF_SRC (W1C). -/
def RF_NF_SRC_VX (d : Nat) (n : Nat) : Fld := ⟨RF_NF_SRC d n, 2, 1⟩
/-- DM of RF_NF_SRC (W1C). -/
def RF_NF_SRC_DM (d : Nat) (n : Nat) : Fld := ⟨RF_NF_SRC d n, 3, 1⟩

/-- RF_NF_LAST, R100: the address of the register. -/
def RF_NF_LAST (d : Nat) (n : Nat) : Nat := 0xF00001040060 + d * 0x4000000 + n * 0x100000
/-- JOB of RF_NF_LAST (RO). -/
def RF_NF_LAST_JOB (d : Nat) (n : Nat) : Fld := ⟨RF_NF_LAST d n, 0, 6⟩
/-- CLS of RF_NF_LAST (RO). -/
def RF_NF_LAST_CLS (d : Nat) (n : Nat) : Fld := ⟨RF_NF_LAST d n, 6, 2⟩
/-- ENGINE of RF_NF_LAST (RO). -/
def RF_NF_LAST_ENGINE (d : Nat) (n : Nat) : Fld := ⟨RF_NF_LAST d n, 8, 2⟩
/-- STEP of RF_NF_LAST (RO). -/
def RF_NF_LAST_STEP (d : Nat) (n : Nat) : Fld := ⟨RF_NF_LAST d n, 10, 32⟩
/-- VALID of RF_NF_LAST (RO). -/
def RF_NF_LAST_VALID (d : Nat) (n : Nat) : Fld := ⟨RF_NF_LAST d n, 42, 1⟩

/-- RF_VX_STATE, R101: the address of the register. -/
def RF_VX_STATE (d : Nat) (n : Nat) : Nat := 0xF00001040000 + d * 0x4000000 + n * 0x100000
/-- BUSY of RF_VX_STATE (RO). -/
def RF_VX_STATE_BUSY (d : Nat) (n : Nat) : Fld := ⟨RF_VX_STATE d n, 0, 1⟩
/-- JOB of RF_VX_STATE (RO). -/
def RF_VX_STATE_JOB (d : Nat) (n : Nat) : Fld := ⟨RF_VX_STATE d n, 1, 6⟩
/-- KIND of RF_VX_STATE (RO). -/
def RF_VX_STATE_KIND (d : Nat) (n : Nat) : Fld := ⟨RF_VX_STATE d n, 7, 1⟩
/-- PC of RF_VX_STATE (RO). -/
def RF_VX_STATE_PC (d : Nat) (n : Nat) : Fld := ⟨RF_VX_STATE d n, 8, 8⟩
/-- REPEAT of RF_VX_STATE (RO). -/
def RF_VX_STATE_REPEAT (d : Nat) (n : Nat) : Fld := ⟨RF_VX_STATE d n, 16, 20⟩
/-- CHUNK of RF_VX_STATE (RO). -/
def RF_VX_STATE_CHUNK (d : Nat) (n : Nat) : Fld := ⟨RF_VX_STATE d n, 36, 12⟩
/-- WAIT of RF_VX_STATE (RO). -/
def RF_VX_STATE_WAIT (d : Nat) (n : Nat) : Fld := ⟨RF_VX_STATE d n, 48, 1⟩

/-- RF_VX_CTRL, R101: the address of the register. -/
def RF_VX_CTRL (d : Nat) (n : Nat) : Nat := 0xF00001040008 + d * 0x4000000 + n * 0x100000
/-- CNT_CLR of RF_VX_CTRL (WO). -/
def RF_VX_CTRL_CNT_CLR (d : Nat) (n : Nat) : Fld := ⟨RF_VX_CTRL d n, 0, 1⟩
/-- NF_CLR of RF_VX_CTRL (WO). -/
def RF_VX_CTRL_NF_CLR (d : Nat) (n : Nat) : Fld := ⟨RF_VX_CTRL d n, 1, 1⟩

/-- RF_VX_CYC_BUSY, R101: the address of the register. -/
def RF_VX_CYC_BUSY (d : Nat) (n : Nat) : Nat := 0xF00001040010 + d * 0x4000000 + n * 0x100000
/-- COUNT of RF_VX_CYC_BUSY (RO). -/
def RF_VX_CYC_BUSY_COUNT (d : Nat) (n : Nat) : Fld := ⟨RF_VX_CYC_BUSY d n, 0, 64⟩

/-- RF_VX_CYC_WAIT, R101: the address of the register. -/
def RF_VX_CYC_WAIT (d : Nat) (n : Nat) : Nat := 0xF00001040018 + d * 0x4000000 + n * 0x100000
/-- COUNT of RF_VX_CYC_WAIT (RO). -/
def RF_VX_CYC_WAIT_COUNT (d : Nat) (n : Nat) : Fld := ⟨RF_VX_CYC_WAIT d n, 0, 64⟩

/-- RF_VX_LANEOPS, R101: the address of the register. -/
def RF_VX_LANEOPS (d : Nat) (n : Nat) : Nat := 0xF00001040020 + d * 0x4000000 + n * 0x100000
/-- COUNT of RF_VX_LANEOPS (RO). -/
def RF_VX_LANEOPS_COUNT (d : Nat) (n : Nat) : Fld := ⟨RF_VX_LANEOPS d n, 0, 64⟩

/-- RF_VX_CMDS, R101: the address of the register. -/
def RF_VX_CMDS (d : Nat) (n : Nat) : Nat := 0xF00001040028 + d * 0x4000000 + n * 0x100000
/-- CHAINS of RF_VX_CMDS (RO). -/
def RF_VX_CMDS_CHAINS (d : Nat) (n : Nat) : Fld := ⟨RF_VX_CMDS d n, 0, 32⟩
/-- PROGRAMS of RF_VX_CMDS (RO). -/
def RF_VX_CMDS_PROGRAMS (d : Nat) (n : Nat) : Fld := ⟨RF_VX_CMDS d n, 32, 32⟩

/-- HB_JOB_CMD, R108: the address of the register. -/
def HB_JOB_CMD : Nat := 0xF00010020000
/-- OP of HB_JOB_CMD (WO). -/
def HB_JOB_CMD_OP : Fld := ⟨HB_JOB_CMD, 0, 2⟩
/-- JOB of HB_JOB_CMD (WO). -/
def HB_JOB_CMD_JOB : Fld := ⟨HB_JOB_CMD, 2, 6⟩

/-- HB_JOB_ARG, R108: the address of the register. -/
def HB_JOB_ARG : Nat := 0xF00010020008
/-- DESC of HB_JOB_ARG (RW). -/
def HB_JOB_ARG_DESC : Fld := ⟨HB_JOB_ARG, 0, 52⟩

/-- HB_JOB_STATUS, R108: the address of the register. -/
def HB_JOB_STATUS : Nat := 0xF00010020010
/-- STATUS of HB_JOB_STATUS (RO). -/
def HB_JOB_STATUS_STATUS : Fld := ⟨HB_JOB_STATUS, 0, 16⟩
/-- BUSY of HB_JOB_STATUS (RO). -/
def HB_JOB_STATUS_BUSY : Fld := ⟨HB_JOB_STATUS, 16, 1⟩

/-- HB_JOB_LIVE, R108: the address of the register. -/
def HB_JOB_LIVE : Nat := 0xF00010020018
/-- LIVE of HB_JOB_LIVE (RO). -/
def HB_JOB_LIVE_LIVE : Fld := ⟨HB_JOB_LIVE, 0, 64⟩

/-- HB_DB_SQ_TAIL_r, R125: the address of the register. -/
def HB_DB_SQ_TAIL (j : Nat) (r : Nat) : Nat := 0xF00020000000 + j * 0x10000 + r * 0x8
/-- TAIL of HB_DB_SQ_TAIL_r (RW). -/
def HB_DB_SQ_TAIL_TAIL (j : Nat) (r : Nat) : Fld := ⟨HB_DB_SQ_TAIL j r, 0, 32⟩

/-- HB_DB_SQ_HEAD_r, R125: the address of the register. -/
def HB_DB_SQ_HEAD (j : Nat) (r : Nat) : Nat := 0xF00020000040 + j * 0x10000 + r * 0x8
/-- HEAD of HB_DB_SQ_HEAD_r (RO). -/
def HB_DB_SQ_HEAD_HEAD (j : Nat) (r : Nat) : Fld := ⟨HB_DB_SQ_HEAD j r, 0, 32⟩
/-- STOPPED of HB_DB_SQ_HEAD_r (RO). -/
def HB_DB_SQ_HEAD_STOPPED (j : Nat) (r : Nat) : Fld := ⟨HB_DB_SQ_HEAD j r, 32, 1⟩
/-- RESUME of HB_DB_SQ_HEAD_r (WO). -/
def HB_DB_SQ_HEAD_RESUME (j : Nat) (r : Nat) : Fld := ⟨HB_DB_SQ_HEAD j r, 33, 1⟩
/-- RESET of HB_DB_SQ_HEAD_r (WO). -/
def HB_DB_SQ_HEAD_RESET (j : Nat) (r : Nat) : Fld := ⟨HB_DB_SQ_HEAD j r, 34, 1⟩

/-- HB_DB_CQ_HEAD, R125: the address of the register. -/
def HB_DB_CQ_HEAD (j : Nat) : Nat := 0xF00020000080 + j * 0x10000
/-- HEAD of HB_DB_CQ_HEAD (RW). -/
def HB_DB_CQ_HEAD_HEAD (j : Nat) : Fld := ⟨HB_DB_CQ_HEAD j, 0, 32⟩

/-- HB_DB_CQ_TAIL, R125: the address of the register. -/
def HB_DB_CQ_TAIL (j : Nat) : Nat := 0xF00020000088 + j * 0x10000
/-- TAIL of HB_DB_CQ_TAIL (RO). -/
def HB_DB_CQ_TAIL_TAIL (j : Nat) : Fld := ⟨HB_DB_CQ_TAIL j, 0, 32⟩
/-- HELD of HB_DB_CQ_TAIL (RO). -/
def HB_DB_CQ_TAIL_HELD (j : Nat) : Fld := ⟨HB_DB_CQ_TAIL j, 32, 1⟩

/-- HB_DB_EQ_HEAD, R125: the address of the register. -/
def HB_DB_EQ_HEAD (j : Nat) : Nat := 0xF00020000090 + j * 0x10000
/-- HEAD of HB_DB_EQ_HEAD (RW). -/
def HB_DB_EQ_HEAD_HEAD (j : Nat) : Fld := ⟨HB_DB_EQ_HEAD j, 0, 32⟩

/-- HB_DB_EVENT, R125: the address of the register. -/
def HB_DB_EVENT (j : Nat) : Nat := 0xF00020000098 + j * 0x10000
/-- EVENT of HB_DB_EVENT (WO). -/
def HB_DB_EVENT_EVENT (j : Nat) : Fld := ⟨HB_DB_EVENT j, 0, 8⟩
/-- VALUE of HB_DB_EVENT (WO). -/
def HB_DB_EVENT_VALUE (j : Nat) : Fld := ⟨HB_DB_EVENT j, 16, 48⟩

/-- HB_DB_IRQ, R125: the address of the register. -/
def HB_DB_IRQ (j : Nat) : Nat := 0xF000200000A0 + j * 0x10000
/-- CQ_EN of HB_DB_IRQ (RW). -/
def HB_DB_IRQ_CQ_EN (j : Nat) : Fld := ⟨HB_DB_IRQ j, 0, 1⟩
/-- EQ_EN of HB_DB_IRQ (RW). -/
def HB_DB_IRQ_EQ_EN (j : Nat) : Fld := ⟨HB_DB_IRQ j, 1, 1⟩
/-- CQ_BATCH of HB_DB_IRQ (RW). -/
def HB_DB_IRQ_CQ_BATCH (j : Nat) : Fld := ⟨HB_DB_IRQ j, 2, 20⟩

/-- HB_PF_BASE_j, R175: the address of the register. -/
def HB_PF_BASE (j : Nat) : Nat := 0xF000100C0000 + j * 0x40
/-- BASE of HB_PF_BASE_j (RW). -/
def HB_PF_BASE_BASE (j : Nat) : Fld := ⟨HB_PF_BASE j, 0, 57⟩

/-- HB_PF_CFG_j, R175: the address of the register. -/
def HB_PF_CFG (j : Nat) : Nat := 0xF000100C0008 + j * 0x40
/-- NENTM1 of HB_PF_CFG_j (RW). -/
def HB_PF_CFG_NENTM1 (j : Nat) : Fld := ⟨HB_PF_CFG j, 0, 12⟩
/-- DEPTHM1 of HB_PF_CFG_j (RW). -/
def HB_PF_CFG_DEPTHM1 (j : Nat) : Fld := ⟨HB_PF_CFG j, 12, 4⟩
/-- PASS_INC of HB_PF_CFG_j (RW). -/
def HB_PF_CFG_PASS_INC (j : Nat) : Fld := ⟨HB_PF_CFG j, 16, 48⟩

/-- HB_PF_CTRL_j, R175: the address of the register. -/
def HB_PF_CTRL (j : Nat) : Nat := 0xF000100C0010 + j * 0x40
/-- START of HB_PF_CTRL_j (WO). -/
def HB_PF_CTRL_START (j : Nat) : Fld := ⟨HB_PF_CTRL j, 0, 1⟩
/-- STOP of HB_PF_CTRL_j (WO). -/
def HB_PF_CTRL_STOP (j : Nat) : Fld := ⟨HB_PF_CTRL j, 1, 1⟩
/-- RESUME of HB_PF_CTRL_j (WO). -/
def HB_PF_CTRL_RESUME (j : Nat) : Fld := ⟨HB_PF_CTRL j, 2, 1⟩

/-- HB_PF_STATE_j, R175: the address of the register. -/
def HB_PF_STATE (j : Nat) : Nat := 0xF000100C0018 + j * 0x40
/-- ENTRY of HB_PF_STATE_j (RO). -/
def HB_PF_STATE_ENTRY (j : Nat) : Fld := ⟨HB_PF_STATE j, 0, 12⟩
/-- RUNNING of HB_PF_STATE_j (RO). -/
def HB_PF_STATE_RUNNING (j : Nat) : Fld := ⟨HB_PF_STATE j, 12, 1⟩
/-- FAILED of HB_PF_STATE_j (RO). -/
def HB_PF_STATE_FAILED (j : Nat) : Fld := ⟨HB_PF_STATE j, 13, 1⟩
/-- STATUS of HB_PF_STATE_j (RO). -/
def HB_PF_STATE_STATUS (j : Nat) : Fld := ⟨HB_PF_STATE j, 16, 16⟩
/-- PASS of HB_PF_STATE_j (RO). -/
def HB_PF_STATE_PASS (j : Nat) : Fld := ⟨HB_PF_STATE j, 32, 32⟩

/-- SK_STATE_s, R177: the address of the register. -/
def SK_STATE (s : Nat) : Nat := 0xF00016000000 + s * 0x10000
/-- TRAINED of SK_STATE_s (RO). -/
def SK_STATE_TRAINED (s : Nat) : Fld := ⟨SK_STATE s, 0, 1⟩
/-- REFRESH2X of SK_STATE_s (RO). -/
def SK_STATE_REFRESH2X (s : Nat) : Fld := ⟨SK_STATE s, 1, 1⟩
/-- TSTEP of SK_STATE_s (RO). -/
def SK_STATE_TSTEP (s : Nat) : Fld := ⟨SK_STATE s, 2, 2⟩
/-- TEMP of SK_STATE_s (RO). -/
def SK_STATE_TEMP (s : Nat) : Fld := ⟨SK_STATE s, 4, 8⟩
/-- DEGRADED of SK_STATE_s (RO). -/
def SK_STATE_DEGRADED (s : Nat) : Fld := ⟨SK_STATE s, 12, 1⟩

/-- SK_ECC_CNT_s, R177: the address of the register. -/
def SK_ECC_CNT (s : Nat) : Nat := 0xF00016000008 + s * 0x10000
/-- CORR of SK_ECC_CNT_s (RO). -/
def SK_ECC_CNT_CORR (s : Nat) : Fld := ⟨SK_ECC_CNT s, 0, 32⟩
/-- UNCORR of SK_ECC_CNT_s (RO). -/
def SK_ECC_CNT_UNCORR (s : Nat) : Fld := ⟨SK_ECC_CNT s, 32, 32⟩

/-- SK_LAST_s, R177: the address of the register. -/
def SK_LAST (s : Nat) : Nat := 0xF00016000010 + s * 0x10000
/-- ADDR of SK_LAST_s (RO). -/
def SK_LAST_ADDR (s : Nat) : Fld := ⟨SK_LAST s, 0, 52⟩
/-- SYMBOL of SK_LAST_s (RO). -/
def SK_LAST_SYMBOL (s : Nat) : Fld := ⟨SK_LAST s, 52, 6⟩
/-- VALID of SK_LAST_s (RO). -/
def SK_LAST_VALID (s : Nat) : Fld := ⟨SK_LAST s, 58, 1⟩

/-- SK_PCH_s_p, R177: the address of the register. -/
def SK_PCH (s : Nat) (p : Nat) : Nat := 0xF00016000400 + s * 0x10000 + p * 0x8
/-- PIN0 of SK_PCH_s_p (RO). -/
def SK_PCH_PIN0 (s : Nat) (p : Nat) : Fld := ⟨SK_PCH s p, 0, 6⟩
/-- E0 of SK_PCH_s_p (RO). -/
def SK_PCH_E0 (s : Nat) (p : Nat) : Fld := ⟨SK_PCH s p, 6, 1⟩
/-- PIN1 of SK_PCH_s_p (RO). -/
def SK_PCH_PIN1 (s : Nat) (p : Nat) : Fld := ⟨SK_PCH s p, 8, 6⟩
/-- E1 of SK_PCH_s_p (RO). -/
def SK_PCH_E1 (s : Nat) (p : Nat) : Fld := ⟨SK_PCH s p, 14, 1⟩
/-- RETIRED of SK_PCH_s_p (RO). -/
def SK_PCH_RETIRED (s : Nat) (p : Nat) : Fld := ⟨SK_PCH s p, 15, 1⟩

/-- SK_FAULT_CFG, R177: the address of the register. -/
def SK_FAULT_CFG : Nat := 0xF00016100000
/-- THRESH of SK_FAULT_CFG (RWL). -/
def SK_FAULT_CFG_THRESH : Fld := ⟨SK_FAULT_CFG, 0, 4⟩
/-- WINDOW of SK_FAULT_CFG (RWL). -/
def SK_FAULT_CFG_WINDOW : Fld := ⟨SK_FAULT_CFG, 4, 12⟩

/-- SK_SCRUB_CFG, R177: the address of the register. -/
def SK_SCRUB_CFG : Nat := 0xF00016100008
/-- PERIOD of SK_SCRUB_CFG (RWL). -/
def SK_SCRUB_CFG_PERIOD : Fld := ⟨SK_SCRUB_CFG, 0, 8⟩
/-- EN of SK_SCRUB_CFG (RWL). -/
def SK_SCRUB_CFG_EN : Fld := ⟨SK_SCRUB_CFG, 8, 1⟩

/-- SK_KEY_CMD, R177: the address of the register. -/
def SK_KEY_CMD : Nat := 0xF00016100020
/-- OP of SK_KEY_CMD (WO). -/
def SK_KEY_CMD_OP : Fld := ⟨SK_KEY_CMD, 0, 2⟩
/-- SEL of SK_KEY_CMD (WO). -/
def SK_KEY_CMD_SEL : Fld := ⟨SK_KEY_CMD, 2, 6⟩

/-- SK_KEY_STATUS, R177: the address of the register. -/
def SK_KEY_STATUS : Nat := 0xF00016100028
/-- STATUS of SK_KEY_STATUS (RO). -/
def SK_KEY_STATUS_STATUS : Fld := ⟨SK_KEY_STATUS, 0, 16⟩
/-- BUSY of SK_KEY_STATUS (RO). -/
def SK_KEY_STATUS_BUSY : Fld := ⟨SK_KEY_STATUS, 16, 1⟩

/-- SK_KEY_LOADED, R177: the address of the register. -/
def SK_KEY_LOADED : Nat := 0xF00016100030
/-- LOADED of SK_KEY_LOADED (RO). -/
def SK_KEY_LOADED_LOADED : Fld := ⟨SK_KEY_LOADED, 0, 64⟩

/-- SG_WQ_BASE, R179: the address of the register. -/
def SG_WQ_BASE : Nat := 0xF00018000000
/-- BASE of SG_WQ_BASE (RW). -/
def SG_WQ_BASE_BASE : Fld := ⟨SG_WQ_BASE, 12, 40⟩
/-- LOG2 of SG_WQ_BASE (RW). -/
def SG_WQ_BASE_LOG2 : Fld := ⟨SG_WQ_BASE, 0, 5⟩

/-- SG_WQ_TAIL, R179: the address of the register. -/
def SG_WQ_TAIL : Nat := 0xF00018000008
/-- TAIL of SG_WQ_TAIL (RW). -/
def SG_WQ_TAIL_TAIL : Fld := ⟨SG_WQ_TAIL, 0, 32⟩

/-- SG_WQ_HEAD, R179: the address of the register. -/
def SG_WQ_HEAD : Nat := 0xF00018000010
/-- HEAD of SG_WQ_HEAD (RO). -/
def SG_WQ_HEAD_HEAD : Fld := ⟨SG_WQ_HEAD, 0, 32⟩

/-- SG_CQ_BASE, R179: the address of the register. -/
def SG_CQ_BASE : Nat := 0xF00018000018
/-- BASE of SG_CQ_BASE (RW). -/
def SG_CQ_BASE_BASE : Fld := ⟨SG_CQ_BASE, 12, 40⟩
/-- LOG2 of SG_CQ_BASE (RW). -/
def SG_CQ_BASE_LOG2 : Fld := ⟨SG_CQ_BASE, 0, 5⟩

/-- SG_CQ_HEAD, R179: the address of the register. -/
def SG_CQ_HEAD : Nat := 0xF00018000020
/-- HEAD of SG_CQ_HEAD (RW). -/
def SG_CQ_HEAD_HEAD : Fld := ⟨SG_CQ_HEAD, 0, 32⟩

/-- SG_CQ_TAIL, R179: the address of the register. -/
def SG_CQ_TAIL : Nat := 0xF00018000028
/-- TAIL of SG_CQ_TAIL (RO). -/
def SG_CQ_TAIL_TAIL : Fld := ⟨SG_CQ_TAIL, 0, 32⟩

/-- SG_STATE, R179: the address of the register. -/
def SG_STATE : Nat := 0xF00018000030
/-- SPARE_GB of SG_STATE (RO). -/
def SG_STATE_SPARE_GB : Fld := ⟨SG_STATE, 0, 32⟩
/-- WEAR of SG_STATE (RO). -/
def SG_STATE_WEAR : Fld := ⟨SG_STATE, 32, 8⟩
/-- WRITE_LOCK of SG_STATE (RO). -/
def SG_STATE_WRITE_LOCK : Fld := ⟨SG_STATE, 40, 1⟩

/-- SG_CTRL, R179: the address of the register. -/
def SG_CTRL : Nat := 0xF00018000038
/-- QRESET of SG_CTRL (WO). -/
def SG_CTRL_QRESET : Fld := ⟨SG_CTRL, 0, 1⟩
/-- SANITIZE of SG_CTRL (WO). -/
def SG_CTRL_SANITIZE : Fld := ⟨SG_CTRL, 1, 1⟩

/-- HB_TLBI_CMD, R211: the address of the register. -/
def HB_TLBI_CMD : Nat := 0xF00010100000
/-- ASID of HB_TLBI_CMD (WO). -/
def HB_TLBI_CMD_ASID : Fld := ⟨HB_TLBI_CMD, 0, 16⟩
/-- ALLASID of HB_TLBI_CMD (WO). -/
def HB_TLBI_CMD_ALLASID : Fld := ⟨HB_TLBI_CMD, 16, 1⟩
/-- DISCARD of HB_TLBI_CMD (WO). -/
def HB_TLBI_CMD_DISCARD : Fld := ⟨HB_TLBI_CMD, 17, 1⟩
/-- GO of HB_TLBI_CMD (WO). -/
def HB_TLBI_CMD_GO : Fld := ⟨HB_TLBI_CMD, 18, 1⟩

/-- HB_TLBI_VA, R211: the address of the register. -/
def HB_TLBI_VA : Nat := 0xF00010100008
/-- VA of HB_TLBI_VA (RW). -/
def HB_TLBI_VA_VA : Fld := ⟨HB_TLBI_VA, 0, 57⟩

/-- HB_TLBI_LEN, R211: the address of the register. -/
def HB_TLBI_LEN : Nat := 0xF00010100010
/-- LEN of HB_TLBI_LEN (RW). -/
def HB_TLBI_LEN_LEN : Fld := ⟨HB_TLBI_LEN, 0, 40⟩

/-- HB_TLBI_STATUS, R211: the address of the register. -/
def HB_TLBI_STATUS : Nat := 0xF00010100018
/-- STATUS of HB_TLBI_STATUS (RO). -/
def HB_TLBI_STATUS_STATUS : Fld := ⟨HB_TLBI_STATUS, 0, 16⟩
/-- BUSY of HB_TLBI_STATUS (RO). -/
def HB_TLBI_STATUS_BUSY : Fld := ⟨HB_TLBI_STATUS, 16, 1⟩

/-- HB_FR_BASE, R211: the address of the register. -/
def HB_FR_BASE : Nat := 0xF00010100100
/-- LOG2 of HB_FR_BASE (RW). -/
def HB_FR_BASE_LOG2 : Fld := ⟨HB_FR_BASE, 0, 5⟩
/-- BASE of HB_FR_BASE (RW). -/
def HB_FR_BASE_BASE : Fld := ⟨HB_FR_BASE, 12, 40⟩

/-- HB_FR_HEAD, R211: the address of the register. -/
def HB_FR_HEAD : Nat := 0xF00010100108
/-- HEAD of HB_FR_HEAD (RW). -/
def HB_FR_HEAD_HEAD : Fld := ⟨HB_FR_HEAD, 0, 32⟩

/-- HB_FR_TAIL, R211: the address of the register. -/
def HB_FR_TAIL : Nat := 0xF00010100110
/-- TAIL of HB_FR_TAIL (RO). -/
def HB_FR_TAIL_TAIL : Fld := ⟨HB_FR_TAIL, 0, 32⟩

/-- HB_FLT_RESOLVE, R211: the address of the register. -/
def HB_FLT_RESOLVE : Nat := 0xF00010100118
/-- RECORD of HB_FLT_RESOLVE (WO). -/
def HB_FLT_RESOLVE_RECORD : Fld := ⟨HB_FLT_RESOLVE, 0, 8⟩
/-- STATUS of HB_FLT_RESOLVE (WO). -/
def HB_FLT_RESOLVE_STATUS : Fld := ⟨HB_FLT_RESOLVE, 16, 16⟩

/-- HB_FLT_OPEN, R211: the address of the register. -/
def HB_FLT_OPEN : Nat := 0xF00010100120
/-- OPEN of HB_FLT_OPEN (RO). -/
def HB_FLT_OPEN_OPEN : Fld := ⟨HB_FLT_OPEN, 0, 9⟩
/-- IGNORED of HB_FLT_OPEN (RO). -/
def HB_FLT_OPEN_IGNORED : Fld := ⟨HB_FLT_OPEN, 16, 16⟩

/-- HB_MP_BASE, R211: the address of the register. -/
def HB_MP_BASE : Nat := 0xF00010100200
/-- LOG2 of HB_MP_BASE (RW). -/
def HB_MP_BASE_LOG2 : Fld := ⟨HB_MP_BASE, 0, 5⟩
/-- BASE of HB_MP_BASE (RW). -/
def HB_MP_BASE_BASE : Fld := ⟨HB_MP_BASE, 12, 40⟩

/-- HB_MP_TAIL, R211: the address of the register. -/
def HB_MP_TAIL : Nat := 0xF00010100208
/-- TAIL of HB_MP_TAIL (RW). -/
def HB_MP_TAIL_TAIL : Fld := ⟨HB_MP_TAIL, 0, 32⟩

/-- HB_MP_HEAD, R211: the address of the register. -/
def HB_MP_HEAD : Nat := 0xF00010100210
/-- HEAD of HB_MP_HEAD (RO). -/
def HB_MP_HEAD_HEAD : Fld := ⟨HB_MP_HEAD, 0, 32⟩

/-- HB_EV_VA, R211: the address of the register. -/
def HB_EV_VA : Nat := 0xF00010100300
/-- VA of HB_EV_VA (RW). -/
def HB_EV_VA_VA : Fld := ⟨HB_EV_VA, 0, 57⟩

/-- HB_EV_PA, R211: the address of the register. -/
def HB_EV_PA : Nat := 0xF00010100308
/-- PA of HB_EV_PA (RW). -/
def HB_EV_PA_PA : Fld := ⟨HB_EV_PA, 21, 31⟩

/-- HB_EV_CMD, R211: the address of the register. -/
def HB_EV_CMD : Nat := 0xF00010100310
/-- ASID of HB_EV_CMD (WO). -/
def HB_EV_CMD_ASID : Fld := ⟨HB_EV_CMD, 0, 16⟩
/-- MIGRATE of HB_EV_CMD (WO). -/
def HB_EV_CMD_MIGRATE : Fld := ⟨HB_EV_CMD, 16, 1⟩
/-- GO of HB_EV_CMD (WO). -/
def HB_EV_CMD_GO : Fld := ⟨HB_EV_CMD, 17, 1⟩

/-- HB_EV_STATUS, R211: the address of the register. -/
def HB_EV_STATUS : Nat := 0xF00010100318
/-- STATUS of HB_EV_STATUS (RO). -/
def HB_EV_STATUS_STATUS : Fld := ⟨HB_EV_STATUS, 0, 16⟩
/-- BUSY of HB_EV_STATUS (RO). -/
def HB_EV_STATUS_BUSY : Fld := ⟨HB_EV_STATUS, 16, 1⟩

/-- HB_DIR_CFG, R212: the address of the register. -/
def HB_DIR_CFG : Nat := 0xF00010110000
/-- TIMEOUT of HB_DIR_CFG (RWL). -/
def HB_DIR_CFG_TIMEOUT : Fld := ⟨HB_DIR_CFG, 0, 10⟩

/-- HB_DIR_QUAR, R212: the address of the register. -/
def HB_DIR_QUAR : Nat := 0xF00010110008
/-- QUAR of HB_DIR_QUAR (RO). -/
def HB_DIR_QUAR_QUAR : Fld := ⟨HB_DIR_QUAR, 0, 64⟩

/-- HB_DIR_ABSENT, R212: the address of the register. -/
def HB_DIR_ABSENT : Nat := 0xF00010110010
/-- ABSENT of HB_DIR_ABSENT (RO). -/
def HB_DIR_ABSENT_ABSENT : Fld := ⟨HB_DIR_ABSENT, 0, 64⟩

/-- HB_DIR_CNT, R212: the address of the register. -/
def HB_DIR_CNT : Nat := 0xF00010110018
/-- POISONED of HB_DIR_CNT (RO). -/
def HB_DIR_CNT_POISONED : Fld := ⟨HB_DIR_CNT, 0, 32⟩
/-- TIMEOUTS of HB_DIR_CNT (RO). -/
def HB_DIR_CNT_TIMEOUTS : Fld := ⟨HB_DIR_CNT, 32, 32⟩

/-- HB_DIR_OCC, R212: the address of the register. -/
def HB_DIR_OCC : Nat := 0xF00010110020
/-- ENTRIES of HB_DIR_OCC (RO). -/
def HB_DIR_OCC_ENTRIES : Fld := ⟨HB_DIR_OCC, 0, 23⟩

/-- HB_LT_STATE_p, R240: the address of the register. -/
def HB_LT_STATE (p : Nat) : Nat := 0xF00010120000 + p * 0x1000
/-- WIDTH of HB_LT_STATE_p (RO). -/
def HB_LT_STATE_WIDTH (p : Nat) : Fld := ⟨HB_LT_STATE p, 0, 2⟩
/-- HALF of HB_LT_STATE_p (RO). -/
def HB_LT_STATE_HALF (p : Nat) : Fld := ⟨HB_LT_STATE p, 2, 1⟩
/-- VERSION of HB_LT_STATE_p (RO). -/
def HB_LT_STATE_VERSION (p : Nat) : Fld := ⟨HB_LT_STATE p, 3, 4⟩
/-- SPARES_USED of HB_LT_STATE_p (RO). -/
def HB_LT_STATE_SPARES_USED (p : Nat) : Fld := ⟨HB_LT_STATE p, 7, 8⟩
/-- GROUPS_LOST of HB_LT_STATE_p (RO). -/
def HB_LT_STATE_GROUPS_LOST (p : Nat) : Fld := ⟨HB_LT_STATE p, 15, 8⟩

/-- HB_LT_CNT_p, R240: the address of the register. -/
def HB_LT_CNT (p : Nat) : Nat := 0xF00010120008 + p * 0x1000
/-- CRC_FAIL of HB_LT_CNT_p (RO). -/
def HB_LT_CNT_CRC_FAIL (p : Nat) : Fld := ⟨HB_LT_CNT p, 0, 32⟩
/-- REPLAYS of HB_LT_CNT_p (RO). -/
def HB_LT_CNT_REPLAYS (p : Nat) : Fld := ⟨HB_LT_CNT p, 32, 32⟩

/-- HB_LT_GRP_p_g, R240: the address of the register. -/
def HB_LT_GRP (p : Nat) (g : Nat) : Nat := 0xF00010120100 + p * 0x1000 + g * 0x8
/-- SPARED_IN of HB_LT_GRP_p_g (RO). -/
def HB_LT_GRP_SPARED_IN (p : Nat) (g : Nat) : Fld := ⟨HB_LT_GRP p g, 0, 6⟩
/-- LOST_IN of HB_LT_GRP_p_g (RO). -/
def HB_LT_GRP_LOST_IN (p : Nat) (g : Nat) : Fld := ⟨HB_LT_GRP p g, 6, 1⟩
/-- DIR of HB_LT_GRP_p_g (RO). -/
def HB_LT_GRP_DIR (p : Nat) (g : Nat) : Fld := ⟨HB_LT_GRP p g, 7, 1⟩
/-- SPARED_OUT of HB_LT_GRP_p_g (RO). -/
def HB_LT_GRP_SPARED_OUT (p : Nat) (g : Nat) : Fld := ⟨HB_LT_GRP p g, 8, 6⟩
/-- LOST_OUT of HB_LT_GRP_p_g (RO). -/
def HB_LT_GRP_LOST_OUT (p : Nat) (g : Nat) : Fld := ⟨HB_LT_GRP p g, 14, 1⟩
/-- EVENTS of HB_LT_GRP_p_g (RO). -/
def HB_LT_GRP_EVENTS (p : Nat) (g : Nat) : Fld := ⟨HB_LT_GRP p g, 16, 16⟩

/-- HB_LT_FAULT_CFG, R240: the address of the register. -/
def HB_LT_FAULT_CFG : Nat := 0xF00010128000
/-- THRESH of HB_LT_FAULT_CFG (RWL). -/
def HB_LT_FAULT_CFG_THRESH : Fld := ⟨HB_LT_FAULT_CFG, 0, 8⟩
/-- WINDOW of HB_LT_FAULT_CFG (RWL). -/
def HB_LT_FAULT_CFG_WINDOW : Fld := ⟨HB_LT_FAULT_CFG, 8, 24⟩

/-- HB_DIE_STATE_d, R241: the address of the register. -/
def HB_DIE_STATE (d : Nat) : Nat := 0xF00010130000 + d * 0x8
/-- STATE of HB_DIE_STATE_d (RO). -/
def HB_DIE_STATE_STATE (d : Nat) : Fld := ⟨HB_DIE_STATE d, 0, 3⟩
/-- CAUSE of HB_DIE_STATE_d (RO). -/
def HB_DIE_STATE_CAUSE (d : Nat) : Fld := ⟨HB_DIE_STATE d, 3, 5⟩
/-- STATUS of HB_DIE_STATE_d (RO). -/
def HB_DIE_STATE_STATUS (d : Nat) : Fld := ⟨HB_DIE_STATE d, 8, 16⟩

/-- HB_DIE_CMD, R241: the address of the register. -/
def HB_DIE_CMD : Nat := 0xF00010130040
/-- DIE of HB_DIE_CMD (WO). -/
def HB_DIE_CMD_DIE : Fld := ⟨HB_DIE_CMD, 0, 3⟩
/-- OP of HB_DIE_CMD (WO). -/
def HB_DIE_CMD_OP : Fld := ⟨HB_DIE_CMD, 3, 2⟩

/-- BW_ID, R242: the address of the register. -/
def BW_ID : Nat := 0xF00011000000
/-- FITTED of BW_ID (RO). -/
def BW_ID_FITTED : Fld := ⟨BW_ID, 0, 1⟩
/-- LINK_UP of BW_ID (RO). -/
def BW_ID_LINK_UP : Fld := ⟨BW_ID, 1, 1⟩
/-- LANES of BW_ID (RO). -/
def BW_ID_LANES : Fld := ⟨BW_ID, 2, 7⟩
/-- QUAR of BW_ID (RO). -/
def BW_ID_QUAR : Fld := ⟨BW_ID, 9, 1⟩

/-- BW_CTRL, R242: the address of the register. -/
def BW_CTRL : Nat := 0xF00011000008
/-- RETRAIN of BW_CTRL (WO). -/
def BW_CTRL_RETRAIN : Fld := ⟨BW_CTRL, 0, 1⟩

/-- BW_CFG, R242: the address of the register. -/
def BW_CFG : Nat := 0xF00011000010
/-- QUAR_LIMIT of BW_CFG (RWL). -/
def BW_CFG_QUAR_LIMIT : Fld := ⟨BW_CFG, 0, 16⟩
/-- MSI_VECTORS of BW_CFG (RWL). -/
def BW_CFG_MSI_VECTORS : Fld := ⟨BW_CFG, 16, 6⟩

/-- BW_RATE, R242: the address of the register. -/
def BW_RATE : Nat := 0xF00011000018
/-- RD_RATE of BW_RATE (RW). -/
def BW_RATE_RD_RATE : Fld := ⟨BW_RATE, 0, 16⟩
/-- WR_RATE of BW_RATE (RW). -/
def BW_RATE_WR_RATE : Fld := ⟨BW_RATE, 16, 16⟩
/-- REQ_RATE of BW_RATE (RW). -/
def BW_RATE_REQ_RATE : Fld := ⟨BW_RATE, 32, 32⟩

/-- BW_WIN_BASE_n, R242: the address of the register. -/
def BW_WIN_BASE (n : Nat) : Nat := 0xF00011000100 + n * 0x10
/-- EN of BW_WIN_BASE_n (RWL or RW). -/
def BW_WIN_BASE_EN (n : Nat) : Fld := ⟨BW_WIN_BASE n, 0, 1⟩
/-- R of BW_WIN_BASE_n (RWL or RW). -/
def BW_WIN_BASE_R (n : Nat) : Fld := ⟨BW_WIN_BASE n, 1, 1⟩
/-- W of BW_WIN_BASE_n (RWL or RW). -/
def BW_WIN_BASE_W (n : Nat) : Fld := ⟨BW_WIN_BASE n, 2, 1⟩
/-- A of BW_WIN_BASE_n (RWL or RW). -/
def BW_WIN_BASE_A (n : Nat) : Fld := ⟨BW_WIN_BASE n, 3, 1⟩
/-- KEY of BW_WIN_BASE_n (RWL or RW). -/
def BW_WIN_BASE_KEY (n : Nat) : Fld := ⟨BW_WIN_BASE n, 4, 6⟩
/-- BASE of BW_WIN_BASE_n (RWL or RW). -/
def BW_WIN_BASE_BASE (n : Nat) : Fld := ⟨BW_WIN_BASE n, 16, 36⟩

/-- BW_WIN_LIM_n, R242: the address of the register. -/
def BW_WIN_LIM (n : Nat) : Nat := 0xF00011000108 + n * 0x10
/-- VALID of BW_WIN_LIM_n (RO). -/
def BW_WIN_LIM_VALID (n : Nat) : Fld := ⟨BW_WIN_LIM n, 0, 1⟩
/-- LIMIT of BW_WIN_LIM_n (RWL or RW). -/
def BW_WIN_LIM_LIMIT (n : Nat) : Fld := ⟨BW_WIN_LIM n, 16, 36⟩

/-- BW_LAST, R242: the address of the register. -/
def BW_LAST : Nat := 0xF00011000400
/-- ADDR of BW_LAST (RO). -/
def BW_LAST_ADDR : Fld := ⟨BW_LAST, 0, 52⟩
/-- KIND of BW_LAST (RO). -/
def BW_LAST_KIND : Fld := ⟨BW_LAST, 52, 2⟩
/-- VALID of BW_LAST (RO). -/
def BW_LAST_VALID : Fld := ⟨BW_LAST, 54, 1⟩

/-- BW_CNT, R242: the address of the register. -/
def BW_CNT : Nat := 0xF00011000408
/-- DENIED of BW_CNT (RO). -/
def BW_CNT_DENIED : Fld := ⟨BW_CNT, 0, 32⟩
/-- THROTTLED of BW_CNT (RO). -/
def BW_CNT_THROTTLED : Fld := ⟨BW_CNT, 32, 32⟩

/-- HL_ID, R262: the address of the register. -/
def HL_ID : Nat := 0xF00012000000
/-- HARTS of HL_ID (RO). -/
def HL_ID_HARTS : Fld := ⟨HL_ID, 0, 7⟩

/-- HL_BOOT_ADDR, R262: the address of the register. -/
def HL_BOOT_ADDR : Nat := 0xF00012000008
/-- ADDR of HL_BOOT_ADDR (RO). -/
def HL_BOOT_ADDR_ADDR : Fld := ⟨HL_BOOT_ADDR, 0, 52⟩

/-- HL_HART_START, R262: the address of the register. -/
def HL_HART_START : Nat := 0xF00012000010
/-- START of HL_HART_START (WO). -/
def HL_HART_START_START : Fld := ⟨HL_HART_START, 0, 64⟩

/-- HL_HART_RUN, R262: the address of the register. -/
def HL_HART_RUN : Nat := 0xF00012000018
/-- RUN of HL_HART_RUN (RO). -/
def HL_HART_RUN_RUN : Fld := ⟨HL_HART_RUN, 0, 64⟩

/-- HL_DRV_OWNER, R262: the address of the register. -/
def HL_DRV_OWNER : Nat := 0xF00012000020
/-- OWNER of HL_DRV_OWNER (RO). -/
def HL_DRV_OWNER_OWNER : Fld := ⟨HL_DRV_OWNER, 0, 2⟩
/-- CLAIM of HL_DRV_OWNER (WO). -/
def HL_DRV_OWNER_CLAIM : Fld := ⟨HL_DRV_OWNER, 2, 1⟩
/-- RELEASE of HL_DRV_OWNER (WO). -/
def HL_DRV_OWNER_RELEASE : Fld := ⟨HL_DRV_OWNER, 3, 1⟩
/-- CHANGES of HL_DRV_OWNER (RO). -/
def HL_DRV_OWNER_CHANGES : Fld := ⟨HL_DRV_OWNER, 4, 16⟩

/-- HL_CLK, R262: the address of the register. -/
def HL_CLK : Nat := 0xF00012000028
/-- MHZ of HL_CLK (RO). -/
def HL_CLK_MHZ : Fld := ⟨HL_CLK, 0, 12⟩

/-- HL_IRQ_ROUTE_n, R262: the address of the register. -/
def HL_IRQ_ROUTE (n : Nat) : Nat := 0xF00012001000 + n * 0x8
/-- HART of HL_IRQ_ROUTE_n (RW). -/
def HL_IRQ_ROUTE_HART (n : Nat) : Fld := ⟨HL_IRQ_ROUTE n, 0, 6⟩
/-- FILE of HL_IRQ_ROUTE_n (RW). -/
def HL_IRQ_ROUTE_FILE (n : Nat) : Fld := ⟨HL_IRQ_ROUTE n, 6, 3⟩
/-- EIID of HL_IRQ_ROUTE_n (RW). -/
def HL_IRQ_ROUTE_EIID (n : Nat) : Fld := ⟨HL_IRQ_ROUTE n, 9, 11⟩
/-- EN of HL_IRQ_ROUTE_n (RW). -/
def HL_IRQ_ROUTE_EN (n : Nat) : Fld := ⟨HL_IRQ_ROUTE n, 20, 1⟩

/-- LW_LINK_p, R282: the address of the register. -/
def LW_LINK (p : Nat) : Nat := 0xF00013000000 + p * 0x10000
/-- LINK of LW_LINK_p (RO). -/
def LW_LINK_LINK (p : Nat) : Fld := ⟨LW_LINK p, 0, 2⟩
/-- LANES of LW_LINK_p (RO). -/
def LW_LINK_LANES (p : Nat) : Fld := ⟨LW_LINK p, 2, 5⟩
/-- RATE of LW_LINK_p (RO). -/
def LW_LINK_RATE (p : Nat) : Fld := ⟨LW_LINK p, 7, 3⟩
/-- IDE of LW_LINK_p (RO). -/
def LW_LINK_IDE (p : Nat) : Fld := ⟨LW_LINK p, 10, 1⟩

/-- LW_ARM_p, R282: the address of the register. -/
def LW_ARM (p : Nat) : Nat := 0xF00013000008 + p * 0x10000
/-- EPOCH of LW_ARM_p (WO). -/
def LW_ARM_EPOCH (p : Nat) : Fld := ⟨LW_ARM p, 0, 32⟩

/-- LW_EPOCH_p, R282: the address of the register. -/
def LW_EPOCH (p : Nat) : Nat := 0xF00013000010 + p * 0x10000
/-- EPOCH of LW_EPOCH_p (RO). -/
def LW_EPOCH_EPOCH (p : Nat) : Fld := ⟨LW_EPOCH p, 0, 32⟩
/-- ARMED of LW_EPOCH_p (RO). -/
def LW_EPOCH_ARMED (p : Nat) : Fld := ⟨LW_EPOCH p, 32, 1⟩
/-- LOST of LW_EPOCH_p (RO). -/
def LW_EPOCH_LOST (p : Nat) : Fld := ⟨LW_EPOCH p, 33, 1⟩
/-- CAUSE of LW_EPOCH_p (RO). -/
def LW_EPOCH_CAUSE (p : Nat) : Fld := ⟨LW_EPOCH p, 34, 3⟩
/-- STATUS of LW_EPOCH_p (RO). -/
def LW_EPOCH_STATUS (p : Nat) : Fld := ⟨LW_EPOCH p, 37, 16⟩

/-- LW_CNT_p, R282: the address of the register. -/
def LW_CNT (p : Nat) : Nat := 0xF00013000018 + p * 0x10000
/-- DROPPED of LW_CNT_p (RO). -/
def LW_CNT_DROPPED (p : Nat) : Fld := ⟨LW_CNT p, 0, 32⟩
/-- REFUSED of LW_CNT_p (RO). -/
def LW_CNT_REFUSED (p : Nat) : Fld := ⟨LW_CNT p, 32, 32⟩

/-- LW_CNT2_p, R282: the address of the register. -/
def LW_CNT2 (p : Nat) : Nat := 0xF00013000020 + p * 0x10000
/-- RETRAINS of LW_CNT2_p (RO). -/
def LW_CNT2_RETRAINS (p : Nat) : Fld := ⟨LW_CNT2 p, 0, 32⟩
/-- LOSSES of LW_CNT2_p (RO). -/
def LW_CNT2_LOSSES (p : Nat) : Fld := ⟨LW_CNT2 p, 32, 16⟩

/-- LW_FLINE_p, R282: the address of the register. -/
def LW_FLINE (p : Nat) : Nat := 0xF00013000028 + p * 0x10000
/-- EN of LW_FLINE_p (RW). -/
def LW_FLINE_EN (p : Nat) : Fld := ⟨LW_FLINE p, 0, 1⟩
/-- LINE of LW_FLINE_p (RW). -/
def LW_FLINE_LINE (p : Nat) : Fld := ⟨LW_FLINE p, 6, 46⟩

/-- LW_FENCE, R283: the address of the register. -/
def LW_FENCE : Nat := 0xF00013080000
/-- DONE0 of LW_FENCE (RO). -/
def LW_FENCE_DONE0 : Fld := ⟨LW_FENCE, 0, 1⟩
/-- DONE1 of LW_FENCE (RO). -/
def LW_FENCE_DONE1 : Fld := ⟨LW_FENCE, 1, 1⟩
/-- LOST0 of LW_FENCE (RO). -/
def LW_FENCE_LOST0 : Fld := ⟨LW_FENCE, 2, 1⟩
/-- LOST1 of LW_FENCE (RO). -/
def LW_FENCE_LOST1 : Fld := ⟨LW_FENCE, 3, 1⟩

/-- LW_ROUTE, R283: the address of the register. -/
def LW_ROUTE : Nat := 0xF00013080008
/-- MODE of LW_ROUTE (RW). -/
def LW_ROUTE_MODE : Fld := ⟨LW_ROUTE, 0, 2⟩
/-- BUSY of LW_ROUTE (RO). -/
def LW_ROUTE_BUSY : Fld := ⟨LW_ROUTE, 2, 1⟩

/-- LW_CFG, R283: the address of the register. -/
def LW_CFG : Nat := 0xF00013080010
/-- RECOVERY_LIMIT of LW_CFG (RWL). -/
def LW_CFG_RECOVERY_LIMIT : Fld := ⟨LW_CFG, 0, 16⟩
/-- IDE_REQUIRED of LW_CFG (RWL). -/
def LW_CFG_IDE_REQUIRED : Fld := ⟨LW_CFG, 16, 1⟩

/-- LW_MKEY_w, R283: the address of the register. -/
def LW_MKEY (w : Nat) : Nat := 0xF00013080100 + w * 0x8
/-- EN of LW_MKEY_w (RW). -/
def LW_MKEY_EN (w : Nat) : Fld := ⟨LW_MKEY w, 0, 1⟩
/-- KEY of LW_MKEY_w (RW). -/
def LW_MKEY_KEY (w : Nat) : Fld := ⟨LW_MKEY w, 1, 6⟩
/-- BASE of LW_MKEY_w (RW). -/
def LW_MKEY_BASE (w : Nat) : Fld := ⟨LW_MKEY w, 9, 20⟩
/-- LIMIT of LW_MKEY_w (RW). -/
def LW_MKEY_LIMIT (w : Nat) : Fld := ⟨LW_MKEY w, 32, 20⟩

/-- IK_LIMIT, R304: the address of the register. -/
def IK_LIMIT : Nat := 0xF00019000000
/-- WMAX of IK_LIMIT (RWL). -/
def IK_LIMIT_WMAX : Fld := ⟨IK_LIMIT, 0, 16⟩
/-- HMAX of IK_LIMIT (RWL). -/
def IK_LIMIT_HMAX : Fld := ⟨IK_LIMIT, 16, 16⟩
/-- FMAX of IK_LIMIT (RWL). -/
def IK_LIMIT_FMAX : Fld := ⟨IK_LIMIT, 32, 16⟩
/-- RMAX of IK_LIMIT (RWL). -/
def IK_LIMIT_RMAX : Fld := ⟨IK_LIMIT, 48, 16⟩

/-- IK_LIMIT2, R304: the address of the register. -/
def IK_LIMIT2 : Nat := 0xF00019000008
/-- DMAX of IK_LIMIT2 (RWL). -/
def IK_LIMIT2_DMAX : Fld := ⟨IK_LIMIT2, 0, 16⟩

/-- IK_BUDGET_CFG, R304: the address of the register. -/
def IK_BUDGET_CFG : Nat := 0xF00019000010
/-- MULT of IK_BUDGET_CFG (RWL). -/
def IK_BUDGET_CFG_MULT : Fld := ⟨IK_BUDGET_CFG, 0, 8⟩
/-- MIN_SAMPLES of IK_BUDGET_CFG (RWL). -/
def IK_BUDGET_CFG_MIN_SAMPLES : Fld := ⟨IK_BUDGET_CFG, 8, 8⟩
/-- RDEPTH of IK_BUDGET_CFG (RWL). -/
def IK_BUDGET_CFG_RDEPTH : Fld := ⟨IK_BUDGET_CFG, 16, 4⟩

/-- IK_AVG_c_k, R304: the address of the register. -/
def IK_AVG (c : Nat) (k : Nat) : Nat := 0xF00019000100 + c * 0x18 + k * 0x8
/-- AVG of IK_AVG_c_k (RO). -/
def IK_AVG_AVG (c : Nat) (k : Nat) : Fld := ⟨IK_AVG c k, 0, 32⟩
/-- COUNT of IK_AVG_c_k (RO). -/
def IK_AVG_COUNT (c : Nat) (k : Nat) : Fld := ⟨IK_AVG c k, 32, 32⟩

/-- IK_CNT_c, R304: the address of the register. -/
def IK_CNT (c : Nat) : Nat := 0xF00019000200 + c * 0x8
/-- LATE of IK_CNT_c (RO). -/
def IK_CNT_LATE (c : Nat) : Fld := ⟨IK_CNT c, 0, 16⟩
/-- DROPPED of IK_CNT_c (RO). -/
def IK_CNT_DROPPED (c : Nat) : Fld := ⟨IK_CNT c, 16, 16⟩
/-- REJECTED of IK_CNT_c (RO). -/
def IK_CNT_REJECTED (c : Nat) : Fld := ⟨IK_CNT c, 32, 16⟩
/-- CONCEALED of IK_CNT_c (RO). -/
def IK_CNT_CONCEALED (c : Nat) : Fld := ⟨IK_CNT c, 48, 16⟩

/-- IK_UNITS, R304: the address of the register. -/
def IK_UNITS : Nat := 0xF00019000300
/-- VIDEO of IK_UNITS (RO). -/
def IK_UNITS_VIDEO : Fld := ⟨IK_UNITS, 0, 16⟩
/-- JPEG of IK_UNITS (RO). -/
def IK_UNITS_JPEG : Fld := ⟨IK_UNITS, 16, 32⟩
/-- DEFLATE of IK_UNITS (RO). -/
def IK_UNITS_DEFLATE : Fld := ⟨IK_UNITS, 48, 8⟩

/-- SW_ID, R340: the address of the register. -/
def SW_ID : Nat := 0xF00014000000
/-- IDENTITY of SW_ID (RO). -/
def SW_ID_IDENTITY : Fld := ⟨SW_ID, 0, 48⟩

/-- SW_CFG, R340: the address of the register. -/
def SW_CFG : Nat := 0xF00014000008
/-- REACH_ID of SW_CFG (RWL). -/
def SW_CFG_REACH_ID : Fld := ⟨SW_CFG, 0, 32⟩
/-- PORT7_ETH of SW_CFG (RWL). -/
def SW_CFG_PORT7_ETH : Fld := ⟨SW_CFG, 32, 1⟩
/-- PTP_EN of SW_CFG (RWL). -/
def SW_CFG_PTP_EN : Fld := ⟨SW_CFG, 33, 1⟩
/-- PTP_PORT of SW_CFG (RWL). -/
def SW_CFG_PTP_PORT : Fld := ⟨SW_CFG, 34, 1⟩
/-- DOMAIN of SW_CFG (RWL). -/
def SW_CFG_DOMAIN : Fld := ⟨SW_CFG, 35, 8⟩

/-- SW_LANEMAP, R340: the address of the register. -/
def SW_LANEMAP : Nat := 0xF00014000010
/-- DISABLE of SW_LANEMAP (RWL). -/
def SW_LANEMAP_DISABLE : Fld := ⟨SW_LANEMAP, 0, 64⟩

/-- SW_FAULT_CFG, R340: the address of the register. -/
def SW_FAULT_CFG : Nat := 0xF00014000018
/-- THRESH of SW_FAULT_CFG (RWL). -/
def SW_FAULT_CFG_THRESH : Fld := ⟨SW_FAULT_CFG, 0, 8⟩
/-- WINDOW of SW_FAULT_CFG (RWL). -/
def SW_FAULT_CFG_WINDOW : Fld := ⟨SW_FAULT_CFG, 8, 24⟩

/-- SW_SELF, R340: the address of the register. -/
def SW_SELF : Nat := 0xF00014000020
/-- RANK of SW_SELF (RW). -/
def SW_SELF_RANK : Fld := ⟨SW_SELF, 0, 12⟩
/-- SIZE of SW_SELF (RW). -/
def SW_SELF_SIZE : Fld := ⟨SW_SELF, 12, 13⟩
/-- EN of SW_SELF (RW). -/
def SW_SELF_EN : Fld := ⟨SW_SELF, 25, 1⟩
/-- STATUS of SW_SELF (RO). -/
def SW_SELF_STATUS : Fld := ⟨SW_SELF, 26, 16⟩

/-- SW_RANK_BASE, R340: the address of the register. -/
def SW_RANK_BASE : Nat := 0xF00014000028
/-- BASE of SW_RANK_BASE (RW). -/
def SW_RANK_BASE_BASE : Fld := ⟨SW_RANK_BASE, 12, 40⟩

/-- SW_CTX_ARG, R340: the address of the register. -/
def SW_CTX_ARG : Nat := 0xF00014000030
/-- ENTRY of SW_CTX_ARG (RW). -/
def SW_CTX_ARG_ENTRY : Fld := ⟨SW_CTX_ARG, 0, 52⟩

/-- SW_CTX_CMD, R340: the address of the register. -/
def SW_CTX_CMD : Nat := 0xF00014000038
/-- OP of SW_CTX_CMD (WO). -/
def SW_CTX_CMD_OP : Fld := ⟨SW_CTX_CMD, 0, 2⟩
/-- CTX of SW_CTX_CMD (WO). -/
def SW_CTX_CMD_CTX : Fld := ⟨SW_CTX_CMD, 2, 14⟩

/-- SW_CTX_STATUS, R340: the address of the register. -/
def SW_CTX_STATUS : Nat := 0xF00014000040
/-- STATUS of SW_CTX_STATUS (RO). -/
def SW_CTX_STATUS_STATUS : Fld := ⟨SW_CTX_STATUS, 0, 16⟩
/-- BUSY of SW_CTX_STATUS (RO). -/
def SW_CTX_STATUS_BUSY : Fld := ⟨SW_CTX_STATUS, 16, 1⟩
/-- CTX of SW_CTX_STATUS (RO). -/
def SW_CTX_STATUS_CTX : Fld := ⟨SW_CTX_STATUS, 17, 14⟩
/-- FREE of SW_CTX_STATUS (RO). -/
def SW_CTX_STATUS_FREE : Fld := ⟨SW_CTX_STATUS, 31, 15⟩

/-- SW_LANE_CMD, R340: the address of the register. -/
def SW_LANE_CMD : Nat := 0xF00014000048
/-- LANE of SW_LANE_CMD (WO). -/
def SW_LANE_CMD_LANE : Fld := ⟨SW_LANE_CMD, 0, 6⟩
/-- OP of SW_LANE_CMD (WO). -/
def SW_LANE_CMD_OP : Fld := ⟨SW_LANE_CMD, 6, 2⟩

/-- SW_LANE_STATUS, R340: the address of the register. -/
def SW_LANE_STATUS : Nat := 0xF00014000050
/-- STATUS of SW_LANE_STATUS (RO). -/
def SW_LANE_STATUS_STATUS : Fld := ⟨SW_LANE_STATUS, 0, 16⟩
/-- BUSY of SW_LANE_STATUS (RO). -/
def SW_LANE_STATUS_BUSY : Fld := ⟨SW_LANE_STATUS, 16, 1⟩

/-- SW_FAB_CNT, R340: the address of the register. -/
def SW_FAB_CNT : Nat := 0xF00014000058
/-- REFUSED of SW_FAB_CNT (RO). -/
def SW_FAB_CNT_REFUSED : Fld := ⟨SW_FAB_CNT, 0, 32⟩
/-- LOOPED of SW_FAB_CNT (RO). -/
def SW_FAB_CNT_LOOPED : Fld := ⟨SW_FAB_CNT, 32, 32⟩

/-- SW_PORT_p, R340: the address of the register. -/
def SW_PORT (p : Nat) : Nat := 0xF00014000100 + p * 0x8
/-- LANES of SW_PORT_p (RO). -/
def SW_PORT_LANES (p : Nat) : Fld := ⟨SW_PORT p, 0, 4⟩
/-- MODE of SW_PORT_p (RO). -/
def SW_PORT_MODE (p : Nat) : Fld := ⟨SW_PORT p, 4, 2⟩
/-- FOREIGN of SW_PORT_p (RO). -/
def SW_PORT_FOREIGN (p : Nat) : Fld := ⟨SW_PORT p, 6, 1⟩
/-- VERSION of SW_PORT_p (RO). -/
def SW_PORT_VERSION (p : Nat) : Fld := ⟨SW_PORT p, 7, 4⟩

/-- SW_PEER_p, R340: the address of the register. -/
def SW_PEER (p : Nat) : Nat := 0xF00014000140 + p * 0x8
/-- IDENTITY of SW_PEER_p (RO). -/
def SW_PEER_IDENTITY (p : Nat) : Fld := ⟨SW_PEER p, 0, 48⟩

/-- SW_LANE_l, R340: the address of the register. -/
def SW_LANE (l : Nat) : Nat := 0xF00014000200 + l * 0x8
/-- STATE of SW_LANE_l (RO). -/
def SW_LANE_STATE (l : Nat) : Fld := ⟨SW_LANE l, 0, 3⟩
/-- CAUSE of SW_LANE_l (RO). -/
def SW_LANE_CAUSE (l : Nat) : Fld := ⟨SW_LANE l, 3, 4⟩
/-- EVENTS of SW_LANE_l (RO). -/
def SW_LANE_EVENTS (l : Nat) : Fld := ⟨SW_LANE l, 7, 16⟩
/-- CRC_FAIL of SW_LANE_l (RO). -/
def SW_LANE_CRC_FAIL (l : Nat) : Fld := ⟨SW_LANE l, 32, 32⟩

/-- SW_ETH_CFG_e, R340: the address of the register. -/
def SW_ETH_CFG (e : Nat) : Nat := 0xF00014000400 + e * 0x40
/-- MAC of SW_ETH_CFG_e (RW). -/
def SW_ETH_CFG_MAC (e : Nat) : Fld := ⟨SW_ETH_CFG e, 0, 48⟩
/-- PROMISC of SW_ETH_CFG_e (RW). -/
def SW_ETH_CFG_PROMISC (e : Nat) : Fld := ⟨SW_ETH_CFG e, 48, 1⟩
/-- MCAST of SW_ETH_CFG_e (RW). -/
def SW_ETH_CFG_MCAST (e : Nat) : Fld := ⟨SW_ETH_CFG e, 49, 1⟩
/-- EN of SW_ETH_CFG_e (RW). -/
def SW_ETH_CFG_EN (e : Nat) : Fld := ⟨SW_ETH_CFG e, 50, 1⟩

/-- SW_ETH_TXQ_e, R340: the address of the register. -/
def SW_ETH_TXQ (e : Nat) : Nat := 0xF00014000408 + e * 0x40
/-- LOG2 of SW_ETH_TXQ_e (RW). -/
def SW_ETH_TXQ_LOG2 (e : Nat) : Fld := ⟨SW_ETH_TXQ e, 0, 5⟩
/-- BASE of SW_ETH_TXQ_e (RW). -/
def SW_ETH_TXQ_BASE (e : Nat) : Fld := ⟨SW_ETH_TXQ e, 12, 40⟩

/-- SW_ETH_TX_e, R340: the address of the register. -/
def SW_ETH_TX (e : Nat) : Nat := 0xF00014000410 + e * 0x40
/-- TAIL of SW_ETH_TX_e (RW). -/
def SW_ETH_TX_TAIL (e : Nat) : Fld := ⟨SW_ETH_TX e, 0, 32⟩
/-- HEAD of SW_ETH_TX_e (RO). -/
def SW_ETH_TX_HEAD (e : Nat) : Fld := ⟨SW_ETH_TX e, 32, 32⟩

/-- SW_ETH_RXQ_e, R340: the address of the register. -/
def SW_ETH_RXQ (e : Nat) : Nat := 0xF00014000418 + e * 0x40
/-- LOG2 of SW_ETH_RXQ_e (RW). -/
def SW_ETH_RXQ_LOG2 (e : Nat) : Fld := ⟨SW_ETH_RXQ e, 0, 5⟩
/-- BASE of SW_ETH_RXQ_e (RW). -/
def SW_ETH_RXQ_BASE (e : Nat) : Fld := ⟨SW_ETH_RXQ e, 12, 40⟩

/-- SW_ETH_RX_e, R340: the address of the register. -/
def SW_ETH_RX (e : Nat) : Nat := 0xF00014000420 + e * 0x40
/-- TAIL of SW_ETH_RX_e (RW). -/
def SW_ETH_RX_TAIL (e : Nat) : Fld := ⟨SW_ETH_RX e, 0, 32⟩
/-- HEAD of SW_ETH_RX_e (RO). -/
def SW_ETH_RX_HEAD (e : Nat) : Fld := ⟨SW_ETH_RX e, 32, 32⟩

/-- SW_ETH_CNT_e, R340: the address of the register. -/
def SW_ETH_CNT (e : Nat) : Nat := 0xF00014000428 + e * 0x40
/-- RX_DROP of SW_ETH_CNT_e (RO). -/
def SW_ETH_CNT_RX_DROP (e : Nat) : Fld := ⟨SW_ETH_CNT e, 0, 32⟩
/-- LINK_UP of SW_ETH_CNT_e (RO). -/
def SW_ETH_CNT_LINK_UP (e : Nat) : Fld := ⟨SW_ETH_CNT e, 32, 1⟩

/-- TD_NOW, R341: the address of the register. -/
def TD_NOW : Nat := 0xF00015000000
/-- TIDE of TD_NOW (RO). -/
def TD_NOW_TIDE : Fld := ⟨TD_NOW, 0, 64⟩

/-- TD_STATE, R341: the address of the register. -/
def TD_STATE : Nat := 0xF00015000008
/-- STATE of TD_STATE (RO). -/
def TD_STATE_STATE : Fld := ⟨TD_STATE, 0, 3⟩
/-- UPSTREAM of TD_STATE (RO). -/
def TD_STATE_UPSTREAM : Fld := ⟨TD_STATE, 3, 3⟩
/-- DEPTH of TD_STATE (RO). -/
def TD_STATE_DEPTH : Fld := ⟨TD_STATE, 6, 6⟩
/-- BOUND of TD_STATE (RO). -/
def TD_STATE_BOUND : Fld := ⟨TD_STATE, 12, 16⟩
/-- STILL of TD_STATE (RO). -/
def TD_STATE_STILL : Fld := ⟨TD_STATE, 28, 1⟩
/-- GENERATION of TD_STATE (RO). -/
def TD_STATE_GENERATION : Fld := ⟨TD_STATE, 32, 32⟩

/-- TD_MASTER, R341: the address of the register. -/
def TD_MASTER : Nat := 0xF00015000010
/-- IDENTITY of TD_MASTER (RO). -/
def TD_MASTER_IDENTITY : Fld := ⟨TD_MASTER, 0, 48⟩
/-- ROLE of TD_MASTER (RO). -/
def TD_MASTER_ROLE : Fld := ⟨TD_MASTER, 48, 2⟩

/-- TD_CFG, R341: the address of the register. -/
def TD_CFG : Nat := 0xF00015000018
/-- ROLE of TD_CFG (RWL). -/
def TD_CFG_ROLE : Fld := ⟨TD_CFG, 0, 2⟩
/-- SLOT of TD_CFG (RWL). -/
def TD_CFG_SLOT : Fld := ⟨TD_CFG, 2, 16⟩
/-- GUARD of TD_CFG (RWL). -/
def TD_CFG_GUARD : Fld := ⟨TD_CFG, 18, 8⟩
/-- LOSS_TIMEOUT of TD_CFG (RWL). -/
def TD_CFG_LOSS_TIMEOUT : Fld := ⟨TD_CFG, 26, 8⟩
/-- HOLDOVER_LIMIT of TD_CFG (RWL). -/
def TD_CFG_HOLDOVER_LIMIT : Fld := ⟨TD_CFG, 34, 8⟩
/-- ELECT_WAIT of TD_CFG (RWL). -/
def TD_CFG_ELECT_WAIT : Fld := ⟨TD_CFG, 42, 10⟩
/-- PTP_START of TD_CFG (RWL). -/
def TD_CFG_PTP_START : Fld := ⟨TD_CFG, 52, 1⟩

/-- TD_SLOT, R341: the address of the register. -/
def TD_SLOT : Nat := 0xF00015000020
/-- SLOT of TD_SLOT (RO). -/
def TD_SLOT_SLOT : Fld := ⟨TD_SLOT, 0, 16⟩
/-- GUARD of TD_SLOT (RO). -/
def TD_SLOT_GUARD : Fld := ⟨TD_SLOT, 16, 8⟩

/-- TD_SNAP, R341: the address of the register. -/
def TD_SNAP : Nat := 0xF00015000028
/-- SNAP of TD_SNAP (WO). -/
def TD_SNAP_SNAP : Fld := ⟨TD_SNAP, 0, 1⟩

/-- TD_SNAP_TIDE, R341: the address of the register. -/
def TD_SNAP_TIDE : Nat := 0xF00015000030
/-- TIDE of TD_SNAP_TIDE (RO). -/
def TD_SNAP_TIDE_TIDE : Fld := ⟨TD_SNAP_TIDE, 0, 64⟩

/-- TD_SNAP_LOCAL, R341: the address of the register. -/
def TD_SNAP_LOCAL : Nat := 0xF00015000038
/-- LOCAL of TD_SNAP_LOCAL (RO). -/
def TD_SNAP_LOCAL_LOCAL : Fld := ⟨TD_SNAP_LOCAL, 0, 64⟩

/-- TD_SITE_OFFSET, R341: the address of the register. -/
def TD_SITE_OFFSET : Nat := 0xF00015000040
/-- OFFSET of TD_SITE_OFFSET (RO). -/
def TD_SITE_OFFSET_OFFSET : Fld := ⟨TD_SITE_OFFSET, 0, 64⟩

/-- TD_SITE_STATE, R341: the address of the register. -/
def TD_SITE_STATE : Nat := 0xF00015000048
/-- LOCKED of TD_SITE_STATE (RO). -/
def TD_SITE_STATE_LOCKED : Fld := ⟨TD_SITE_STATE, 0, 1⟩

/-- TD_CTRL, R341: the address of the register. -/
def TD_CTRL : Nat := 0xF00015000050
/-- REJOIN of TD_CTRL (WO). -/
def TD_CTRL_REJOIN : Fld := ⟨TD_CTRL, 0, 1⟩

/-- TD_CTRL_STATUS, R341: the address of the register. -/
def TD_CTRL_STATUS : Nat := 0xF00015000058
/-- STATUS of TD_CTRL_STATUS (RO). -/
def TD_CTRL_STATUS_STATUS : Fld := ⟨TD_CTRL_STATUS, 0, 16⟩

/-- TD_SCHED_BASE, R341: the address of the register. -/
def TD_SCHED_BASE : Nat := 0xF00015000100
/-- BASE of TD_SCHED_BASE (RW). -/
def TD_SCHED_BASE_BASE : Fld := ⟨TD_SCHED_BASE, 12, 40⟩

/-- TD_SCHED_ORIGIN, R341: the address of the register. -/
def TD_SCHED_ORIGIN : Nat := 0xF00015000108
/-- ORIGIN of TD_SCHED_ORIGIN (RW). -/
def TD_SCHED_ORIGIN_ORIGIN : Fld := ⟨TD_SCHED_ORIGIN, 0, 64⟩

/-- TD_SCHED_CFG, R341: the address of the register. -/
def TD_SCHED_CFG : Nat := 0xF00015000110
/-- NSLOTS of TD_SCHED_CFG (RW). -/
def TD_SCHED_CFG_NSLOTS : Fld := ⟨TD_SCHED_CFG, 0, 11⟩
/-- EN of TD_SCHED_CFG (RW). -/
def TD_SCHED_CFG_EN : Fld := ⟨TD_SCHED_CFG, 11, 1⟩
/-- STATUS of TD_SCHED_CFG (RO). -/
def TD_SCHED_CFG_STATUS : Fld := ⟨TD_SCHED_CFG, 16, 16⟩

/-- HB_CL_STATE, R369: the address of the register. -/
def HB_CL_STATE : Nat := 0xF00010150000
/-- RUNNING of HB_CL_STATE (RO). -/
def HB_CL_STATE_RUNNING : Fld := ⟨HB_CL_STATE, 0, 4⟩
/-- QUEUED of HB_CL_STATE (RO). -/
def HB_CL_STATE_QUEUED : Fld := ⟨HB_CL_STATE, 4, 6⟩

/-- HB_CL_CNT, R369: the address of the register. -/
def HB_CL_CNT : Nat := 0xF00010150008
/-- DONE of HB_CL_CNT (RO). -/
def HB_CL_CNT_DONE : Fld := ⟨HB_CL_CNT, 0, 32⟩
/-- FAILED of HB_CL_CNT (RO). -/
def HB_CL_CNT_FAILED : Fld := ⟨HB_CL_CNT, 32, 32⟩

/-- HB_CL_BYTES, R369: the address of the register. -/
def HB_CL_BYTES : Nat := 0xF00010150010
/-- BYTES of HB_CL_BYTES (RO). -/
def HB_CL_BYTES_BYTES : Fld := ⟨HB_CL_BYTES, 0, 64⟩

/-- HB_CL_LAST, R369: the address of the register. -/
def HB_CL_LAST : Nat := 0xF00010150018
/-- STATUS of HB_CL_LAST (RO). -/
def HB_CL_LAST_STATUS : Fld := ⟨HB_CL_LAST, 0, 16⟩
/-- JOB of HB_CL_LAST (RO). -/
def HB_CL_LAST_JOB : Fld := ⟨HB_CL_LAST, 16, 6⟩
/-- POS of HB_CL_LAST (RO). -/
def HB_CL_LAST_POS : Fld := ⟨HB_CL_LAST, 22, 12⟩
/-- VALID of HB_CL_LAST (RO). -/
def HB_CL_LAST_VALID : Fld := ⟨HB_CL_LAST, 34, 1⟩

/-- HB_FW_CMD, R370: the address of the register. -/
def HB_FW_CMD : Nat := 0xF00010140000
/-- OP of HB_FW_CMD (WO). -/
def HB_FW_CMD_OP : Fld := ⟨HB_FW_CMD, 0, 2⟩
/-- TARGET of HB_FW_CMD (WO). -/
def HB_FW_CMD_TARGET : Fld := ⟨HB_FW_CMD, 2, 3⟩
/-- OVERRIDE of HB_FW_CMD (WO). -/
def HB_FW_CMD_OVERRIDE : Fld := ⟨HB_FW_CMD, 5, 1⟩

/-- HB_FW_ARG, R370: the address of the register. -/
def HB_FW_ARG : Nat := 0xF00010140008
/-- ADDR of HB_FW_ARG (RW). -/
def HB_FW_ARG_ADDR : Fld := ⟨HB_FW_ARG, 0, 52⟩

/-- HB_FW_LEN, R370: the address of the register. -/
def HB_FW_LEN : Nat := 0xF00010140010
/-- LEN of HB_FW_LEN (RW). -/
def HB_FW_LEN_LEN : Fld := ⟨HB_FW_LEN, 0, 32⟩
/-- QLIMIT of HB_FW_LEN (RW). -/
def HB_FW_LEN_QLIMIT : Fld := ⟨HB_FW_LEN, 32, 16⟩

/-- HB_FW_STATUS, R370: the address of the register. -/
def HB_FW_STATUS : Nat := 0xF00010140018
/-- STATUS of HB_FW_STATUS (RO). -/
def HB_FW_STATUS_STATUS : Fld := ⟨HB_FW_STATUS, 0, 16⟩
/-- BUSY of HB_FW_STATUS (RO). -/
def HB_FW_STATUS_BUSY : Fld := ⟨HB_FW_STATUS, 16, 1⟩
/-- PHASE of HB_FW_STATUS (RO). -/
def HB_FW_STATUS_PHASE : Fld := ⟨HB_FW_STATUS, 17, 3⟩
/-- UNTESTED of HB_FW_STATUS (RO). -/
def HB_FW_STATUS_UNTESTED : Fld := ⟨HB_FW_STATUS, 20, 1⟩

/-- HB_FW_VER_t, R370: the address of the register. -/
def HB_FW_VER (t : Nat) : Nat := 0xF00010140040 + t * 0x8
/-- FWVER of HB_FW_VER_t (RO). -/
def HB_FW_VER_FWVER (t : Nat) : Fld := ⟨HB_FW_VER t, 0, 32⟩
/-- SVN of HB_FW_VER_t (RO). -/
def HB_FW_VER_SVN (t : Nat) : Fld := ⟨HB_FW_VER t, 32, 32⟩

/-- HB_FW_IFACE, R370: the address of the register. -/
def HB_FW_IFACE : Nat := 0xF00010140070
/-- IFMIN of HB_FW_IFACE (RO). -/
def HB_FW_IFACE_IFMIN : Fld := ⟨HB_FW_IFACE, 0, 4⟩
/-- IFMAX of HB_FW_IFACE (RO). -/
def HB_FW_IFACE_IFMAX : Fld := ⟨HB_FW_IFACE, 4, 4⟩
/-- SELECT of HB_FW_IFACE (RW). -/
def HB_FW_IFACE_SELECT : Fld := ⟨HB_FW_IFACE, 8, 4⟩
/-- STATUS of HB_FW_IFACE (RO). -/
def HB_FW_IFACE_STATUS : Fld := ⟨HB_FW_IFACE, 16, 16⟩

/-- HB_FW_FAULT_c, R370: the address of the register. -/
def HB_FW_FAULT (c : Nat) : Nat := 0xF00010140100 + c * 0x8
/-- RESTARTS of HB_FW_FAULT_c (RO). -/
def HB_FW_FAULT_RESTARTS (c : Nat) : Fld := ⟨HB_FW_FAULT c, 0, 16⟩
/-- HELD of HB_FW_FAULT_c (RO). -/
def HB_FW_FAULT_HELD (c : Nat) : Fld := ⟨HB_FW_FAULT c, 16, 1⟩

/-- HB_TM_PLAN_j, R387: the address of the register. -/
def HB_TM_PLAN (j : Nat) : Nat := 0xF00010160000 + j * 0x40
/-- BASE of HB_TM_PLAN_j (RW). -/
def HB_TM_PLAN_BASE (j : Nat) : Fld := ⟨HB_TM_PLAN j, 0, 57⟩

/-- HB_TM_CFG_j, R387: the address of the register. -/
def HB_TM_CFG (j : Nat) : Nat := 0xF00010160008 + j * 0x40
/-- THRESH of HB_TM_CFG_j (RW). -/
def HB_TM_CFG_THRESH (j : Nat) : Fld := ⟨HB_TM_CFG j, 0, 10⟩
/-- RISK_EN of HB_TM_CFG_j (RW). -/
def HB_TM_CFG_RISK_EN (j : Nat) : Fld := ⟨HB_TM_CFG j, 10, 1⟩
/-- INTERVAL_EN of HB_TM_CFG_j (RW). -/
def HB_TM_CFG_INTERVAL_EN (j : Nat) : Fld := ⟨HB_TM_CFG j, 11, 1⟩
/-- INTERVAL of HB_TM_CFG_j (RW). -/
def HB_TM_CFG_INTERVAL (j : Nat) : Fld := ⟨HB_TM_CFG j, 16, 16⟩
/-- RISK_GAP of HB_TM_CFG_j (RW). -/
def HB_TM_CFG_RISK_GAP (j : Nat) : Fld := ⟨HB_TM_CFG j, 32, 16⟩

/-- HB_TM_CTRL_j, R387: the address of the register. -/
def HB_TM_CTRL (j : Nat) : Nat := 0xF00010160010 + j * 0x40
/-- ARM of HB_TM_CTRL_j (WO). -/
def HB_TM_CTRL_ARM (j : Nat) : Fld := ⟨HB_TM_CTRL j, 0, 1⟩
/-- TAKE of HB_TM_CTRL_j (WO). -/
def HB_TM_CTRL_TAKE (j : Nat) : Fld := ⟨HB_TM_CTRL j, 1, 1⟩
/-- CANCEL of HB_TM_CTRL_j (WO). -/
def HB_TM_CTRL_CANCEL (j : Nat) : Fld := ⟨HB_TM_CTRL j, 2, 1⟩

/-- HB_TM_STATE_j, R387: the address of the register. -/
def HB_TM_STATE (j : Nat) : Nat := 0xF00010160018 + j * 0x40
/-- STATE of HB_TM_STATE_j (RO). -/
def HB_TM_STATE_STATE (j : Nat) : Fld := ⟨HB_TM_STATE j, 0, 3⟩
/-- STATUS of HB_TM_STATE_j (RO). -/
def HB_TM_STATE_STATUS (j : Nat) : Fld := ⟨HB_TM_STATE j, 3, 16⟩
/-- SHINGLE of HB_TM_STATE_j (RO). -/
def HB_TM_STATE_SHINGLE (j : Nat) : Fld := ⟨HB_TM_STATE j, 19, 1⟩
/-- TARGET of HB_TM_STATE_j (RO). -/
def HB_TM_STATE_TARGET (j : Nat) : Fld := ⟨HB_TM_STATE j, 32, 32⟩

/-- HB_TM_LAST_j, R387: the address of the register. -/
def HB_TM_LAST (j : Nat) : Nat := 0xF00010160020 + j * 0x40
/-- GSTEP of HB_TM_LAST_j (RO). -/
def HB_TM_LAST_GSTEP (j : Nat) : Fld := ⟨HB_TM_LAST j, 0, 64⟩

/-- HB_TM_RTAG_j, R387: the address of the register. -/
def HB_TM_RTAG (j : Nat) : Nat := 0xF00010160028 + j * 0x40
/-- RTAG of HB_TM_RTAG_j (RW). -/
def HB_TM_RTAG_RTAG (j : Nat) : Fld := ⟨HB_TM_RTAG j, 0, 64⟩

/-- HB_TM_AREA, R387: the address of the register. -/
def HB_TM_AREA : Nat := 0xF00010161000
/-- KEY of HB_TM_AREA (RWL). -/
def HB_TM_AREA_KEY : Fld := ⟨HB_TM_AREA, 0, 6⟩
/-- BASE of HB_TM_AREA (RWL). -/
def HB_TM_AREA_BASE : Fld := ⟨HB_TM_AREA, 21, 31⟩

/-- HB_TM_AREA_LEN, R387: the address of the register. -/
def HB_TM_AREA_LEN : Nat := 0xF00010161008
/-- UNITS of HB_TM_AREA_LEN (RWL). -/
def HB_TM_AREA_LEN_UNITS : Fld := ⟨HB_TM_AREA_LEN, 0, 20⟩

/-- HB_TM_HELD, R387: the address of the register. -/
def HB_TM_HELD : Nat := 0xF00010161010
/-- TIDEMARKS of HB_TM_HELD (RO). -/
def HB_TM_HELD_TIDEMARKS : Fld := ⟨HB_TM_HELD, 0, 32⟩
/-- FREE of HB_TM_HELD (RO). -/
def HB_TM_HELD_FREE : Fld := ⟨HB_TM_HELD, 32, 32⟩

/-- HB_TM_RATE, R387: the address of the register. -/
def HB_TM_RATE : Nat := 0xF00010161018
/-- SEND_RATE of HB_TM_RATE (RW). -/
def HB_TM_RATE_SEND_RATE : Fld := ⟨HB_TM_RATE, 0, 16⟩
/-- FETCH_RATE of HB_TM_RATE (RW). -/
def HB_TM_RATE_FETCH_RATE : Fld := ⟨HB_TM_RATE, 16, 16⟩

/-- HB_TM_RST_ARG, R387: the address of the register. -/
def HB_TM_RST_ARG : Nat := 0xF00010161020
/-- DESC of HB_TM_RST_ARG (RW). -/
def HB_TM_RST_ARG_DESC : Fld := ⟨HB_TM_RST_ARG, 0, 57⟩

/-- HB_TM_RST_CMD, R387: the address of the register. -/
def HB_TM_RST_CMD : Nat := 0xF00010161028
/-- JOB of HB_TM_RST_CMD (WO). -/
def HB_TM_RST_CMD_JOB : Fld := ⟨HB_TM_RST_CMD, 0, 6⟩
/-- OP of HB_TM_RST_CMD (WO). -/
def HB_TM_RST_CMD_OP : Fld := ⟨HB_TM_RST_CMD, 6, 2⟩

/-- HB_TM_RST_STATUS, R387: the address of the register. -/
def HB_TM_RST_STATUS : Nat := 0xF00010161030
/-- STATUS of HB_TM_RST_STATUS (RO). -/
def HB_TM_RST_STATUS_STATUS : Fld := ⟨HB_TM_RST_STATUS, 0, 16⟩
/-- BUSY of HB_TM_RST_STATUS (RO). -/
def HB_TM_RST_STATUS_BUSY : Fld := ⟨HB_TM_RST_STATUS, 16, 1⟩

/-- LH_RISK, R388: the address of the register. -/
def LH_RISK : Nat := 0xF0001A030000
/-- SCORE of LH_RISK (RO). -/
def LH_RISK_SCORE : Fld := ⟨LH_RISK, 0, 10⟩
/-- M of LH_RISK (RO). -/
def LH_RISK_M : Fld := ⟨LH_RISK, 10, 8⟩
/-- T of LH_RISK (RO). -/
def LH_RISK_T : Fld := ⟨LH_RISK, 18, 8⟩
/-- L of LH_RISK (RO). -/
def LH_RISK_L : Fld := ⟨LH_RISK, 26, 8⟩
/-- H of LH_RISK (RO). -/
def LH_RISK_H : Fld := ⟨LH_RISK, 34, 8⟩
/-- P of LH_RISK (RO). -/
def LH_RISK_P : Fld := ⟨LH_RISK, 42, 8⟩

/-- LH_RISK_W, R388: the address of the register. -/
def LH_RISK_W : Nat := 0xF0001A030008
/-- W_M of LH_RISK_W (RWL). -/
def LH_RISK_W_W_M : Fld := ⟨LH_RISK_W, 0, 8⟩
/-- W_T of LH_RISK_W (RWL). -/
def LH_RISK_W_W_T : Fld := ⟨LH_RISK_W, 8, 8⟩
/-- W_L of LH_RISK_W (RWL). -/
def LH_RISK_W_W_L : Fld := ⟨LH_RISK_W, 16, 8⟩
/-- W_H of LH_RISK_W (RWL). -/
def LH_RISK_W_W_H : Fld := ⟨LH_RISK_W, 24, 8⟩
/-- W_P of LH_RISK_W (RWL). -/
def LH_RISK_W_W_P : Fld := ⟨LH_RISK_W, 32, 8⟩

/-- LH_GROUP, R388: the address of the register. -/
def LH_GROUP : Nat := 0xF0001A030010
/-- FEED of LH_GROUP (RWL). -/
def LH_GROUP_FEED : Fld := ⟨LH_GROUP, 0, 16⟩
/-- SLED of LH_GROUP (RWL). -/
def LH_GROUP_SLED : Fld := ⟨LH_GROUP, 16, 16⟩

/-- LH_SERIAL_i, R422: the address of the register. -/
def LH_SERIAL (i : Nat) : Nat := 0xF0001A000000 + i * 0x8
/-- CHARS of LH_SERIAL_i (RO). -/
def LH_SERIAL_CHARS (i : Nat) : Fld := ⟨LH_SERIAL i, 0, 64⟩

/-- LH_DIEID_d, R422: the address of the register. -/
def LH_DIEID (d : Nat) : Nat := 0xF0001A000010 + d * 0x8
/-- LOT of LH_DIEID_d (RO). -/
def LH_DIEID_LOT (d : Nat) : Fld := ⟨LH_DIEID d, 0, 32⟩
/-- WAFER of LH_DIEID_d (RO). -/
def LH_DIEID_WAFER (d : Nat) : Fld := ⟨LH_DIEID d, 32, 5⟩
/-- X of LH_DIEID_d (RO). -/
def LH_DIEID_X (d : Nat) : Fld := ⟨LH_DIEID d, 37, 8⟩
/-- Y of LH_DIEID_d (RO). -/
def LH_DIEID_Y (d : Nat) : Fld := ⟨LH_DIEID d, 45, 8⟩
/-- STEPPING of LH_DIEID_d (RO). -/
def LH_DIEID_STEPPING (d : Nat) : Fld := ⟨LH_DIEID d, 53, 4⟩

/-- LH_LIFE, R422: the address of the register. -/
def LH_LIFE : Nat := 0xF0001A000100
/-- STATE of LH_LIFE (RO). -/
def LH_LIFE_STATE : Fld := ⟨LH_LIFE, 0, 2⟩
/-- CONFIG_DEFAULT of LH_LIFE (RO). -/
def LH_LIFE_CONFIG_DEFAULT : Fld := ⟨LH_LIFE, 2, 1⟩

/-- LH_LIFE_CMD, R422: the address of the register. -/
def LH_LIFE_CMD : Nat := 0xF0001A000108
/-- OP of LH_LIFE_CMD (WO). -/
def LH_LIFE_CMD_OP : Fld := ⟨LH_LIFE_CMD, 0, 2⟩
/-- CONFIRM of LH_LIFE_CMD (WO). -/
def LH_LIFE_CMD_CONFIRM : Fld := ⟨LH_LIFE_CMD, 32, 32⟩

/-- LH_ATT_NONCE_i, R422: the address of the register. -/
def LH_ATT_NONCE (i : Nat) : Nat := 0xF0001A010000 + i * 0x8
/-- NONCE of LH_ATT_NONCE_i (RW). -/
def LH_ATT_NONCE_NONCE (i : Nat) : Fld := ⟨LH_ATT_NONCE i, 0, 64⟩

/-- LH_ATT_ARG, R422: the address of the register. -/
def LH_ATT_ARG : Nat := 0xF0001A010020
/-- BUF of LH_ATT_ARG (RW). -/
def LH_ATT_ARG_BUF : Fld := ⟨LH_ATT_ARG, 12, 40⟩

/-- LH_ATT_CMD, R422: the address of the register. -/
def LH_ATT_CMD : Nat := 0xF0001A010028
/-- OP of LH_ATT_CMD (WO). -/
def LH_ATT_CMD_OP : Fld := ⟨LH_ATT_CMD, 0, 2⟩

/-- LH_ATT_STATUS, R422: the address of the register. -/
def LH_ATT_STATUS : Nat := 0xF0001A010030
/-- STATUS of LH_ATT_STATUS (RO). -/
def LH_ATT_STATUS_STATUS : Fld := ⟨LH_ATT_STATUS, 0, 16⟩
/-- BUSY of LH_ATT_STATUS (RO). -/
def LH_ATT_STATUS_BUSY : Fld := ⟨LH_ATT_STATUS, 16, 1⟩

/-- LH_LMS, R422: the address of the register. -/
def LH_LMS : Nat := 0xF0001A010038
/-- NEXT of LH_LMS (RO). -/
def LH_LMS_NEXT : Fld := ⟨LH_LMS, 0, 40⟩
/-- READY of LH_LMS (RO). -/
def LH_LMS_READY : Fld := ⟨LH_LMS, 40, 1⟩

/-- LH_MINSVN_k, R422: the address of the register. -/
def LH_MINSVN (k : Nat) : Nat := 0xF0001A010040 + k * 0x8
/-- MIN_SVN of LH_MINSVN_k (RO). -/
def LH_MINSVN_MIN_SVN (k : Nat) : Fld := ⟨LH_MINSVN k, 0, 32⟩

/-- LH_SVN_CMD, R422: the address of the register. -/
def LH_SVN_CMD : Nat := 0xF0001A010070
/-- KIND of LH_SVN_CMD (WO). -/
def LH_SVN_CMD_KIND : Fld := ⟨LH_SVN_CMD, 0, 3⟩

/-- LH_UPD_ARG, R422: the address of the register. -/
def LH_UPD_ARG : Nat := 0xF0001A020000
/-- ADDR of LH_UPD_ARG (RW). -/
def LH_UPD_ARG_ADDR : Fld := ⟨LH_UPD_ARG, 0, 52⟩

/-- LH_UPD_LEN, R422: the address of the register. -/
def LH_UPD_LEN : Nat := 0xF0001A020008
/-- LEN of LH_UPD_LEN (RW). -/
def LH_UPD_LEN_LEN : Fld := ⟨LH_UPD_LEN, 0, 32⟩

/-- LH_UPD_CMD, R422: the address of the register. -/
def LH_UPD_CMD : Nat := 0xF0001A020010
/-- OP of LH_UPD_CMD (WO). -/
def LH_UPD_CMD_OP : Fld := ⟨LH_UPD_CMD, 0, 2⟩
/-- TARGET of LH_UPD_CMD (WO). -/
def LH_UPD_CMD_TARGET : Fld := ⟨LH_UPD_CMD, 2, 2⟩

/-- LH_UPD_STATUS, R422: the address of the register. -/
def LH_UPD_STATUS : Nat := 0xF0001A020018
/-- STATUS of LH_UPD_STATUS (RO). -/
def LH_UPD_STATUS_STATUS : Fld := ⟨LH_UPD_STATUS, 0, 16⟩
/-- BUSY of LH_UPD_STATUS (RO). -/
def LH_UPD_STATUS_BUSY : Fld := ⟨LH_UPD_STATUS, 16, 1⟩

/-- LH_SLOT_t, R422: the address of the register. -/
def LH_SLOT (t : Nat) : Nat := 0xF0001A020020 + t * 0x8
/-- ACTIVE of LH_SLOT_t (RO). -/
def LH_SLOT_ACTIVE (t : Nat) : Fld := ⟨LH_SLOT t, 0, 1⟩
/-- OTHER of LH_SLOT_t (RO). -/
def LH_SLOT_OTHER (t : Nat) : Fld := ⟨LH_SLOT t, 1, 3⟩
/-- FWVER of LH_SLOT_t (RO). -/
def LH_SLOT_FWVER (t : Nat) : Fld := ⟨LH_SLOT t, 32, 32⟩

/-- LH_TEMP_n, R422: the address of the register. -/
def LH_TEMP (n : Nat) : Nat := 0xF0001A040000 + n * 0x8
/-- TEMP of LH_TEMP_n (RO). -/
def LH_TEMP_TEMP (n : Nat) : Fld := ⟨LH_TEMP n, 0, 16⟩
/-- MAX of LH_TEMP_n (RO). -/
def LH_TEMP_MAX (n : Nat) : Fld := ⟨LH_TEMP n, 16, 16⟩

/-- LH_VI_d, R422: the address of the register. -/
def LH_VI (d : Nat) : Nat := 0xF0001A041000 + d * 0x8
/-- MV of LH_VI_d (RO). -/
def LH_VI_MV (d : Nat) : Fld := ⟨LH_VI d, 0, 16⟩
/-- CURRENT of LH_VI_d (RO). -/
def LH_VI_CURRENT (d : Nat) : Fld := ⟨LH_VI d, 16, 20⟩

/-- LH_ALERT, R422: the address of the register. -/
def LH_ALERT : Nat := 0xF0001A042000
/-- SENSOR of LH_ALERT (W1C). -/
def LH_ALERT_SENSOR : Fld := ⟨LH_ALERT, 0, 1⟩
/-- EOL of LH_ALERT (W1C). -/
def LH_ALERT_EOL : Fld := ⟨LH_ALERT, 1, 1⟩
/-- LASER of LH_ALERT (W1C). -/
def LH_ALERT_LASER : Fld := ⟨LH_ALERT, 2, 1⟩
/-- CONFIG of LH_ALERT (W1C). -/
def LH_ALERT_CONFIG : Fld := ⟨LH_ALERT, 3, 1⟩
/-- HELD of LH_ALERT (W1C). -/
def LH_ALERT_HELD : Fld := ⟨LH_ALERT, 4, 1⟩
/-- LOG of LH_ALERT (W1C). -/
def LH_ALERT_LOG : Fld := ⟨LH_ALERT, 5, 1⟩

/-- LH_LOG_HEAD, R422: the address of the register. -/
def LH_LOG_HEAD : Nat := 0xF0001A050000
/-- SEQ of LH_LOG_HEAD (RO). -/
def LH_LOG_HEAD_SEQ : Fld := ⟨LH_LOG_HEAD, 0, 40⟩

/-- LH_LOG_ARG, R422: the address of the register. -/
def LH_LOG_ARG : Nat := 0xF0001A050008
/-- BUF of LH_LOG_ARG (RW). -/
def LH_LOG_ARG_BUF : Fld := ⟨LH_LOG_ARG, 6, 46⟩

/-- LH_LOG_CMD, R422: the address of the register. -/
def LH_LOG_CMD : Nat := 0xF0001A050010
/-- FROM of LH_LOG_CMD (WO). -/
def LH_LOG_CMD_FROM : Fld := ⟨LH_LOG_CMD, 0, 40⟩
/-- COUNT of LH_LOG_CMD (WO). -/
def LH_LOG_CMD_COUNT : Fld := ⟨LH_LOG_CMD, 40, 17⟩

/-- LH_LOG_STATUS, R422: the address of the register. -/
def LH_LOG_STATUS : Nat := 0xF0001A050018
/-- STATUS of LH_LOG_STATUS (RO). -/
def LH_LOG_STATUS_STATUS : Fld := ⟨LH_LOG_STATUS, 0, 16⟩
/-- BUSY of LH_LOG_STATUS (RO). -/
def LH_LOG_STATUS_BUSY : Fld := ⟨LH_LOG_STATUS, 16, 1⟩
/-- DONE of LH_LOG_STATUS (RO). -/
def LH_LOG_STATUS_DONE : Fld := ⟨LH_LOG_STATUS, 17, 17⟩

/-- LH_LOG_LOST, R422: the address of the register. -/
def LH_LOG_LOST : Nat := 0xF0001A050020
/-- LOST of LH_LOG_LOST (RO). -/
def LH_LOG_LOST_LOST : Fld := ⟨LH_LOG_LOST, 0, 32⟩

/-- LH_EOL, R422: the address of the register. -/
def LH_EOL : Nat := 0xF0001A060000
/-- REMAIN_H of LH_EOL (RO). -/
def LH_EOL_REMAIN_H : Fld := ⟨LH_EOL, 0, 24⟩
/-- DATE of LH_EOL (RO). -/
def LH_EOL_DATE : Fld := ⟨LH_EOL, 24, 24⟩

/-- LH_LASER_b, R422: the address of the register. -/
def LH_LASER (b : Nat) : Nat := 0xF0001A060008 + b * 0x8
/-- HEADROOM of LH_LASER_b (RO). -/
def LH_LASER_HEADROOM (b : Nat) : Fld := ⟨LH_LASER b, 0, 10⟩
/-- REMAIN_H of LH_LASER_b (RO). -/
def LH_LASER_REMAIN_H (b : Nat) : Fld := ⟨LH_LASER b, 10, 24⟩
/-- DATE of LH_LASER_b (RO). -/
def LH_LASER_DATE (b : Nat) : Fld := ⟨LH_LASER b, 34, 24⟩

/-- PW_MODE, R442: the address of the register. -/
def PW_MODE : Nat := 0xF0001B000000
/-- MODE of PW_MODE (RO). -/
def PW_MODE_MODE : Fld := ⟨PW_MODE, 0, 2⟩
/-- PREV of PW_MODE (RO). -/
def PW_MODE_PREV : Fld := ⟨PW_MODE, 2, 2⟩
/-- REQ of PW_MODE (WO). -/
def PW_MODE_REQ : Fld := ⟨PW_MODE, 4, 2⟩
/-- GO of PW_MODE (WO). -/
def PW_MODE_GO : Fld := ⟨PW_MODE, 6, 1⟩
/-- BUSY of PW_MODE (RO). -/
def PW_MODE_BUSY : Fld := ⟨PW_MODE, 7, 1⟩
/-- STATUS of PW_MODE (RO). -/
def PW_MODE_STATUS : Fld := ⟨PW_MODE, 8, 16⟩

/-- PW_CFG, R442: the address of the register. -/
def PW_CFG : Nat := 0xF0001B000008
/-- IDLE_SLACK of PW_CFG (RWL). -/
def PW_CFG_IDLE_SLACK : Fld := ⟨PW_CFG, 0, 16⟩
/-- DOORBELL_WAKE of PW_CFG (RWL). -/
def PW_CFG_DOORBELL_WAKE : Fld := ⟨PW_CFG, 16, 1⟩
/-- MODE_QLIMIT of PW_CFG (RWL). -/
def PW_CFG_MODE_QLIMIT : Fld := ⟨PW_CFG, 17, 16⟩

/-- PW_INPUT, R442: the address of the register. -/
def PW_INPUT : Nat := 0xF0001B000010
/-- MV of PW_INPUT (RO). -/
def PW_INPUT_MV : Fld := ⟨PW_INPUT, 0, 16⟩
/-- CURRENT of PW_INPUT (RO). -/
def PW_INPUT_CURRENT : Fld := ⟨PW_INPUT, 16, 16⟩
/-- WATTS of PW_INPUT (RO). -/
def PW_INPUT_WATTS : Fld := ⟨PW_INPUT, 32, 16⟩

/-- PW_CAP, R442: the address of the register. -/
def PW_CAP : Nat := 0xF0001B000018
/-- CAP_W of PW_CAP (RO). -/
def PW_CAP_CAP_W : Fld := ⟨PW_CAP, 0, 16⟩
/-- STEP of PW_CAP (RO). -/
def PW_CAP_STEP : Fld := ⟨PW_CAP, 16, 4⟩
/-- HEADLAND of PW_CAP (RO). -/
def PW_CAP_HEADLAND : Fld := ⟨PW_CAP, 20, 1⟩
/-- CAPPED_MS of PW_CAP (RO). -/
def PW_CAP_CAPPED_MS : Fld := ⟨PW_CAP, 32, 32⟩

/-- PW_TRIP, R442: the address of the register. -/
def PW_TRIP : Nat := 0xF0001B000020
/-- SENSOR of PW_TRIP (RO). -/
def PW_TRIP_SENSOR : Fld := ⟨PW_TRIP, 0, 9⟩
/-- VALID of PW_TRIP (RO). -/
def PW_TRIP_VALID : Fld := ⟨PW_TRIP, 9, 1⟩

/-- PW_CLK_d, R442: the address of the register. -/
def PW_CLK (d : Nat) : Nat := 0xF0001B000100 + d * 0x8
/-- MHZ of PW_CLK_d (RO). -/
def PW_CLK_MHZ (d : Nat) : Fld := ⟨PW_CLK d, 0, 12⟩
/-- TSTEP of PW_CLK_d (RO). -/
def PW_CLK_TSTEP (d : Nat) : Fld := ⟨PW_CLK d, 12, 2⟩
/-- TEMP of PW_CLK_d (RO). -/
def PW_CLK_TEMP (d : Nat) : Fld := ⟨PW_CLK d, 14, 8⟩
/-- GATED of PW_CLK_d (RO). -/
def PW_CLK_GATED (d : Nat) : Fld := ⟨PW_CLK d, 22, 1⟩

/-- PW_DOM_n, R442: the address of the register. -/
def PW_DOM (n : Nat) : Nat := 0xF0001B001000 + n * 0x8
/-- STATE of PW_DOM_n (RO). -/
def PW_DOM_STATE (n : Nat) : Fld := ⟨PW_DOM n, 0, 2⟩
/-- SET_MV of PW_DOM_n (RO). -/
def PW_DOM_SET_MV (n : Nat) : Fld := ⟨PW_DOM n, 2, 16⟩

/-- LH_FRONT_STATE, R456: the address of the register. -/
def LH_FRONT_STATE : Nat := 0xF0001A070000
/-- CONN of LH_FRONT_STATE (RO). -/
def LH_FRONT_STATE_CONN : Fld := ⟨LH_FRONT_STATE, 0, 8⟩
/-- BAY_LATCHED of LH_FRONT_STATE (RO). -/
def LH_FRONT_STATE_BAY_LATCHED : Fld := ⟨LH_FRONT_STATE, 8, 4⟩
/-- LEVER of LH_FRONT_STATE (RO). -/
def LH_FRONT_STATE_LEVER : Fld := ⟨LH_FRONT_STATE, 12, 1⟩
/-- STATE of LH_FRONT_STATE (RO). -/
def LH_FRONT_STATE_STATE : Fld := ⟨LH_FRONT_STATE, 13, 3⟩
/-- BAY of LH_FRONT_STATE (RO). -/
def LH_FRONT_STATE_BAY : Fld := ⟨LH_FRONT_STATE, 16, 2⟩
/-- REMOVE_REQ of LH_FRONT_STATE (RO). -/
def LH_FRONT_STATE_REMOVE_REQ : Fld := ⟨LH_FRONT_STATE, 18, 1⟩
/-- FEED_ID of LH_FRONT_STATE (RO). -/
def LH_FRONT_STATE_FEED_ID : Fld := ⟨LH_FRONT_STATE, 19, 4⟩
/-- STATUS of LH_FRONT_STATE (RO). -/
def LH_FRONT_STATE_STATUS : Fld := ⟨LH_FRONT_STATE, 23, 16⟩
/-- BUSY of LH_FRONT_STATE (RO). -/
def LH_FRONT_STATE_BUSY : Fld := ⟨LH_FRONT_STATE, 39, 1⟩

/-- LH_FRONT_CMD, R456: the address of the register. -/
def LH_FRONT_CMD : Nat := 0xF0001A070008
/-- OP of LH_FRONT_CMD (WO). -/
def LH_FRONT_CMD_OP : Fld := ⟨LH_FRONT_CMD, 0, 2⟩
/-- BAY of LH_FRONT_CMD (WO). -/
def LH_FRONT_CMD_BAY : Fld := ⟨LH_FRONT_CMD, 2, 2⟩

/-- LH_FRONT_CFG, R456: the address of the register. -/
def LH_FRONT_CFG : Nat := 0xF0001A070010
/-- GRACE of LH_FRONT_CFG (RWL). -/
def LH_FRONT_CFG_GRACE : Fld := ⟨LH_FRONT_CFG, 0, 16⟩
/-- SWAP_WINDOW of LH_FRONT_CFG (RWL). -/
def LH_FRONT_CFG_SWAP_WINDOW : Fld := ⟨LH_FRONT_CFG, 16, 16⟩

/-- SF_STATE_c, R178: the address of the register. -/
def SF_STATE (c : Nat) : Nat := 0xF00017000000 + c * 0x10000
/-- TRAINED of SF_STATE_c (RO). -/
def SF_STATE_TRAINED (c : Nat) : Fld := ⟨SF_STATE c, 0, 1⟩
/-- REFRESH2X of SF_STATE_c (RO). -/
def SF_STATE_REFRESH2X (c : Nat) : Fld := ⟨SF_STATE c, 1, 1⟩
/-- TSTEP of SF_STATE_c (RO). -/
def SF_STATE_TSTEP (c : Nat) : Fld := ⟨SF_STATE c, 2, 2⟩
/-- TEMP of SF_STATE_c (RO). -/
def SF_STATE_TEMP (c : Nat) : Fld := ⟨SF_STATE c, 4, 8⟩
/-- DEGRADED of SF_STATE_c (RO). -/
def SF_STATE_DEGRADED (c : Nat) : Fld := ⟨SF_STATE c, 12, 1⟩

/-- SF_ECC_CNT_c, R178: the address of the register. -/
def SF_ECC_CNT (c : Nat) : Nat := 0xF00017000008 + c * 0x10000
/-- CORR of SF_ECC_CNT_c (RO). -/
def SF_ECC_CNT_CORR (c : Nat) : Fld := ⟨SF_ECC_CNT c, 0, 32⟩
/-- UNCORR of SF_ECC_CNT_c (RO). -/
def SF_ECC_CNT_UNCORR (c : Nat) : Fld := ⟨SF_ECC_CNT c, 32, 32⟩

/-- SF_LAST_c, R178: the address of the register. -/
def SF_LAST (c : Nat) : Nat := 0xF00017000010 + c * 0x10000
/-- ADDR of SF_LAST_c (RO). -/
def SF_LAST_ADDR (c : Nat) : Fld := ⟨SF_LAST c, 0, 52⟩
/-- SYMBOL of SF_LAST_c (RO). -/
def SF_LAST_SYMBOL (c : Nat) : Fld := ⟨SF_LAST c, 52, 6⟩
/-- VALID of SF_LAST_c (RO). -/
def SF_LAST_VALID (c : Nat) : Fld := ⟨SF_LAST c, 58, 1⟩

/-- SF_GRP_c_g, R178: the address of the register. -/
def SF_GRP (c : Nat) (g : Nat) : Nat := 0xF00017000400 + c * 0x10000 + g * 0x8
/-- PIN0 of SF_GRP_c_g (RO). -/
def SF_GRP_PIN0 (c : Nat) (g : Nat) : Fld := ⟨SF_GRP c g, 0, 6⟩
/-- E0 of SF_GRP_c_g (RO). -/
def SF_GRP_E0 (c : Nat) (g : Nat) : Fld := ⟨SF_GRP c g, 6, 1⟩
/-- PIN1 of SF_GRP_c_g (RO). -/
def SF_GRP_PIN1 (c : Nat) (g : Nat) : Fld := ⟨SF_GRP c g, 8, 6⟩
/-- E1 of SF_GRP_c_g (RO). -/
def SF_GRP_E1 (c : Nat) (g : Nat) : Fld := ⟨SF_GRP c g, 14, 1⟩
/-- RETIRED of SF_GRP_c_g (RO). -/
def SF_GRP_RETIRED (c : Nat) (g : Nat) : Fld := ⟨SF_GRP c g, 15, 1⟩

/-- SF_FAULT_CFG, R178: the address of the register. -/
def SF_FAULT_CFG : Nat := 0xF00017100000
/-- THRESH of SF_FAULT_CFG (RWL). -/
def SF_FAULT_CFG_THRESH : Fld := ⟨SF_FAULT_CFG, 0, 4⟩
/-- WINDOW of SF_FAULT_CFG (RWL). -/
def SF_FAULT_CFG_WINDOW : Fld := ⟨SF_FAULT_CFG, 4, 12⟩

/-- SF_SCRUB_CFG, R178: the address of the register. -/
def SF_SCRUB_CFG : Nat := 0xF00017100008
/-- PERIOD of SF_SCRUB_CFG (RWL). -/
def SF_SCRUB_CFG_PERIOD : Fld := ⟨SF_SCRUB_CFG, 0, 8⟩
/-- EN of SF_SCRUB_CFG (RWL). -/
def SF_SCRUB_CFG_EN : Fld := ⟨SF_SCRUB_CFG, 8, 1⟩

/-- RF_NF_GRAD, R100: the address of the register. -/
def RF_NF_GRAD (d : Nat) (n : Nat) : Nat := 0xF00001040040 + d * 0x4000000 + n * 0x100000
/-- COUNT of RF_NF_GRAD (RO). -/
def RF_NF_GRAD_COUNT (d : Nat) (n : Nat) : Fld := ⟨RF_NF_GRAD d n, 0, 32⟩

/-- RF_NF_LOSS, R100: the address of the register. -/
def RF_NF_LOSS (d : Nat) (n : Nat) : Nat := 0xF00001040048 + d * 0x4000000 + n * 0x100000
/-- COUNT of RF_NF_LOSS (RO). -/
def RF_NF_LOSS_COUNT (d : Nat) (n : Nat) : Fld := ⟨RF_NF_LOSS d n, 0, 32⟩

/-- RF_NF_MON, R100: the address of the register. -/
def RF_NF_MON (d : Nat) (n : Nat) : Nat := 0xF00001040050 + d * 0x4000000 + n * 0x100000
/-- COUNT of RF_NF_MON (RO). -/
def RF_NF_MON_COUNT (d : Nat) (n : Nat) : Fld := ⟨RF_NF_MON d n, 0, 32⟩

/-- event window of R117, R117: the address of the register. -/
def HB_EVENT (j : Nat) (e : Nat) : Nat := 0xF00010080000 + j * 0x800 + e * 0x8
/-- VALUE of event window of R117 (RO). -/
def HB_EVENT_VALUE (j : Nat) (e : Nat) : Fld := ⟨HB_EVENT j e, 0, 48⟩

/-- core-local event window of R118, R118: the address of the register. -/
def RF_EVENT (d : Nat) (n : Nat) (j : Nat) (e : Nat) : Nat := 0xF00001050000 + d * 0x4000000 + n * 0x100000 + j * 0x100 + e * 0x8
/-- VALUE of core-local event window of R118 (RO). -/
def RF_EVENT_VALUE (d : Nat) (n : Nat) (j : Nat) (e : Nat) : Fld := ⟨RF_EVENT d n j e, 0, 48⟩

/-- The rows of the register tables whose names begin RF_. -/
def rfRegs : List RegDef := [
  ⟨"RF_MX_STATE", 0xF00001030000, [(4, 0x4000000), (48, 0x100000)], [⟨0, 1, .ro, 0⟩, ⟨1, 6, .ro, 0⟩, ⟨7, 1, .ro, 0⟩, ⟨8, 8, .ro, 0⟩, ⟨16, 9, .ro, 0⟩, ⟨25, 2, .ro, 0⟩, ⟨27, 1, .ro, 0⟩]⟩,
  ⟨"RF_MX_CTRL", 0xF00001030008, [(4, 0x4000000), (48, 0x100000)], [⟨0, 1, .wo, 0⟩, ⟨1, 1, .wo, 0⟩]⟩,
  ⟨"RF_MX_CYC_BUSY", 0xF00001030010, [(4, 0x4000000), (48, 0x100000)], [⟨0, 64, .ro, 0⟩]⟩,
  ⟨"RF_MX_CYC_HELD", 0xF00001030018, [(4, 0x4000000), (48, 0x100000)], [⟨0, 64, .ro, 0⟩]⟩,
  ⟨"RF_MX_PROD", 0xF00001030020, [(4, 0x4000000), (48, 0x100000)], [⟨0, 64, .ro, 0⟩]⟩,
  ⟨"RF_MX_PLAN", 0xF00001030028, [(4, 0x4000000), (48, 0x100000)], [⟨0, 32, .ro, 0⟩, ⟨32, 32, .ro, 0⟩]⟩,
  ⟨"RF_MV_STATE", 0xF00001030040, [(4, 0x4000000), (48, 0x100000)], [⟨0, 1, .ro, 0⟩, ⟨1, 6, .ro, 0⟩]⟩,
  ⟨"RF_MV_CYC_BUSY", 0xF00001030048, [(4, 0x4000000), (48, 0x100000)], [⟨0, 64, .ro, 0⟩]⟩,
  ⟨"RF_MV_CYC_HELD", 0xF00001030050, [(4, 0x4000000), (48, 0x100000)], [⟨0, 64, .ro, 0⟩]⟩,
  ⟨"RF_MV_PROD", 0xF00001030058, [(4, 0x4000000), (48, 0x100000)], [⟨0, 64, .ro, 0⟩]⟩,
  ⟨"RF_NF_SRC", 0xF00001040058, [(4, 0x4000000), (48, 0x100000)], [⟨0, 1, .w1c, 0⟩, ⟨1, 1, .w1c, 0⟩, ⟨2, 1, .w1c, 0⟩, ⟨3, 1, .w1c, 0⟩]⟩,
  ⟨"RF_NF_LAST", 0xF00001040060, [(4, 0x4000000), (48, 0x100000)], [⟨0, 6, .ro, 0⟩, ⟨6, 2, .ro, 0⟩, ⟨8, 2, .ro, 0⟩, ⟨10, 32, .ro, 0⟩, ⟨42, 1, .ro, 0⟩]⟩,
  ⟨"RF_VX_STATE", 0xF00001040000, [(4, 0x4000000), (48, 0x100000)], [⟨0, 1, .ro, 0⟩, ⟨1, 6, .ro, 0⟩, ⟨7, 1, .ro, 0⟩, ⟨8, 8, .ro, 0⟩, ⟨16, 20, .ro, 0⟩, ⟨36, 12, .ro, 0⟩, ⟨48, 1, .ro, 0⟩]⟩,
  ⟨"RF_VX_CTRL", 0xF00001040008, [(4, 0x4000000), (48, 0x100000)], [⟨0, 1, .wo, 0⟩, ⟨1, 1, .wo, 0⟩]⟩,
  ⟨"RF_VX_CYC_BUSY", 0xF00001040010, [(4, 0x4000000), (48, 0x100000)], [⟨0, 64, .ro, 0⟩]⟩,
  ⟨"RF_VX_CYC_WAIT", 0xF00001040018, [(4, 0x4000000), (48, 0x100000)], [⟨0, 64, .ro, 0⟩]⟩,
  ⟨"RF_VX_LANEOPS", 0xF00001040020, [(4, 0x4000000), (48, 0x100000)], [⟨0, 64, .ro, 0⟩]⟩,
  ⟨"RF_VX_CMDS", 0xF00001040028, [(4, 0x4000000), (48, 0x100000)], [⟨0, 32, .ro, 0⟩, ⟨32, 32, .ro, 0⟩]⟩,
  ⟨"RF_NF_GRAD", 0xF00001040040, [(4, 0x4000000), (48, 0x100000)], [⟨0, 32, .ro, 0⟩]⟩,
  ⟨"RF_NF_LOSS", 0xF00001040048, [(4, 0x4000000), (48, 0x100000)], [⟨0, 32, .ro, 0⟩]⟩,
  ⟨"RF_NF_MON", 0xF00001040050, [(4, 0x4000000), (48, 0x100000)], [⟨0, 32, .ro, 0⟩]⟩,
  ⟨"RF_EVENT", 0xF00001050000, [(4, 0x4000000), (48, 0x100000), (64, 0x100), (32, 0x8)], [⟨0, 48, .ro, 0⟩]⟩]

/-- The rows of the register tables whose names begin HB_FIN, HB_JOB, HB_DB, HB_EVENT, HB_PF. -/
def hbJobRegs : List RegDef := [
  ⟨"HB_FIN_STATE", 0xF00010040000, [(64, 0x20)], [⟨0, 32, .ro, 0⟩, ⟨32, 1, .ro, 0⟩, ⟨33, 1, .ro, 0⟩, ⟨34, 1, .ro, 0⟩, ⟨35, 1, .ro, 0⟩]⟩,
  ⟨"HB_FIN_COUNT", 0xF00010040008, [(64, 0x20)], [⟨0, 32, .ro, 0⟩, ⟨32, 32, .ro, 0⟩]⟩,
  ⟨"HB_FIN_PREV", 0xF00010040010, [(64, 0x20)], [⟨0, 32, .ro, 0⟩, ⟨32, 1, .ro, 0⟩, ⟨33, 1, .ro, 0⟩, ⟨34, 1, .ro, 0⟩]⟩,
  ⟨"HB_JOB_CMD", 0xF00010020000, [], [⟨0, 2, .wo, 0⟩, ⟨2, 6, .wo, 0⟩]⟩,
  ⟨"HB_JOB_ARG", 0xF00010020008, [], [⟨0, 52, .rw, 0⟩]⟩,
  ⟨"HB_JOB_STATUS", 0xF00010020010, [], [⟨0, 16, .ro, 0⟩, ⟨16, 1, .ro, 0⟩]⟩,
  ⟨"HB_JOB_LIVE", 0xF00010020018, [], [⟨0, 64, .ro, 0⟩]⟩,
  ⟨"HB_DB_SQ_TAIL", 0xF00020000000, [(64, 0x10000), (8, 0x8)], [⟨0, 32, .rw, 0⟩]⟩,
  ⟨"HB_DB_SQ_HEAD", 0xF00020000040, [(64, 0x10000), (8, 0x8)], [⟨0, 32, .ro, 0⟩, ⟨32, 1, .ro, 0⟩, ⟨33, 1, .wo, 0⟩, ⟨34, 1, .wo, 0⟩]⟩,
  ⟨"HB_DB_CQ_HEAD", 0xF00020000080, [(64, 0x10000)], [⟨0, 32, .rw, 0⟩]⟩,
  ⟨"HB_DB_CQ_TAIL", 0xF00020000088, [(64, 0x10000)], [⟨0, 32, .ro, 0⟩, ⟨32, 1, .ro, 0⟩]⟩,
  ⟨"HB_DB_EQ_HEAD", 0xF00020000090, [(64, 0x10000)], [⟨0, 32, .rw, 0⟩]⟩,
  ⟨"HB_DB_EVENT", 0xF00020000098, [(64, 0x10000)], [⟨0, 8, .wo, 0⟩, ⟨16, 48, .wo, 0⟩]⟩,
  ⟨"HB_DB_IRQ", 0xF000200000A0, [(64, 0x10000)], [⟨0, 1, .rw, 0⟩, ⟨1, 1, .rw, 0⟩, ⟨2, 20, .rw, 1⟩]⟩,
  ⟨"HB_PF_BASE", 0xF000100C0000, [(64, 0x40)], [⟨0, 57, .rw, 0⟩]⟩,
  ⟨"HB_PF_CFG", 0xF000100C0008, [(64, 0x40)], [⟨0, 12, .rw, 0⟩, ⟨12, 4, .rw, 0⟩, ⟨16, 48, .rw, 0⟩]⟩,
  ⟨"HB_PF_CTRL", 0xF000100C0010, [(64, 0x40)], [⟨0, 1, .wo, 0⟩, ⟨1, 1, .wo, 0⟩, ⟨2, 1, .wo, 0⟩]⟩,
  ⟨"HB_PF_STATE", 0xF000100C0018, [(64, 0x40)], [⟨0, 12, .ro, 0⟩, ⟨12, 1, .ro, 0⟩, ⟨13, 1, .ro, 0⟩, ⟨16, 16, .ro, 0⟩, ⟨32, 32, .ro, 0⟩]⟩,
  ⟨"HB_EVENT", 0xF00010080000, [(64, 0x800), (256, 0x8)], [⟨0, 48, .ro, 0⟩]⟩]

/-- The rows of the register tables whose names begin HB_TLBI, HB_FR_, HB_FLT, HB_MP, HB_EV_, HB_DIR. -/
def hbXlRegs : List RegDef := [
  ⟨"HB_TLBI_CMD", 0xF00010100000, [], [⟨0, 16, .wo, 0⟩, ⟨16, 1, .wo, 0⟩, ⟨17, 1, .wo, 0⟩, ⟨18, 1, .wo, 0⟩]⟩,
  ⟨"HB_TLBI_VA", 0xF00010100008, [], [⟨0, 57, .rw, 0⟩]⟩,
  ⟨"HB_TLBI_LEN", 0xF00010100010, [], [⟨0, 40, .rw, 0⟩]⟩,
  ⟨"HB_TLBI_STATUS", 0xF00010100018, [], [⟨0, 16, .ro, 0⟩, ⟨16, 1, .ro, 0⟩]⟩,
  ⟨"HB_FR_BASE", 0xF00010100100, [], [⟨0, 5, .rw, 0⟩, ⟨12, 40, .rw, 0⟩]⟩,
  ⟨"HB_FR_HEAD", 0xF00010100108, [], [⟨0, 32, .rw, 0⟩]⟩,
  ⟨"HB_FR_TAIL", 0xF00010100110, [], [⟨0, 32, .ro, 0⟩]⟩,
  ⟨"HB_FLT_RESOLVE", 0xF00010100118, [], [⟨0, 8, .wo, 0⟩, ⟨16, 16, .wo, 0⟩]⟩,
  ⟨"HB_FLT_OPEN", 0xF00010100120, [], [⟨0, 9, .ro, 0⟩, ⟨16, 16, .ro, 0⟩]⟩,
  ⟨"HB_MP_BASE", 0xF00010100200, [], [⟨0, 5, .rw, 0⟩, ⟨12, 40, .rw, 0⟩]⟩,
  ⟨"HB_MP_TAIL", 0xF00010100208, [], [⟨0, 32, .rw, 0⟩]⟩,
  ⟨"HB_MP_HEAD", 0xF00010100210, [], [⟨0, 32, .ro, 0⟩]⟩,
  ⟨"HB_EV_VA", 0xF00010100300, [], [⟨0, 57, .rw, 0⟩]⟩,
  ⟨"HB_EV_PA", 0xF00010100308, [], [⟨21, 31, .rw, 0⟩]⟩,
  ⟨"HB_EV_CMD", 0xF00010100310, [], [⟨0, 16, .wo, 0⟩, ⟨16, 1, .wo, 0⟩, ⟨17, 1, .wo, 0⟩]⟩,
  ⟨"HB_EV_STATUS", 0xF00010100318, [], [⟨0, 16, .ro, 0⟩, ⟨16, 1, .ro, 0⟩]⟩,
  ⟨"HB_DIR_CFG", 0xF00010110000, [], [⟨0, 10, .rwl, 0x32⟩]⟩,
  ⟨"HB_DIR_QUAR", 0xF00010110008, [], [⟨0, 64, .ro, 0⟩]⟩,
  ⟨"HB_DIR_ABSENT", 0xF00010110010, [], [⟨0, 64, .ro, 0⟩]⟩,
  ⟨"HB_DIR_CNT", 0xF00010110018, [], [⟨0, 32, .ro, 0⟩, ⟨32, 32, .ro, 0⟩]⟩,
  ⟨"HB_DIR_OCC", 0xF00010110020, [], [⟨0, 23, .ro, 0⟩]⟩]

/-- The rows of the register tables whose names begin HB_LT, HB_DIE, HB_FW, HB_CL. -/
def hbHubRegs : List RegDef := [
  ⟨"HB_LT_STATE", 0xF00010120000, [(5, 0x1000)], [⟨0, 2, .ro, 0⟩, ⟨2, 1, .ro, 0⟩, ⟨3, 4, .ro, 0⟩, ⟨7, 8, .ro, 0⟩, ⟨15, 8, .ro, 0⟩]⟩,
  ⟨"HB_LT_CNT", 0xF00010120008, [(5, 0x1000)], [⟨0, 32, .ro, 0⟩, ⟨32, 32, .ro, 0⟩]⟩,
  ⟨"HB_LT_GRP", 0xF00010120100, [(4, 0x1000), (64, 0x8)], [⟨0, 6, .ro, 0x3F⟩, ⟨6, 1, .ro, 0⟩, ⟨7, 1, .ro, 0⟩, ⟨8, 6, .ro, 0x3F⟩, ⟨14, 1, .ro, 0⟩, ⟨16, 16, .ro, 0⟩]⟩,
  ⟨"HB_LT_GRP", 0xF00010124100, [(32, 0x8)], [⟨0, 6, .ro, 0x3F⟩, ⟨6, 1, .ro, 0⟩, ⟨7, 1, .ro, 0⟩, ⟨8, 6, .ro, 0x3F⟩, ⟨14, 1, .ro, 0⟩, ⟨16, 16, .ro, 0⟩]⟩,
  ⟨"HB_LT_FAULT_CFG", 0xF00010128000, [], [⟨0, 8, .rwl, 0x10⟩, ⟨8, 24, .rwl, 0x2710⟩]⟩,
  ⟨"HB_DIE_STATE", 0xF00010130000, [(5, 0x8)], [⟨0, 3, .ro, 0⟩, ⟨3, 5, .ro, 0⟩, ⟨8, 16, .ro, 0⟩]⟩,
  ⟨"HB_DIE_CMD", 0xF00010130040, [], [⟨0, 3, .wo, 0⟩, ⟨3, 2, .wo, 0⟩]⟩,
  ⟨"HB_CL_STATE", 0xF00010150000, [], [⟨0, 4, .ro, 0⟩, ⟨4, 6, .ro, 0⟩]⟩,
  ⟨"HB_CL_CNT", 0xF00010150008, [], [⟨0, 32, .ro, 0⟩, ⟨32, 32, .ro, 0⟩]⟩,
  ⟨"HB_CL_BYTES", 0xF00010150010, [], [⟨0, 64, .ro, 0⟩]⟩,
  ⟨"HB_CL_LAST", 0xF00010150018, [], [⟨0, 16, .ro, 0⟩, ⟨16, 6, .ro, 0⟩, ⟨22, 12, .ro, 0⟩, ⟨34, 1, .ro, 0⟩]⟩,
  ⟨"HB_FW_CMD", 0xF00010140000, [], [⟨0, 2, .wo, 0⟩, ⟨2, 3, .wo, 0⟩, ⟨5, 1, .wo, 0⟩]⟩,
  ⟨"HB_FW_ARG", 0xF00010140008, [], [⟨0, 52, .rw, 0⟩]⟩,
  ⟨"HB_FW_LEN", 0xF00010140010, [], [⟨0, 32, .rw, 0⟩, ⟨32, 16, .rw, 0⟩]⟩,
  ⟨"HB_FW_STATUS", 0xF00010140018, [], [⟨0, 16, .ro, 0⟩, ⟨16, 1, .ro, 0⟩, ⟨17, 3, .ro, 0⟩, ⟨20, 1, .ro, 0⟩]⟩,
  ⟨"HB_FW_VER", 0xF00010140040, [(5, 0x8)], [⟨0, 32, .ro, 0⟩, ⟨32, 32, .ro, 0⟩]⟩,
  ⟨"HB_FW_IFACE", 0xF00010140070, [], [⟨0, 4, .ro, 0⟩, ⟨4, 4, .ro, 0⟩, ⟨8, 4, .rw, 0⟩, ⟨16, 16, .ro, 0⟩]⟩,
  ⟨"HB_FW_FAULT", 0xF00010140100, [(195, 0x8)], [⟨0, 16, .ro, 0⟩, ⟨16, 1, .ro, 0⟩]⟩]

/-- The rows of the register tables whose names begin HB_TM. -/
def hbTmRegs : List RegDef := [
  ⟨"HB_TM_PLAN", 0xF00010160000, [(64, 0x40)], [⟨0, 57, .rw, 0⟩]⟩,
  ⟨"HB_TM_CFG", 0xF00010160008, [(64, 0x40)], [⟨0, 10, .rw, 0x200⟩, ⟨10, 1, .rw, 0⟩, ⟨11, 1, .rw, 0⟩, ⟨16, 16, .rw, 0x168⟩, ⟨32, 16, .rw, 0x1E⟩]⟩,
  ⟨"HB_TM_CTRL", 0xF00010160010, [(64, 0x40)], [⟨0, 1, .wo, 0⟩, ⟨1, 1, .wo, 0⟩, ⟨2, 1, .wo, 0⟩]⟩,
  ⟨"HB_TM_STATE", 0xF00010160018, [(64, 0x40)], [⟨0, 3, .ro, 0⟩, ⟨3, 16, .ro, 0⟩, ⟨19, 1, .ro, 0⟩, ⟨32, 32, .ro, 0⟩]⟩,
  ⟨"HB_TM_LAST", 0xF00010160020, [(64, 0x40)], [⟨0, 64, .ro, 0⟩]⟩,
  ⟨"HB_TM_RTAG", 0xF00010160028, [(64, 0x40)], [⟨0, 64, .rw, 0⟩]⟩,
  ⟨"HB_TM_AREA", 0xF00010161000, [], [⟨0, 6, .rwl, 0⟩, ⟨21, 31, .rwl, 0⟩]⟩,
  ⟨"HB_TM_AREA_LEN", 0xF00010161008, [], [⟨0, 20, .rwl, 0⟩]⟩,
  ⟨"HB_TM_HELD", 0xF00010161010, [], [⟨0, 32, .ro, 0⟩, ⟨32, 32, .ro, 0⟩]⟩,
  ⟨"HB_TM_RATE", 0xF00010161018, [], [⟨0, 16, .rw, 0xFA⟩, ⟨16, 16, .rw, 0x3E8⟩]⟩,
  ⟨"HB_TM_RST_ARG", 0xF00010161020, [], [⟨0, 57, .rw, 0⟩]⟩,
  ⟨"HB_TM_RST_CMD", 0xF00010161028, [], [⟨0, 6, .wo, 0⟩, ⟨6, 2, .wo, 0⟩]⟩,
  ⟨"HB_TM_RST_STATUS", 0xF00010161030, [], [⟨0, 16, .ro, 0⟩, ⟨16, 1, .ro, 0⟩]⟩]

/-- The rows of the register tables whose names begin BW_. -/
def bwRegs : List RegDef := [
  ⟨"BW_ID", 0xF00011000000, [], [⟨0, 1, .ro, 0⟩, ⟨1, 1, .ro, 0⟩, ⟨2, 7, .ro, 0⟩, ⟨9, 1, .ro, 0⟩]⟩,
  ⟨"BW_CTRL", 0xF00011000008, [], [⟨0, 1, .wo, 0⟩]⟩,
  ⟨"BW_CFG", 0xF00011000010, [], [⟨0, 16, .rwl, 0x10⟩, ⟨16, 6, .rwl, 0⟩]⟩,
  ⟨"BW_RATE", 0xF00011000018, [], [⟨0, 16, .rw, 0xA00⟩, ⟨16, 16, .rw, 0xA00⟩, ⟨32, 32, .rw, 0x400⟩]⟩,
  ⟨"BW_WIN_BASE", 0xF00011000100, [(4, 0x10)], [⟨0, 1, .rwl, 0⟩, ⟨1, 1, .rwl, 0⟩, ⟨2, 1, .rwl, 0⟩, ⟨3, 1, .rwl, 0⟩, ⟨4, 6, .rwl, 0⟩, ⟨16, 36, .rwl, 0⟩]⟩,
  ⟨"BW_WIN_BASE", 0xF00011000140, [(12, 0x10)], [⟨0, 1, .rw, 0⟩, ⟨1, 1, .rw, 0⟩, ⟨2, 1, .rw, 0⟩, ⟨3, 1, .rw, 0⟩, ⟨4, 6, .rw, 0⟩, ⟨16, 36, .rw, 0⟩]⟩,
  ⟨"BW_WIN_LIM", 0xF00011000108, [(4, 0x10)], [⟨0, 1, .ro, 0⟩, ⟨16, 36, .rwl, 0⟩]⟩,
  ⟨"BW_WIN_LIM", 0xF00011000148, [(12, 0x10)], [⟨0, 1, .ro, 0⟩, ⟨16, 36, .rw, 0⟩]⟩,
  ⟨"BW_LAST", 0xF00011000400, [], [⟨0, 52, .ro, 0⟩, ⟨52, 2, .ro, 0⟩, ⟨54, 1, .ro, 0⟩]⟩,
  ⟨"BW_CNT", 0xF00011000408, [], [⟨0, 32, .ro, 0⟩, ⟨32, 32, .ro, 0⟩]⟩]

/-- The rows of the register tables whose names begin HL_. -/
def hlRegs : List RegDef := [
  ⟨"HL_ID", 0xF00012000000, [], [⟨0, 7, .ro, 0x40⟩]⟩,
  ⟨"HL_BOOT_ADDR", 0xF00012000008, [], [⟨0, 52, .ro, 0⟩]⟩,
  ⟨"HL_HART_START", 0xF00012000010, [], [⟨0, 64, .wo, 0⟩]⟩,
  ⟨"HL_HART_RUN", 0xF00012000018, [], [⟨0, 64, .ro, 0⟩]⟩,
  ⟨"HL_DRV_OWNER", 0xF00012000020, [], [⟨0, 2, .ro, 0⟩, ⟨2, 1, .wo, 0⟩, ⟨3, 1, .wo, 0⟩, ⟨4, 16, .ro, 0⟩]⟩,
  ⟨"HL_CLK", 0xF00012000028, [], [⟨0, 12, .ro, 0⟩]⟩,
  ⟨"HL_IRQ_ROUTE", 0xF00012001000, [(135, 0x8)], [⟨0, 6, .rw, 0⟩, ⟨6, 3, .rw, 0⟩, ⟨9, 11, .rw, 0⟩, ⟨20, 1, .rw, 0⟩]⟩,
  ⟨"HL_IRQ_ROUTE", 0xF00012001438, [(25, 0x8)], []⟩,
  ⟨"HL_IRQ_ROUTE", 0xF00012001500, [(32, 0x8)], [⟨0, 6, .rw, 0⟩, ⟨6, 3, .rw, 0⟩, ⟨9, 11, .rw, 0⟩, ⟨20, 1, .rw, 0⟩]⟩]

/-- The rows of the register tables whose names begin LW_. -/
def lwRegs : List RegDef := [
  ⟨"LW_LINK", 0xF00013000000, [(2, 0x10000)], [⟨0, 2, .ro, 0⟩, ⟨2, 5, .ro, 0⟩, ⟨7, 3, .ro, 0⟩, ⟨10, 1, .ro, 0⟩]⟩,
  ⟨"LW_ARM", 0xF00013000008, [(2, 0x10000)], [⟨0, 32, .wo, 0⟩]⟩,
  ⟨"LW_EPOCH", 0xF00013000010, [(2, 0x10000)], [⟨0, 32, .ro, 0⟩, ⟨32, 1, .ro, 0⟩, ⟨33, 1, .ro, 0⟩, ⟨34, 3, .ro, 0⟩, ⟨37, 16, .ro, 0⟩]⟩,
  ⟨"LW_CNT", 0xF00013000018, [(2, 0x10000)], [⟨0, 32, .ro, 0⟩, ⟨32, 32, .ro, 0⟩]⟩,
  ⟨"LW_CNT2", 0xF00013000020, [(2, 0x10000)], [⟨0, 32, .ro, 0⟩, ⟨32, 16, .ro, 0⟩]⟩,
  ⟨"LW_FLINE", 0xF00013000028, [(2, 0x10000)], [⟨0, 1, .rw, 0⟩, ⟨6, 46, .rw, 0⟩]⟩,
  ⟨"LW_FENCE", 0xF00013080000, [], [⟨0, 1, .ro, 0⟩, ⟨1, 1, .ro, 0⟩, ⟨2, 1, .ro, 0⟩, ⟨3, 1, .ro, 0⟩]⟩,
  ⟨"LW_ROUTE", 0xF00013080008, [], [⟨0, 2, .rw, 0⟩, ⟨2, 1, .ro, 0⟩]⟩,
  ⟨"LW_CFG", 0xF00013080010, [], [⟨0, 16, .rwl, 0x30⟩, ⟨16, 1, .rwl, 0⟩]⟩,
  ⟨"LW_MKEY", 0xF00013080100, [(16, 0x8)], [⟨0, 1, .rw, 0⟩, ⟨1, 6, .rw, 0⟩, ⟨9, 20, .rw, 0⟩, ⟨32, 20, .rw, 0⟩]⟩]

/-- The rows of the register tables whose names begin SW_. -/
def swRegs : List RegDef := [
  ⟨"SW_ID", 0xF00014000000, [], [⟨0, 48, .ro, 0⟩]⟩,
  ⟨"SW_CFG", 0xF00014000008, [], [⟨0, 32, .rwl, 0⟩, ⟨32, 1, .rwl, 0⟩, ⟨33, 1, .rwl, 0⟩, ⟨34, 1, .rwl, 0⟩, ⟨35, 8, .rwl, 0⟩]⟩,
  ⟨"SW_LANEMAP", 0xF00014000010, [], [⟨0, 64, .rwl, 0⟩]⟩,
  ⟨"SW_FAULT_CFG", 0xF00014000018, [], [⟨0, 8, .rwl, 0x10⟩, ⟨8, 24, .rwl, 0x2710⟩]⟩,
  ⟨"SW_SELF", 0xF00014000020, [], [⟨0, 12, .rw, 0⟩, ⟨12, 13, .rw, 0⟩, ⟨25, 1, .rw, 0⟩, ⟨26, 16, .ro, 0⟩]⟩,
  ⟨"SW_RANK_BASE", 0xF00014000028, [], [⟨12, 40, .rw, 0⟩]⟩,
  ⟨"SW_CTX_ARG", 0xF00014000030, [], [⟨0, 52, .rw, 0⟩]⟩,
  ⟨"SW_CTX_CMD", 0xF00014000038, [], [⟨0, 2, .wo, 0⟩, ⟨2, 14, .wo, 0⟩]⟩,
  ⟨"SW_CTX_STATUS", 0xF00014000040, [], [⟨0, 16, .ro, 0⟩, ⟨16, 1, .ro, 0⟩, ⟨17, 14, .ro, 0⟩, ⟨31, 15, .ro, 0x4000⟩]⟩,
  ⟨"SW_LANE_CMD", 0xF00014000048, [], [⟨0, 6, .wo, 0⟩, ⟨6, 2, .wo, 0⟩]⟩,
  ⟨"SW_LANE_STATUS", 0xF00014000050, [], [⟨0, 16, .ro, 0⟩, ⟨16, 1, .ro, 0⟩]⟩,
  ⟨"SW_FAB_CNT", 0xF00014000058, [], [⟨0, 32, .ro, 0⟩, ⟨32, 32, .ro, 0⟩]⟩,
  ⟨"SW_PORT", 0xF00014000100, [(8, 0x8)], [⟨0, 4, .ro, 0⟩, ⟨4, 2, .ro, 0⟩, ⟨6, 1, .ro, 0⟩, ⟨7, 4, .ro, 0⟩]⟩,
  ⟨"SW_PEER", 0xF00014000140, [(8, 0x8)], [⟨0, 48, .ro, 0⟩]⟩,
  ⟨"SW_LANE", 0xF00014000200, [(64, 0x8)], [⟨0, 3, .ro, 0⟩, ⟨3, 4, .ro, 0⟩, ⟨7, 16, .ro, 0⟩, ⟨32, 32, .ro, 0⟩]⟩,
  ⟨"SW_ETH_CFG", 0xF00014000400, [(2, 0x40)], [⟨0, 48, .rw, 0⟩, ⟨48, 1, .rw, 0⟩, ⟨49, 1, .rw, 0⟩, ⟨50, 1, .rw, 0⟩]⟩,
  ⟨"SW_ETH_TXQ", 0xF00014000408, [(2, 0x40)], [⟨0, 5, .rw, 0⟩, ⟨12, 40, .rw, 0⟩]⟩,
  ⟨"SW_ETH_TX", 0xF00014000410, [(2, 0x40)], [⟨0, 32, .rw, 0⟩, ⟨32, 32, .ro, 0⟩]⟩,
  ⟨"SW_ETH_RXQ", 0xF00014000418, [(2, 0x40)], [⟨0, 5, .rw, 0⟩, ⟨12, 40, .rw, 0⟩]⟩,
  ⟨"SW_ETH_RX", 0xF00014000420, [(2, 0x40)], [⟨0, 32, .rw, 0⟩, ⟨32, 32, .ro, 0⟩]⟩,
  ⟨"SW_ETH_CNT", 0xF00014000428, [(2, 0x40)], [⟨0, 32, .ro, 0⟩, ⟨32, 1, .ro, 0⟩]⟩]

/-- The rows of the register tables whose names begin TD_. -/
def tdRegs : List RegDef := [
  ⟨"TD_NOW", 0xF00015000000, [], [⟨0, 64, .ro, 0⟩]⟩,
  ⟨"TD_STATE", 0xF00015000008, [], [⟨0, 3, .ro, 0⟩, ⟨3, 3, .ro, 0⟩, ⟨6, 6, .ro, 0⟩, ⟨12, 16, .ro, 0⟩, ⟨28, 1, .ro, 0⟩, ⟨32, 32, .ro, 0⟩]⟩,
  ⟨"TD_MASTER", 0xF00015000010, [], [⟨0, 48, .ro, 0⟩, ⟨48, 2, .ro, 0⟩]⟩,
  ⟨"TD_CFG", 0xF00015000018, [], [⟨0, 2, .rwl, 0⟩, ⟨2, 16, .rwl, 0x7D0⟩, ⟨18, 8, .rwl, 0x28⟩, ⟨26, 8, .rwl, 0x32⟩, ⟨34, 8, .rwl, 0x14⟩, ⟨42, 10, .rwl, 0x64⟩, ⟨52, 1, .rwl, 0⟩]⟩,
  ⟨"TD_SLOT", 0xF00015000020, [], [⟨0, 16, .ro, 0⟩, ⟨16, 8, .ro, 0⟩]⟩,
  ⟨"TD_SNAP", 0xF00015000028, [], [⟨0, 1, .wo, 0⟩]⟩,
  ⟨"TD_SNAP_TIDE", 0xF00015000030, [], [⟨0, 64, .ro, 0⟩]⟩,
  ⟨"TD_SNAP_LOCAL", 0xF00015000038, [], [⟨0, 64, .ro, 0⟩]⟩,
  ⟨"TD_SITE_OFFSET", 0xF00015000040, [], [⟨0, 64, .ro, 0⟩]⟩,
  ⟨"TD_SITE_STATE", 0xF00015000048, [], [⟨0, 1, .ro, 0⟩]⟩,
  ⟨"TD_CTRL", 0xF00015000050, [], [⟨0, 1, .wo, 0⟩]⟩,
  ⟨"TD_CTRL_STATUS", 0xF00015000058, [], [⟨0, 16, .ro, 0⟩]⟩,
  ⟨"TD_SCHED_BASE", 0xF00015000100, [], [⟨12, 40, .rw, 0⟩]⟩,
  ⟨"TD_SCHED_ORIGIN", 0xF00015000108, [], [⟨0, 64, .rw, 0⟩]⟩,
  ⟨"TD_SCHED_CFG", 0xF00015000110, [], [⟨0, 11, .rw, 0⟩, ⟨11, 1, .rw, 0⟩, ⟨16, 16, .ro, 0⟩]⟩]

/-- The rows of the register tables whose names begin SK_. -/
def skRegs : List RegDef := [
  ⟨"SK_STATE", 0xF00016000000, [(8, 0x10000)], [⟨0, 1, .ro, 0⟩, ⟨1, 1, .ro, 0⟩, ⟨2, 2, .ro, 0⟩, ⟨4, 8, .ro, 0⟩, ⟨12, 1, .ro, 0⟩]⟩,
  ⟨"SK_ECC_CNT", 0xF00016000008, [(8, 0x10000)], [⟨0, 32, .ro, 0⟩, ⟨32, 32, .ro, 0⟩]⟩,
  ⟨"SK_LAST", 0xF00016000010, [(8, 0x10000)], [⟨0, 52, .ro, 0⟩, ⟨52, 6, .ro, 0⟩, ⟨58, 1, .ro, 0⟩]⟩,
  ⟨"SK_PCH", 0xF00016000400, [(8, 0x10000), (64, 0x8)], [⟨0, 6, .ro, 0⟩, ⟨6, 1, .ro, 0⟩, ⟨8, 6, .ro, 0⟩, ⟨14, 1, .ro, 0⟩, ⟨15, 1, .ro, 0⟩]⟩,
  ⟨"SK_FAULT_CFG", 0xF00016100000, [], [⟨0, 4, .rwl, 3⟩, ⟨4, 12, .rwl, 0x5A0⟩]⟩,
  ⟨"SK_SCRUB_CFG", 0xF00016100008, [], [⟨0, 8, .rwl, 0x18⟩, ⟨8, 1, .rwl, 1⟩]⟩,
  ⟨"SK_KEY_CMD", 0xF00016100020, [], [⟨0, 2, .wo, 0⟩, ⟨2, 6, .wo, 0⟩]⟩,
  ⟨"SK_KEY_STATUS", 0xF00016100028, [], [⟨0, 16, .ro, 0⟩, ⟨16, 1, .ro, 0⟩]⟩,
  ⟨"SK_KEY_LOADED", 0xF00016100030, [], [⟨0, 64, .ro, 0⟩]⟩]

/-- The rows of the register tables whose names begin SF_. -/
def sfRegs : List RegDef := [
  ⟨"SF_STATE", 0xF00017000000, [(24, 0x10000)], [⟨0, 1, .ro, 0⟩, ⟨1, 1, .ro, 0⟩, ⟨2, 2, .ro, 0⟩, ⟨4, 8, .ro, 0⟩, ⟨12, 1, .ro, 0⟩]⟩,
  ⟨"SF_ECC_CNT", 0xF00017000008, [(24, 0x10000)], [⟨0, 32, .ro, 0⟩, ⟨32, 32, .ro, 0⟩]⟩,
  ⟨"SF_LAST", 0xF00017000010, [(24, 0x10000)], [⟨0, 52, .ro, 0⟩, ⟨52, 6, .ro, 0⟩, ⟨58, 1, .ro, 0⟩]⟩,
  ⟨"SF_GRP", 0xF00017000400, [(24, 0x10000), (2, 0x8)], [⟨0, 6, .ro, 0⟩, ⟨6, 1, .ro, 0⟩, ⟨8, 6, .ro, 0⟩, ⟨14, 1, .ro, 0⟩, ⟨15, 1, .ro, 0⟩]⟩,
  ⟨"SF_FAULT_CFG", 0xF00017100000, [], [⟨0, 4, .rwl, 3⟩, ⟨4, 12, .rwl, 0x5A0⟩]⟩,
  ⟨"SF_SCRUB_CFG", 0xF00017100008, [], [⟨0, 8, .rwl, 0x18⟩, ⟨8, 1, .rwl, 1⟩]⟩]

/-- The rows of the register tables whose names begin SG_. -/
def sgRegs : List RegDef := [
  ⟨"SG_WQ_BASE", 0xF00018000000, [], [⟨12, 40, .rw, 0⟩, ⟨0, 5, .rw, 0⟩]⟩,
  ⟨"SG_WQ_TAIL", 0xF00018000008, [], [⟨0, 32, .rw, 0⟩]⟩,
  ⟨"SG_WQ_HEAD", 0xF00018000010, [], [⟨0, 32, .ro, 0⟩]⟩,
  ⟨"SG_CQ_BASE", 0xF00018000018, [], [⟨12, 40, .rw, 0⟩, ⟨0, 5, .rw, 0⟩]⟩,
  ⟨"SG_CQ_HEAD", 0xF00018000020, [], [⟨0, 32, .rw, 0⟩]⟩,
  ⟨"SG_CQ_TAIL", 0xF00018000028, [], [⟨0, 32, .ro, 0⟩]⟩,
  ⟨"SG_STATE", 0xF00018000030, [], [⟨0, 32, .ro, 0⟩, ⟨32, 8, .ro, 0⟩, ⟨40, 1, .ro, 0⟩]⟩,
  ⟨"SG_CTRL", 0xF00018000038, [], [⟨0, 1, .wo, 0⟩, ⟨1, 1, .wo, 0⟩]⟩]

/-- The rows of the register tables whose names begin IK_. -/
def ikRegs : List RegDef := [
  ⟨"IK_LIMIT", 0xF00019000000, [], [⟨0, 16, .rwl, 0x4000⟩, ⟨16, 16, .rwl, 0x2200⟩, ⟨32, 16, .rwl, 0x1000⟩, ⟨48, 16, .rwl, 0x1000⟩]⟩,
  ⟨"IK_LIMIT2", 0xF00019000008, [], [⟨0, 16, .rwl, 0x2000⟩]⟩,
  ⟨"IK_BUDGET_CFG", 0xF00019000010, [], [⟨0, 8, .rwl, 0x10⟩, ⟨8, 8, .rwl, 0x10⟩, ⟨16, 4, .rwl, 4⟩]⟩,
  ⟨"IK_AVG", 0xF00019000100, [(4, 0x18), (3, 0x8)], [⟨0, 32, .ro, 0⟩, ⟨32, 32, .ro, 0⟩]⟩,
  ⟨"IK_CNT", 0xF00019000200, [(4, 0x8)], [⟨0, 16, .ro, 0⟩, ⟨16, 16, .ro, 0⟩, ⟨32, 16, .ro, 0⟩, ⟨48, 16, .ro, 0⟩]⟩,
  ⟨"IK_UNITS", 0xF00019000300, [], [⟨0, 16, .ro, 0⟩, ⟨16, 32, .ro, 0⟩, ⟨48, 8, .ro, 0⟩]⟩]

/-- The rows of the register tables whose names begin LH_. -/
def lhRegs : List RegDef := [
  ⟨"LH_RISK", 0xF0001A030000, [], [⟨0, 10, .ro, 0⟩, ⟨10, 8, .ro, 0⟩, ⟨18, 8, .ro, 0⟩, ⟨26, 8, .ro, 0⟩, ⟨34, 8, .ro, 0⟩, ⟨42, 8, .ro, 0⟩]⟩,
  ⟨"LH_RISK_W", 0xF0001A030008, [], [⟨0, 8, .rwl, 0x40⟩, ⟨8, 8, .rwl, 0x40⟩, ⟨16, 8, .rwl, 0x40⟩, ⟨24, 8, .rwl, 0x40⟩, ⟨32, 8, .rwl, 0x40⟩]⟩,
  ⟨"LH_GROUP", 0xF0001A030010, [], [⟨0, 16, .rwl, 0⟩, ⟨16, 16, .rwl, 0⟩]⟩,
  ⟨"LH_SERIAL", 0xF0001A000000, [(2, 0x8)], [⟨0, 64, .ro, 0⟩]⟩,
  ⟨"LH_DIEID", 0xF0001A000010, [(6, 0x8)], [⟨0, 32, .ro, 0⟩, ⟨32, 5, .ro, 0⟩, ⟨37, 8, .ro, 0⟩, ⟨45, 8, .ro, 0⟩, ⟨53, 4, .ro, 0⟩]⟩,
  ⟨"LH_LIFE", 0xF0001A000100, [], [⟨0, 2, .ro, 1⟩, ⟨2, 1, .ro, 0⟩]⟩,
  ⟨"LH_LIFE_CMD", 0xF0001A000108, [], [⟨0, 2, .wo, 0⟩, ⟨32, 32, .wo, 0⟩]⟩,
  ⟨"LH_ATT_NONCE", 0xF0001A010000, [(4, 0x8)], [⟨0, 64, .rw, 0⟩]⟩,
  ⟨"LH_ATT_ARG", 0xF0001A010020, [], [⟨12, 40, .rw, 0⟩]⟩,
  ⟨"LH_ATT_CMD", 0xF0001A010028, [], [⟨0, 2, .wo, 0⟩]⟩,
  ⟨"LH_ATT_STATUS", 0xF0001A010030, [], [⟨0, 16, .ro, 0⟩, ⟨16, 1, .ro, 0⟩]⟩,
  ⟨"LH_LMS", 0xF0001A010038, [], [⟨0, 40, .ro, 0⟩, ⟨40, 1, .ro, 0⟩]⟩,
  ⟨"LH_MINSVN", 0xF0001A010040, [(5, 0x8)], [⟨0, 32, .ro, 0⟩]⟩,
  ⟨"LH_SVN_CMD", 0xF0001A010070, [], [⟨0, 3, .wo, 0⟩]⟩,
  ⟨"LH_UPD_ARG", 0xF0001A020000, [], [⟨0, 52, .rw, 0⟩]⟩,
  ⟨"LH_UPD_LEN", 0xF0001A020008, [], [⟨0, 32, .rw, 0⟩]⟩,
  ⟨"LH_UPD_CMD", 0xF0001A020010, [], [⟨0, 2, .wo, 0⟩, ⟨2, 2, .wo, 0⟩]⟩,
  ⟨"LH_UPD_STATUS", 0xF0001A020018, [], [⟨0, 16, .ro, 0⟩, ⟨16, 1, .ro, 0⟩]⟩,
  ⟨"LH_SLOT", 0xF0001A020020, [(3, 0x8)], [⟨0, 1, .ro, 0⟩, ⟨1, 3, .ro, 0⟩, ⟨32, 32, .ro, 0⟩]⟩,
  ⟨"LH_TEMP", 0xF0001A040000, [(412, 0x8)], [⟨0, 16, .ro, 0⟩, ⟨16, 16, .ro, 0⟩]⟩,
  ⟨"LH_VI", 0xF0001A041000, [(164, 0x8)], [⟨0, 16, .ro, 0⟩, ⟨16, 20, .ro, 0⟩]⟩,
  ⟨"LH_ALERT", 0xF0001A042000, [], [⟨0, 1, .w1c, 0⟩, ⟨1, 1, .w1c, 0⟩, ⟨2, 1, .w1c, 0⟩, ⟨3, 1, .w1c, 0⟩, ⟨4, 1, .w1c, 0⟩, ⟨5, 1, .w1c, 0⟩]⟩,
  ⟨"LH_LOG_HEAD", 0xF0001A050000, [], [⟨0, 40, .ro, 0⟩]⟩,
  ⟨"LH_LOG_ARG", 0xF0001A050008, [], [⟨6, 46, .rw, 0⟩]⟩,
  ⟨"LH_LOG_CMD", 0xF0001A050010, [], [⟨0, 40, .wo, 0⟩, ⟨40, 17, .wo, 0⟩]⟩,
  ⟨"LH_LOG_STATUS", 0xF0001A050018, [], [⟨0, 16, .ro, 0⟩, ⟨16, 1, .ro, 0⟩, ⟨17, 17, .ro, 0⟩]⟩,
  ⟨"LH_LOG_LOST", 0xF0001A050020, [], [⟨0, 32, .ro, 0⟩]⟩,
  ⟨"LH_EOL", 0xF0001A060000, [], [⟨0, 24, .ro, 0⟩, ⟨24, 24, .ro, 0⟩]⟩,
  ⟨"LH_LASER", 0xF0001A060008, [(4, 0x8)], [⟨0, 10, .ro, 0⟩, ⟨10, 24, .ro, 0⟩, ⟨34, 24, .ro, 0⟩]⟩,
  ⟨"LH_FRONT_STATE", 0xF0001A070000, [], [⟨0, 8, .ro, 0⟩, ⟨8, 4, .ro, 0⟩, ⟨12, 1, .ro, 0⟩, ⟨13, 3, .ro, 0⟩, ⟨16, 2, .ro, 0⟩, ⟨18, 1, .ro, 0⟩, ⟨19, 4, .ro, 0⟩, ⟨23, 16, .ro, 0⟩, ⟨39, 1, .ro, 0⟩]⟩,
  ⟨"LH_FRONT_CMD", 0xF0001A070008, [], [⟨0, 2, .wo, 0⟩, ⟨2, 2, .wo, 0⟩]⟩,
  ⟨"LH_FRONT_CFG", 0xF0001A070010, [], [⟨0, 16, .rwl, 0x12C⟩, ⟨16, 16, .rwl, 0x258⟩]⟩]

/-- The rows of the register tables whose names begin PW_. -/
def pwRegs : List RegDef := [
  ⟨"PW_MODE", 0xF0001B000000, [], [⟨0, 2, .ro, 1⟩, ⟨2, 2, .ro, 1⟩, ⟨4, 2, .wo, 0⟩, ⟨6, 1, .wo, 0⟩, ⟨7, 1, .ro, 0⟩, ⟨8, 16, .ro, 0⟩]⟩,
  ⟨"PW_CFG", 0xF0001B000008, [], [⟨0, 16, .rwl, 0⟩, ⟨16, 1, .rwl, 1⟩, ⟨17, 16, .rwl, 0x2710⟩]⟩,
  ⟨"PW_INPUT", 0xF0001B000010, [], [⟨0, 16, .ro, 0⟩, ⟨16, 16, .ro, 0⟩, ⟨32, 16, .ro, 0⟩]⟩,
  ⟨"PW_CAP", 0xF0001B000018, [], [⟨0, 16, .ro, 0xB86⟩, ⟨16, 4, .ro, 0⟩, ⟨20, 1, .ro, 0⟩, ⟨32, 32, .ro, 0⟩]⟩,
  ⟨"PW_TRIP", 0xF0001B000020, [], [⟨0, 9, .ro, 0⟩, ⟨9, 1, .ro, 0⟩]⟩,
  ⟨"PW_CLK", 0xF0001B000100, [(4, 0x8)], [⟨0, 12, .ro, 0⟩, ⟨12, 2, .ro, 0⟩, ⟨14, 8, .ro, 0⟩, ⟨22, 1, .ro, 0⟩]⟩,
  ⟨"PW_DOM", 0xF0001B001000, [(164, 0x8)], [⟨0, 2, .ro, 0⟩, ⟨2, 16, .ro, 0⟩]⟩]

/-- The rows that can hold address `a`, chosen by the block windows of R13 and R14. -/
def rowsNear (a : Nat) : List RegDef :=
  let o := a - 0xF00000000000
  if o < 0x10000000 then rfRegs
  else if o < 0x11000000 then
    (if o < 0x10100000 then hbJobRegs else if o < 0x10120000 then hbXlRegs
     else if o < 0x10160000 then hbHubRegs else hbTmRegs)
  else if o < 0x12000000 then bwRegs
  else if o < 0x13000000 then hlRegs
  else if o < 0x14000000 then lwRegs
  else if o < 0x15000000 then swRegs
  else if o < 0x16000000 then tdRegs
  else if o < 0x17000000 then skRegs
  else if o < 0x18000000 then sfRegs
  else if o < 0x19000000 then sgRegs
  else if o < 0x1A000000 then ikRegs
  else if o < 0x1B000000 then lhRegs
  else if o < 0x20000000 then pwRegs
  else hbJobRegs

/-- Whether offset `o` from a row's base is a multiple combination of the row's strides within their counts. -/
def dimsHit : List (Nat × Nat) → Nat → Bool
  | [], o => o == 0
  | (c, s) :: ds, o => decide (o / s < c) && dimsHit ds (o % s)

/-- The row of the register tables that the 8-byte aligned address `a` names; none for an unassigned address. -/
def rowAt (a : Nat) : Option RegDef :=
  (rowsNear a).find? (fun r => decide (r.base ≤ a) && dimsHit r.dims (a - r.base))

/-- The register's value at reset, by its table. Every bit the table does not list reads 0 (R9). -/
def resetOf (a : Nat) : Nat :=
  match rowAt a with
  | some r => r.fields.foldl (fun v f => v + f.reset * 2 ^ f.lo) 0
  | none => 0

end Sys2Proof.Reg
end

