-- ==== Sys2Proof/Machine/State.lean ====
section
/-!
DEFINITION. The state of the module as plain data: every register in one map keyed by its address (R6), and beside it
whatever the manual gives the machine that is not a register: memory, pools, far caches, jobs and commands, the directory,
fault records, links, logs. Sparse maps are lists of (key, value) with keys strictly rising and no entry equal to the default.
-/

namespace Sys2Proof.Machine

/-- A sparse map: keys strictly rising, no entry equal to the map's default. -/
abbrev SMap (α : Type) := List (Nat × α)

/-! Memory tiers (files 06 and 07) -/

/-- A counted correction event (R157). `loc` is device × 4096 + group × 64 + pin. -/
structure SymEvent where
  loc : Nat
  addr : Nat
  time : Nat
  deriving DecidableEq, Repr

/-- A far-cache line (R151): die, job, 256-byte line number, its bytes, and the codewords of it filled poisoned. -/
structure FarLine where
  die : Nat
  job : Nat
  line : Nat
  data : List Byte
  poison : List Bool
  deriving DecidableEq, Repr

/-- Memory, keys, pools and caches. -/
structure MemSt where
  /-- Bytes of Stack, Shelf and host memory by module physical address; an unlisted byte reads 0. -/
  bytes : SMap Byte
  /-- Key identity each 16-byte cipher block was written under; 0 is plaintext (R160). -/
  ktag : SMap Nat
  /-- 32-byte codewords whose poison differs from their stack's default (R156). -/
  poison : SMap Bool
  /-- Stacks whose every codeword is poisoned unless listed (R238). -/
  stackPoison : SMap Bool
  /-- Key identity each selector's slot holds; identity 1 is a zeroised slot (R163). -/
  keys : SMap Nat
  /-- Identity the next generated key takes. -/
  keyNext : Nat
  /-- Key command in progress: generate or erase, selector (R163). -/
  keyCmd : Option (Bool × Nat)
  /-- Last 256 events of each controller, newest first (R157). -/
  events : List SymEvent
  /-- Lines of the four far caches, most recently used first (R151). -/
  far : List FarLine
  /-- Core pools: key core × 4 MiB + offset (R56). -/
  corePool : SMap Byte
  /-- Cluster pools: key cluster × 16 MiB + offset. -/
  clusterPool : SMap Byte
  deriving DecidableEq, Repr

/-! The directory (R197 to R204) -/

/-- A directory entry; absence is state I. -/
inductive DirEnt where
  /-- Shared by the set, with its forwarder. -/
  | s (v : BitVec 64) (f : Option Nat)
  /-- Owned by a position in E or M. -/
  | o (y : Nat)
  deriving DecidableEq, Repr

/-- Whose access it is: the command it belongs to, and the virtual address it was made at, for the command's record (R126). -/
structure AccRef where
  id : Nat
  va : Nat
  deriving DecidableEq, Repr

/-- A request the home accepts for a line. -/
inductive HomeReq where
  | rds (x : Nat)
  | rdo (x : Nat)
  | upg (x : Nat)
  /-- A read by an internal agent of Harbour that keeps no copy (R205). -/
  | fetch (x : Nat)
  /-- A non-caching write of bytes at an address under a key identity; the command it belongs to, if an engine's. -/
  | ncw (who : Option Nat) (pa key : Nat) (w : WriteOp) (cmd : Option AccRef)
  /-- FLUSH of the line for a command, or an eviction of the entry (R198, R200). -/
  | inval (cmd : Option AccRef)
  /-- A write of the poison pattern over the line (R194). -/
  | poison (cmd : Option AccRef)
  /-- A line that leaves the L2 of a cluster for the last-level cache (R249). -/
  | move (x : Nat)
  deriving DecidableEq, Repr

/-- The transaction that blocks a line (R202). -/
structure HomeTxn where
  req : HomeReq
  /-- Positions whose snoop answer is awaited. -/
  waits : List Nat
  /-- Data that a snooped agent supplied, and whether it held it Modified. -/
  sup : Option (List Byte × Bool)
  /-- Whether the request completes with poisoned data. -/
  poison : Bool
  /-- The request has completed and its acknowledgement is awaited. -/
  done : Bool
  /-- The requests that wait, in arrival order. -/
  queue : List HomeReq
  deriving DecidableEq, Repr

structure DirSt where
  ents : SMap (Option DirEnt)
  txns : SMap (Option HomeTxn)
  /-- Lines of entries in use, most recently used first (R198). -/
  lru : List Nat
  /-- Write-backs to drop when they arrive: line, position (R200). -/
  dropWb : List (Nat × Nat)
  /-- 4 KiB regions marked in the presence filters (R207). -/
  presence : SMap Bool
  /-- Commands of Harbour's own agents that wait for a line which another agent owns (R205), in order. -/
  again : List Instr
  deriving DecidableEq, Repr

/-! Jobs, rings and commands (file 05) -/

/-- Non-finite counts and header bit of one step (R43, R47). -/
structure StepNf where
  grad : Nat
  loss : Nat
  hdr : Bool
  deriving DecidableEq, Repr

/-- A live job context (R106). -/
structure Job where
  /-- The 16 words of its descriptor. -/
  desc : List Word
  /-- Current step (R134). -/
  step : Nat
  /-- Header bit recorded for the current step (R44). -/
  hdrNf : Bool
  /-- Counts and header bit of step s + 1. -/
  nextNf : StepNf
  /-- Whether this module has sent its LAST header of the current step (R45). -/
  lastSent : Bool
  /-- STEPENDs fetched: ring, step, fetch number (R116). -/
  stepEnds : List (Nat × Nat × Nat)
  /-- Completion records and event records written since CREATE (R126). -/
  cqSeq : Nat
  eqSeq : Nat
  /-- Completion records waiting for ring space, oldest first (R130). -/
  overflow : List (List Word)
  /-- CQ_FULL written since the head last moved. -/
  cqFullSent : Bool
  /-- Event records dropped since the last EVENTS_LOST (R131). -/
  eventsLost : Nat
  /-- Completion records gathered toward an interrupt batch (R125). -/
  batch : Nat
  /-- Failed under 0x0503 (R143). -/
  failed : Bool
  /-- DESTROY in progress (R110). -/
  dying : Bool
  /-- Module actions that hold it at its boundary (R134): 0 a mode change, 1 a Tidemark, 2 + d a reload of die d. An exclusive
  job listed has reached its boundary and is not held. -/
  held : List Nat
  /-- A command of the current step has been dispatched, and one of the next step (R22): until the first, the job stands at
  a step boundary. -/
  begun : Bool
  begunNext : Bool
  /-- A command has been fetched since CREATE (R384). -/
  fetched : Bool
  deriving DecidableEq, Repr

/-- Where a command stands (R140). -/
inductive Phase where
  | pending | queued | running | switched
  /-- Its outcome is settled, and its signal and record wait for those of an earlier command of its ring and engine (R128). -/
  | ended
  deriving DecidableEq, Repr

/-- A fault a running command has met (R137, R187). -/
structure CmdFault where
  va : Nat
  acc : Access
  /-- A migration, not a service, resolves it. -/
  mig : Bool
  deriving DecidableEq, Repr

/-- A write that a command is to make: its source code (R54), address and bytes. -/
structure WItem where
  src : Nat
  addr : Nat
  data : List Byte
  deriving DecidableEq, Repr

/-- A fetched command. -/
structure Cmd where
  /-- Fetch number, unique. -/
  id : Nat
  job : Nat
  ring : Nat
  /-- Ring index of its header slot. -/
  slot : Nat
  /-- 0 to 191 the core (die × 48 + core); 192 Harbour's sequencer. -/
  tgt : Nat
  /-- ENGINE code of its header. -/
  eng : Nat
  hdr : List Word
  body : List Word
  phase : Phase
  /-- Dispatch number, from 1; queue order (R104). -/
  qn : Nat
  /-- Units of work done: passes, chunks, instructions, elements. -/
  prog : Nat
  /-- Repeat index of a program. -/
  rep : Nat
  /-- Rows done of the current gather or scatter instruction (R99). -/
  row : Nat
  /-- Counted non-finite elements (R42). -/
  nf : Nat
  /-- Status once its work has ended; it completes when its writes are home. -/
  status : Option Nat
  /-- Faulting address for its record. -/
  va : Nat
  /-- AUX of its record, once it has ended. -/
  aux : Nat
  skipped : Bool
  /-- Number of its task: the FENCEs of its job for its core fetched before it (R143). -/
  task : Nat
  fault : Option CmdFault
  /-- Its program's registers stand in the switch-out area (R137). -/
  stored : Bool
  /-- Vector registers written by a running program: byte index in the file → byte (R80, R81). -/
  vregs : SMap Byte
  /-- Results saved on a write fault: stream, element, bits (R99), and reduction accumulators. -/
  saved : List (Nat × Nat × Nat)
  /-- Run state of the command, by slot number; a data mover command's transactions by number: 1 read, 2 complete (R123). -/
  run : SMap Nat
  /-- Writes of the data mover's transactions that have been read and are not yet complete (R123). -/
  held : SMap (List WItem)
  deriving DecidableEq, Repr

/-- An accumulator slot of a cell of the array (R52): the output it owns, its cell (row × 32 + column) and slot number, its working and
shadow registers in the accumulator format, and its group register with an exact partial group sum. -/
structure MxSlot where
  r : Nat
  n : Nat
  cell : Nat
  slot : Nat
  working : Num
  shadow : Num
  group : Num
  deriving DecidableEq, Repr

/-- The array of a core once a pass has ended (R63): the command and the pass whose results stand in the shadow registers of the unmasked
slots, which drain while the next pass computes. -/
structure MxArray where
  cmd : Nat
  pass : Nat
  slots : List MxSlot
  deriving DecidableEq, Repr

/-- The vector buffer of a matrix-vector unit (R72): the command whose A it holds, and A's rows. -/
structure MxVec where
  cmd : Nat
  rows : List (List Num)
  deriving DecidableEq, Repr

/-- Round-robin state of one engine queue (R132): the dispatches so far, and by class the job in turn and how often it has been
chosen in its turn. -/
structure Rr where
  count : Nat
  turns : SMap (Option (Nat × Nat))
  deriving DecidableEq, Repr

/-- A running entry of a prefetch schedule (R172, R173): a number of its own in the order of fetch numbers, its job, pass
and index, its 8 words, the bytes a COPY has moved, and its status once it has ended. -/
structure PfEnt where
  id : Nat
  job : Nat
  pass : Nat
  entry : Nat
  words : List Word
  prog : Nat
  status : Option Nat
  deriving DecidableEq, Repr

structure JobSt where
  jobs : SMap (Option Job)
  cmds : List Cmd
  nextId : Nat
  nextQn : Nat
  /-- Key target × 8 + engine. -/
  rr : SMap (Option Rr)
  /-- Jobs switched out on a target: job, target (R137). -/
  switched : List (Nat × Nat)
  /-- Tasks that fail up to their next FENCE, which has yet to be fetched: job, target, number, status (R143). -/
  failTask : List (Nat × Nat × Nat × Nat)
  /-- Number of the task being fetched, by job × 256 + target. -/
  tasks : SMap Nat
  /-- Rings whose fetch is held for a fetch-buffer place: job, ring (R460). -/
  held : List (Nat × Nat)
  /-- Accesses, in Harbour, of commands that wait for home transactions: command id, count. -/
  outst : SMap Nat
  /-- Fold plans of each matrix engine, most recent first: core, key (R63). -/
  plans : List (Nat × List Nat)
  /-- PLAN_FLUSH pending on a core (R78). -/
  planFlush : List Nat
  /-- The array of each core's matrix engine, and the vector buffer of its matrix-vector unit (R52, R63, R72). -/
  arrays : SMap (Option MxArray)
  vecs : SMap (Option MxVec)
  /-- Job whose DESTROY runs. -/
  destroying : Option Nat
  /-- Running schedule entries, in the order they started. -/
  pf : List PfEnt
  /-- Status of failed accesses that belong to no command in the engine queues, by the number they carry. -/
  agentFail : SMap Nat
  deriving DecidableEq, Repr

/-! Translation (file 07) -/

/-- A cached translation (R185). Place 0 to 191 a core, 192 to 195 a die, 196 Harbour's walker. -/
structure TlbEnt where
  place : Nat
  asid : Nat
  level : Nat
  /-- Index of the region the entry maps, at its level. -/
  vpn : Nat
  ent : Word
  deriving DecidableEq, Repr

/-- A migration (R193): its leaf's address and value, its frame once taken, whether its POOL_EMPTY record is written, and, once it writes,
the number its accesses carry and whether the leaf's write is one of them. -/
structure Mig where
  leaf : Nat
  ent : Word
  frame : Option Nat
  asked : Bool
  run : Option (Nat × Bool)
  deriving DecidableEq, Repr

/-- What opened a fault record. -/
inductive FKind where
  | service
  | migrate (g : Mig)
  /-- An eviction, with its leaf's address and value. -/
  | evict (leaf : Nat) (ent : Word)
  deriving DecidableEq, Repr

/-- A waiter of a record: who, job, address, access. -/
structure FWait where
  who : Waiter
  job : Nat
  va : Nat
  acc : Access
  deriving DecidableEq, Repr

/-- An open record of the fault table (R187). -/
structure FRec where
  num : Nat
  asid : Nat
  /-- VA[56:21]. -/
  region : Nat
  kind : FKind
  waiters : List FWait
  deriving DecidableEq, Repr

/-- An invalidation in progress (R186): the frames whose far-cache lines it then discards, and the older accesses, made through the
entries it removed, that have yet to complete. -/
structure TlbiRun where
  frames : List (Nat × Nat)
  refs : List AccRef
  deriving DecidableEq, Repr

/-- An eviction in progress (R196): ASID, region's address, host address and MIGRATE of the new leaf; its record, and the number its
accesses carry; 0 its leaf is to be found, 1 the leaf's invalid form goes home, 2 the region is recalled and copied, 3 the new leaf goes
home, 4 the leaf of a failed one does. -/
structure EvictRun where
  asid : Nat
  va : Nat
  host : Nat
  migrate : Bool
  num : Nat
  acc : Nat
  stage : Nat
  deriving DecidableEq, Repr

structure XlSt where
  /-- Cached translations, each place's most recently used first. -/
  tlb : List TlbEnt
  recs : List FRec
  /-- Fault-ring records written since reset (R190). -/
  frSeq : Nat
  /-- Fault-ring records not yet written: words without PHASE and SEQ (R190). -/
  frWait : List (List Word)
  /-- Faults to retry because no record or link was free (R188). -/
  retry : List FWait
  /-- Waiters Harbour has answered: a Harbour agent's access passed or ended with a status. -/
  answered : List (FWait × Option Nat)
  /-- Invalidation in progress: none when idle. -/
  tlbi : Option TlbiRun
  evict : Option EvictRun
  /-- Migrations running, as record numbers, at most four (R193). -/
  migs : List Nat
  deriving DecidableEq, Repr

/-! The landward link (file 10) -/

/-- A landward write on its way to its home (R270, R278): port, epoch tag, address, effect, the command it belongs to, and
the vector where it is an MSI-X message (R274). For a write held by a change of route (R269), `port` is the MODE it was
issued under. -/
structure LwWrite where
  port : Nat
  epoch : Nat
  pa : Nat
  w : WriteOp
  cmd : Option AccRef
  msix : Option Nat
  deriving DecidableEq, Repr

/-- A fence read in progress (R272): the ports whose fence line it is still to read, each with the writes before it that have not yet
reached their home; the ports whose fence line is being read, or has been; and the ports lost meanwhile. -/
structure FenceRd where
  left : List (Nat × Nat)
  issued : List Nat
  lost : List Nat
  deriving DecidableEq, Repr

/-- A partner request as it reached Breakwater, and when. -/
structure BwReq where
  acc : Access
  pa : Nat
  len : Nat
  w : WriteOp
  /-- The request to own, share or upgrade a line that it carries, if it is one of R200's rather than an access. -/
  line : Option HomeReq
  /-- The request is a write-back of a line the partner holds (R200, R227). -/
  wb : Bool
  since : Nat
  deriving DecidableEq, Repr

/-- An access to the host range that waits for its port to leave Recovery, for a change of route, or for an earlier write to the same
address to reach its home (R269, R275): a coherent agent's request, or an engine's read by core, job, address and key. -/
inductive LwWait where
  | line (line : Nat) (r : HomeReq)
  | engine (core job pa key : Nat)
  deriving DecidableEq, Repr

structure LwSt where
  /-- The ports have been released from Detect (R267, R389). -/
  released : Bool
  /-- Landward writes not yet at their home, oldest first. -/
  writes : List LwWrite
  /-- Writes held for a change of route, oldest first (R269). -/
  heldWrites : List LwWrite
  /-- Accesses that wait, oldest first. -/
  waits : List LwWait
  /-- Commands and prefetch entries one of whose accesses waits for a port in Recovery: the port, and the number (R275, R277). -/
  stalled : List (Nat × Nat)
  /-- Whether a port's PHY uses its own REFCLK, and so supports common-clock operation beside separate-reference operation; otherwise
  it runs from the board oscillator and supports the latter only (R445). -/
  refclk : SMap Bool
  /-- MODE in force for issued accesses, and whether a change waits for those issued under it. -/
  mode : Nat
  hold : Bool
  /-- Local counter at each port's last loss; none before any. -/
  lossAt : SMap (Option Nat)
  /-- Fence reads in progress, oldest first. -/
  fence : List FenceRd
  /-- Unmasked and pending MSI-X vectors, by port × 256 + vector, and masked functions (R274): every vector is masked at reset. -/
  msixOpen : SMap Bool
  msixPend : SMap Bool
  fnMask : SMap Bool
  deriving DecidableEq, Repr

/-! Headland (file 09) -/

/-- Privilege modes of a hart, those of the hypervisor extension among them (R244). -/
inductive Priv where
  | machine | supervisor | user | virtualSupervisor | virtualUser
  deriving DecidableEq, Repr

structure HlSt where
  /-- Program counter of a hart, its integer and floating-point registers (hart × 32 + register), its control and status registers (hart ×
  4096 + number), and its privilege mode (R244, R261). -/
  pc : SMap Word
  xregs : SMap Word
  fregs : SMap Word
  csrs : SMap Word
  priv : SMap Priv
  /-- Bytes of the harts' vector registers: hart × 2048 + register × 64 + byte. -/
  vregs : SMap Byte
  /-- Line a hart's reservation covers (R257). -/
  resv : SMap (Option Nat)
  /-- Harts whose reserved line another agent's write has invalidated. -/
  broken : SMap Bool
  /-- Harts that wait in wrs.nto or wrs.sto. -/
  waiting : SMap Bool
  /-- Exception code and trap value of a hart's last access fault (R247). -/
  trap : SMap (Option (Nat × Nat))
  /-- Pending and enabled interrupt identities: (hart × 9 + file) × 2048 + identity, file 0 the supervisor's, 8 the machine's (R253). -/
  msi : SMap Bool
  enabled : SMap Bool
  /-- Whether a file delivers, and its threshold: hart × 9 + file. -/
  delivers : SMap Bool
  threshold : SMap Nat
  deriving DecidableEq, Repr

/-! Shingle (R164 to R171) -/

/-- A flash block: erase count, page reads since its last program, retired (R169). -/
structure FlashBlock where
  erases : Nat
  reads : Nat
  retired : Bool
  deriving DecidableEq, Repr

structure SgSt where
  /-- Bytes of user capacity by offset; an unwritten or trimmed unit reads 0 (R165). -/
  data : SMap Byte
  /-- Units that stay poisoned until rewritten (R165). -/
  bad : SMap Bool
  /-- Bytes of the Tidemark partition by offset (R164, R378). -/
  part : SMap Byte
  /-- The descriptor being run, as its words, and the units it has committed (R168). -/
  cur : Option (List Word × Nat)
  /-- SANITIZE in progress or waiting for the queue to empty (R171). -/
  sanitize : Bool
  /-- Generation of the media key (R164, R171). -/
  mediaKey : Nat
  blocks : SMap FlashBlock
  /-- Block of each unit written, plus one (R165, R168). -/
  map : SMap Nat
  /-- Blocks found bad beside those that retire in use (R164). -/
  spareBad : Nat
  /-- TAIL as a QRESET in progress found it, until HEAD has reached it (R179). -/
  resetTo : Option Nat
  /-- Pages of 16 KiB in the read buffer, the most recent first (R165). -/
  pages : List Nat
  /-- Bytes written since manufacture, for WEAR (R169). -/
  written : Nat
  /-- Completion records written since power-on (R167), and those that wait for ring space. -/
  seq : Nat
  held : List (List Word)
  deriving DecidableEq, Repr

/-! Limtos and Breakwater (file 08) -/

/-- One direction of a Limtos port (R219, R222). Its receiver: the sequence number it takes next, the failed copies of that flit, how
often it has failed in succession, and how many of the flits from `next` on were sent before. Its sender: the sequence number it gives
to its next new flit, and those of the flits of its replay buffer that no acknowledgement has released, oldest first. -/
structure LtRx where
  next : Nat
  copies : List (List FlitGroup)
  fails : Nat
  again : Nat
  send : Nat
  unacked : List Nat
  deriving DecidableEq, Repr

structure LtSt where
  /-- Receivers by port × 2 + direction, 1 toward Harbour. -/
  rx : SMap (Option LtRx)
  /-- Times of a wire's last events, newest first (R222), by ((port × 64 + group) × 2 + direction) × 35 + wire. -/
  wires : SMap (List Nat)
  /-- Wires to be switched onto their spare: port, group, direction, wire (R223). -/
  switch : List (Nat × Nat × Nat × Nat)
  /-- Ports that narrow, and the half chosen (R224). -/
  narrow : List (Nat × Nat)
  deriving DecidableEq, Repr

structure BwSt where
  /-- Requests that wait for the rate allowance, oldest first (R231). -/
  held : List BwReq
  /-- Times of violations in the last second, newest first (R230). -/
  viols : List Nat
  /-- Levels of the read, write and request buckets, and when they were last filled (R231): tenths of a byte, tenths of a
  byte, thousandths of a request. -/
  rd : Int
  wr : Int
  rq : Int
  filled : Nat
  /-- Windows whose old coverage is being recalled: first and last unit (R228). -/
  leaving : SMap (Option (Nat × Nat))
  deriving DecidableEq, Repr

/-! Intake (file 11) -/

/-- Where a sample stands: waiting for a unit, on a unit, decoded (a reserve sample ready for use), ready to be written to its
slot, its slot filled, its slot to be substituted, or a reserve sample that failed (R297 to R299). -/
inductive IkPhase where
  | waiting | decoding | decoded | ready | filled | wantSub | skipped
  deriving DecidableEq, Repr

/-- A sample of a running Intake command. -/
structure IkSample where
  /-- A reserve entry, decoded ahead (R299). -/
  rsv : Bool
  /-- Table entry, or reserve entry. -/
  idx : Nat
  st : IkPhase
  /-- Bit of IK_UNITS of the unit it is on. -/
  unit : Option Nat
  /-- Work-area bytes it holds, and those it waits for (R291). -/
  alloc : Nat
  need : Nat
  /-- The 4 words of its entry, its decoded bytes, and its picture size as its headers claim it. -/
  entry : List Word
  data : List Byte
  width : Nat
  height : Nat
  /-- Pictures decoded; whether a missing reference still conceals them, and those concealed (R292). -/
  pics : Nat
  hides : Bool
  hidden : List Nat
  /-- Status it failed with. -/
  reason : Nat
  /-- How its slot is filled: 0 its own data, 1 a substitute, 2 padding by substitution, 3 a failed LIVE sample, 4 padding with
  no sample. -/
  fill : Nat
  deriving DecidableEq, Repr

/-- A journal record to be: slot, reason, index evicted, reserve entry (none for padding), and RCURSOR after it (R300). -/
structure IkJournal where
  slot : Nat
  reason : Nat
  evicted : Nat
  rindex : Option Nat
  rcur : Nat
  deriving DecidableEq, Repr

/-- A running Intake command (R286 to R302). -/
structure IkCmd where
  id : Nat
  slots : List IkSample
  rsv : List IkSample
  /-- Words of the reserve table, and of the transform descriptor. -/
  resTab : List Word
  xform : List Word
  /-- RCURSOR as read and as it stands, and the next reserve entry to decode. -/
  rcur0 : Nat
  rcur : Nat
  rnext : Nat
  late : Nat
  dropped : Nat
  rejected : Nat
  concealed : Nat
  journal : List IkJournal
  /-- Substitutions that a replay takes from the journal: slot and reserve entry (R301); JRECS as read. -/
  replay : List (Nat × Option Nat)
  jrecs : Nat
  /-- 0 filling, 1 the outputs are written, 2 the journal and the state record are. -/
  stage : Nat
  deriving DecidableEq, Repr

structure IkSt where
  run : List IkCmd
  /-- Unit sharing by kind: 0 JPEG, 1 video, 2 DEFLATE (R297). -/
  rr : SMap (Option Rr)
  /-- Compressed bytes that a LIVE stream's picture buffer was decoded from, by job × 65536 + stream (R292). -/
  live : SMap (List Byte)
  /-- LIVE streams whose frames a missing reference conceals until their next random-access point. -/
  hides : SMap Bool
  deriving DecidableEq, Repr

/-! The seaward fabric and the Tide count (file 12) -/

/-- A remote write sent and not yet acknowledged (R319): its number, offset, data, signal, and the command it belongs to. A
message of a collective carries its two header words in `head` instead. -/
structure SwSend where
  num : Nat
  off : Nat
  data : List Byte
  sig : Option RwSignal
  head : List Word
  cmd : Option Nat
  /-- Lane-schedule tag it travels under, 0 for open traffic, and the first slot that may carry it (R352). -/
  tag : Nat
  slot : Nat
  deriving DecidableEq, Repr

/-- A message on its way out while slots are honoured (R334): the destination's rank, its tag, the first slot that may carry it, the
connection that orders it, what it says, and the flits still to be sent. -/
structure TxMsg where
  rank : Nat
  tag : Nat
  slot : Nat
  conn : Option Nat
  words : List Nat
  data : List Byte
  left : Nat
  deriving DecidableEq, Repr

/-- An open connection context (R317 to R319). -/
structure SwCtx where
  job : Nat
  peer : Nat
  peerCtx : Nat
  rkey : Nat
  base : Nat
  units : Nat
  rxNext : Nat
  txNext : Nat
  sends : List SwSend
  failed : Bool
  closing : Bool
  deriving DecidableEq, Repr

/-- A remote write received whose data is on its way home (R319): the number its accesses carry, its context, its message
number, and the signal it performs for the job. -/
structure SwRecv where
  id : Nat
  ctx : Nat
  num : Nat
  job : Nat
  sig : Option RwSignal
  deriving DecidableEq, Repr

/-- A flit that a port has sent (R310): its number, the message it belongs to, and its part of the message's data. -/
structure FabFlit where
  seq : Nat
  words : List Nat
  data : List Byte
  deriving DecidableEq, Repr

structure SwSt where
  /-- Times of a lane's last events, newest first (R311). -/
  hits : SMap (List Nat)
  /-- Darkened lanes that have received the far end's probe (R309). -/
  probed : SMap Bool
  /-- The flit number each port takes next (R310). -/
  next : SMap Nat
  /-- The number of the next flit each port sends, and the replay buffer: its last 2,048 flits, oldest first, but for those
  acknowledged (R310). -/
  sendSeq : SMap Nat
  replay : SMap (List FabFlit)
  /-- Ports that wait for an agreed flit boundary to re-stripe (R312). -/
  stripe : List Nat
  /-- Entries of the membership table as read, two words a rank; empty where none is in force (R314). -/
  table : List Word
  ctxs : SMap (Option SwCtx)
  recv : List SwRecv
  /-- Times of the PORT_DOWN notices of the last 10 minutes (R316, R371). -/
  notices : List Nat
  /-- Lane a RESTORE command retrains (R312). -/
  restoring : Option Nat
  /-- Ethernet frames received whose descriptor another agent's cache still holds: port, frame (R205, R337). -/
  ethHeld : List (Nat × EthFrame)
  /-- Messages not yet wholly sent, oldest first, and the flits each port has carried in the present slot (R334). -/
  queue : List TxMsg
  used : SMap Nat
  deriving DecidableEq, Repr

/-- The announcement last heard on a port (R326 to R330). -/
structure TdHeard where
  role : Nat
  ident : Nat
  gen : Nat
  hops : Nat
  slot : Nat
  guard : Nat
  time : Nat
  deriving DecidableEq, Repr

/-- A lane schedule (R333): its entries and the slot of entry 0. -/
structure TdSched where
  entries : List Word
  origin : Nat
  deriving DecidableEq, Repr

structure TdSt where
  heard : SMap (Option TdHeard)
  /-- Election keys heard, as role × 2^48 + identity, and when (R325). -/
  keys : List (Nat × Nat)
  /-- Sequence number of the last announcement taken, or sent while master (R326). -/
  seq : Nat
  /-- Femtoseconds still to be slewed away, and the part of a nanosecond the count has gathered (R321, R322). -/
  slew : Int
  frac : Int
  /-- Nanoseconds the count still stands (R323). -/
  still : Nat
  /-- Site time minus the local counter, as the last PTP sync gave it (R326, R339). -/
  site : Option Int
  /-- Schedule in force, and the copy that waits for its first slot (R333). -/
  sched : Option TdSched
  next : Option TdSched
  /-- The current slot, where one is honoured, and the ports' tags in it (R332, R334). -/
  slot : Option Nat
  tags : List Nat
  deriving DecidableEq, Repr

/-! Collectives (file 13) -/

/-- A running collective (R342 to R359): its command, group descriptor and number, the group's members, this position and
channels, the contexts toward the positions, the contribution, the buckets' modes, the parts that wait, the results by element,
and the messages still awaited. -/
structure ClRun where
  id : Nat
  job : Nat
  group : Nat
  cseq : Nat
  n : Nat
  self : Nat
  ch : Nat
  strides : List Nat
  ctxs : List Nat
  /-- The contribution, element by element in STYPE; under compression the decoded values of R353 in FP32. -/
  x : List Nat
  modes : List Nat
  /-- Parts that wait for others: key block × 4096 + position, or tree × 4096 + position. -/
  parts : SMap (List Nat)
  res : SMap Nat
  left : Nat
  /-- 0 data phases, 1 results written, 2 in the flag round. -/
  stage : Nat
  /-- Upward flag messages received: position, bit (R358). -/
  ups : List (Nat × Bool)
  /-- Slot in which its latest segment arrived: what follows from it leaves from the next slot on (R352). -/
  heard : Option Nat
  deriving DecidableEq, Repr

/-- A message that waits in a receive region for its collective (R357). -/
structure ClMsg where
  ctx : Nat
  w0 : Word
  w1 : Word
  data : List Byte
  deriving DecidableEq, Repr

structure ClSt where
  runs : List ClRun
  /-- Number the next collective takes, by job × 2^57 + group descriptor (R357). -/
  seq : SMap Nat
  /-- One past the number of the last collective that used a context. -/
  past : SMap Nat
  wait : List ClMsg
  /-- Upward flag messages that came before their round: job, position, bit. -/
  early : List (Nat × Nat × Bool)
  deriving DecidableEq, Repr

/-! Power (file 16) -/

/-- Where a request for a power mode stands (R431 to R433). -/
inductive ModePhase where
  | idle
  /-- Waiting for every job's step boundary, for the mode given. -/
  | waiting (req : Nat)
  /-- The clocks and voltages change to the mode given. -/
  | changing (req : Nat)
  /-- Slack entry waits for its three conditions. -/
  | entering
  /-- The module leaves Slack for the mode given. -/
  | leaving (req : Nat)
  deriving DecidableEq, Repr

/-! What leaves the module -/

/-- Something the module sends outward or answers, kept as a trace, newest first. -/
inductive Out where
  /-- A snoop to a position for a line; `inv` when it takes the line away. -/
  | snoop (y line : Nat) (inv : Bool)
  /-- The home grants a position a line in a state (0 S, 1 F, 2 E, 3 M) with its 64 bytes, or poisoned, or with no data. -/
  | grant (x line : Nat) (st : Nat) (data : Option (List Byte)) (poison : Bool)
  /-- Data answered to an agent or engine: who (directory position or 64 + core), address, bytes, poison. -/
  | data (who pa : Nat) (bytes : List Byte) (poison : Bool)
  /-- A register read value answered. -/
  | regData (v : Word)
  /-- An interrupt source raised to Headland and a hart it is routed to. -/
  | irq (src hart : Nat)
  /-- An MSI-X message through a landward port. -/
  | msix (port vector : Nat)
  /-- A message on the seaward fabric: port, contents. -/
  | fabric (port : Nat) (words : List Nat) (data : List Byte)
  /-- A message on a Limtos or UCIe link: port, contents. -/
  | link (port : Nat) (words : List Nat)
  /-- A landward request or answer: port, code words, bytes. -/
  | landward (port : Nat) (words : List Nat) (data : List Byte)
  /-- A sideband, SPDM or front-edge answer: code, contents. -/
  | sideband (code : Nat) (words : List Nat) (data : List Byte)
  /-- An Ethernet frame sent: port, bytes. -/
  | ether (port : Nat) (data : List Byte)
  deriving DecidableEq, Repr

/-- One entry of the event log (R413), its time and sequence number included. -/
structure LogEnt where
  seq : Nat
  time : Nat
  loc : Bool
  event : Nat
  status : Nat
  unit : Nat
  job : Nat
  addr : Nat
  data : List Nat
  deriving DecidableEq, Repr

structure PwSt where
  phase : ModePhase
  /-- Jobs that have yet to reach a step boundary before Slack is entered (R432). -/
  due : List Nat
  /-- Microseconds above the cap since the last step, below 97 % of it, above it at the last step, and with a step applied
  since the last counted millisecond (R434). -/
  above : Nat
  under : Nat
  atMax : Nat
  capped : Nat
  deriving DecidableEq, Repr

/-! Firmware (file 13) -/

/-- An admitted image on its way in (R366, R367). -/
structure FwOp where
  reload : Bool
  target : Nat
  untested : Bool
  ver : Nat
  svn : Nat
  ifmin : Nat
  ifmax : Nat
  /-- Its manifest, as kind and value. -/
  man : List (Nat × Nat)
  digest : List Byte
  deriving DecidableEq, Repr

structure FwSt where
  op : Option FwOp
  /-- Manifest of the running Harbour image (R364). -/
  man : List (Nat × Nat)
  /-- Times of a component's faults, newest first (R362). -/
  faults : SMap (List Nat)
  /-- Components that restart (R361). -/
  down : List Nat
  deriving DecidableEq, Repr

/-! Tidemarks (file 14) -/

/-- A segment of a plan (R372). -/
structure TmSeg where
  va : Nat
  len : Nat
  kind : Nat
  deriving DecidableEq, Repr

/-- An armed plan (R372): the group is kept as its size, this position and the ranks by position. -/
structure TmPlan where
  segs : List TmSeg
  copies : Nat
  sevent : Nat
  base : Nat
  stage : Nat
  stageLen : Nat
  cand : List Nat
  n : Nat
  self : Nat
  ranks : List Nat
  index : Nat
  deriving DecidableEq, Repr

/-- A copy placed: shard, holder's identity and feed group (R379). -/
structure TmHold where
  shard : Nat
  id : Nat
  feed : Nat
  deriving DecidableEq, Repr

/-- A Tidemark of this module, from capture on (R377 to R382): global step, job step, staging half, image length, whether a risk
trigger asked for it, the final flag of its step, copies placed, shards still to place, the next candidate for the first of
them, the rank an offer is out to, the completed header with the seal-time segments once captured, and the holders that have
acknowledged the seal. -/
structure TmMark where
  gstep : Nat
  step : Nat
  half : Nat
  len : Nat
  risk : Bool
  fin : Bool
  holds : List TmHold
  todo : List Nat
  next : Nat
  offer : Option Nat
  sealData : Option (List Byte)
  acks : List Nat
  deriving DecidableEq, Repr

/-- What a replay is compared with (R385): step field, sealed loss, sealed flag. -/
structure TmVerify where
  step : Nat
  loss : List Byte
  fin : Bool
  deriving DecidableEq, Repr

/-- Tidemark state of a job. -/
structure TmJob where
  plan : Option TmPlan
  /-- Pending target, whether a risk trigger set it, and the target this module has requested (R376). -/
  pending : Option Nat
  risky : Bool
  asked : Option Nat
  /-- The risk trigger has fired and not re-armed, and when a risk Tidemark was last taken (R375). -/
  fired : Bool
  riskAt : Option Nat
  /-- Sealed Tidemarks since CREATE (R381). -/
  sealedN : Nat
  cur : Option TmMark
  /-- The newest sealed one. -/
  last : Option TmMark
  verify : Option TmVerify
  /-- Feed groups that candidates have answered with, by rank. -/
  feeds : SMap Nat
  deriving DecidableEq, Repr

/-- A shard held (R380): for another module in the Tidemark area, or of this module in the Shingle partition. The offset counts
2 MiB units of the area, or bytes of the partition; `sealData` is the completed header and the seal-time segments. -/
structure TmCopy where
  source : Nat
  rtag : Word
  gstep : Nat
  shard : Nat
  off : Nat
  len : Nat
  sealData : Option (List Byte)
  deriving DecidableEq, Repr

/-- A sealed Tidemark in this module's own staging area (R383): tag, global step, staging half, completed header and seal-time
segments. -/
structure TmLocal where
  rtag : Word
  gstep : Nat
  half : Nat
  sealData : List Byte
  deriving DecidableEq, Repr

/-- A restore in progress (R384): job, source code, identity, global step, tag, replay step, shards awaited. -/
structure TmRestore where
  job : Nat
  src : Nat
  source : Nat
  gstep : Nat
  rtag : Word
  replay : Nat
  shards : Nat
  deriving DecidableEq, Repr

structure TmSt where
  jobs : SMap (Option TmJob)
  /-- Shards in the area, and in the Shingle partition. -/
  area : List TmCopy
  part : List TmCopy
  locals : List TmLocal
  restore : Option TmRestore
  deriving DecidableEq, Repr

/-! Lighthouse (file 15) -/

/-- A pair of update slots (R417): the two images, which one is ACTIVE (0 A, 1 B), and the other's state as LH_SLOT codes it:
0 EMPTY, 1 INACTIVE, 2 PENDING, 3 TRIAL, 4 FAILED. -/
structure SlotPair where
  a : List Byte
  b : List Byte
  active : Nat
  other : Nat
  deriving DecidableEq, Repr

/-- What survives the removal of 52 V beside Shingle (R392, R393, R441). -/
structure NvSt where
  /-- Lifecycle fuses: 0 MANUFACTURE, 1 PRODUCTION, 3 RETIRED. -/
  life : Nat
  /-- Fused register values (R410). -/
  fused : SMap Word
  /-- Unrevoked fused key slots of key set 1: hash of the ECDSA key and of the HSS key (R403). -/
  keys : List (List Byte × List Byte)
  /-- Owner record: the hashes of key set 2 (R403). -/
  owner : List Byte × List Byte
  /-- MIN_SVN by image kind (R420), RESERVED_TO (R405) and the write counter (R393). -/
  minSvn : SMap Nat
  reserved : Nat
  counter : Nat
  /-- Lower trees prepared so far (R406). -/
  trees : Nat
  /-- The region holds the wrapped media key (R393, R400). -/
  media : Bool
  /-- Slot pairs of Lighthouse firmware, configuration and Headland boot. -/
  fwSlots : SlotPair
  cfgSlots : SlotPair
  hlSlots : SlotPair
  /-- Factory partition: identity certificate, X.509 chain, bias and end-of-life bias of the four bays first fitted (R398, R411). -/
  cert : List Byte
  chain : List Byte
  lasers : List (Nat × Nat)
  /-- The log device, oldest first, and the next record number (R413). -/
  log : List LogEnt
  logSeq : Nat
  /-- Cause of the last shutdown (R446): a sensor, 512 + a domain, or 1023 the reference. -/
  cause : Nat
  deriving DecidableEq, Repr

/-- A measurement slot (R407). -/
structure Meas where
  kind : Nat
  loads : Nat
  svn : Nat
  ver : Nat
  digest : List Byte
  deriving DecidableEq, Repr

/-- A landward port's SPDM responder (R409): how far the algorithms are agreed (0 none, 1 version, 2 capabilities, 3 algorithms), and
its session, secured once FINISH has passed. -/
structure Spdm where
  stage : Nat
  session : Option Nat
  secured : Bool
  deriving DecidableEq, Repr

/-- Why the module does not serve, or that it does. -/
inductive Power where
  /-- It runs. -/
  | on
  /-- No 52 V. -/
  | off
  /-- RETIRED (R389, R399). -/
  | retired
  /-- ROM recovery (R391). -/
  | rom
  /-- Module shutdown (R440). -/
  | shutdown
  /-- Powered down for removal (R452). -/
  | removed
  deriving DecidableEq, Repr

structure LhSt where
  power : Power
  /-- POWER_ON has run since 52 V came. -/
  booted : Bool
  /-- The replay-protected region failed (R391); Shingle is locked (R391, R400, R428). -/
  regionBad : Bool
  locked : Bool
  /-- Format of the configuration image in force, 0 where none is. -/
  format : Nat
  /-- Measurement slots (R407). -/
  meas : SMap (Option Meas)
  /-- SVN of the running image of each kind (R420). -/
  runSvn : SMap Nat
  /-- A REPORT waits for its turn (R408). -/
  att : Bool
  /-- The index NEXT (R405), which LH_LMS shows in 40 bits. -/
  q : Nat
  /-- Image being written to a slot: target, bytes (R418). -/
  upd : Option (Nat × List Byte)
  /-- Log copy in progress: first record and count (R413). -/
  copy : Option (Nat × Nat)
  spdm : SMap (Option Spdm)
  /-- UCAL items in force: item, index, offset (R397). -/
  ucal : List (Nat × Nat × Int)
  /-- Bias and end-of-life bias of the bays as fitted (R449). -/
  bays : List (Nat × Nat)
  /-- Bytes staged over the sideband (R446). -/
  staged : List Byte
  /-- Dies, 4 Headland, whose trip still holds their domains off (R437). -/
  hot : List Nat
  /-- Thermal step that a Reef die's own sensors impose (R437, R438). -/
  dieStep : SMap Nat
  /-- Headland's thermal step: 1 runs it at 2.4 GHz, 2 at 1.6 GHz (R437). -/
  hlStep : Nat
  /-- Shingle writes wait for its temperature (R437). -/
  sgWait : Bool
  /-- The lever warning shows (R453). -/
  lever : Bool
  deriving DecidableEq, Repr

/-- The event log (R413). -/
structure LogSt where
  /-- Records in the buffer, oldest first. -/
  buf : List LogEnt
  /-- Records dropped since the last LOG_LOST. -/
  lost : Nat
  deriving DecidableEq, Repr

/-- The whole of the module but the queue of waiting commands. -/
structure Mach where
  /-- The module is off: no 52 V, or shut down. -/
  down : Bool
  /-- Lighthouse's local nanosecond counter (R256, R157). -/
  ns : Nat
  /-- The model's own counter for free values. -/
  free : Nat
  regs : SMap Word
  mem : MemSt
  dir : DirSt
  js : JobSt
  xl : XlSt
  lw : LwSt
  hl : HlSt
  sg : SgSt
  lt : LtSt
  bw : BwSt
  ik : IkSt
  sw : SwSt
  td : TdSt
  cl : ClSt
  pw : PwSt
  fw : FwSt
  tm : TmSt
  nv : NvSt
  lh : LhSt
  log : LogSt
  /-- Interrupt sources raised and not yet delivered, oldest first (R254). -/
  irq : List Nat
  out : List Out
  deriving DecidableEq, Repr

/-- The state: the module, and the commands waiting, first in first out. -/
structure State where
  m : Mach
  pending : List Instr
  deriving DecidableEq, Repr

/-! Reset -/

/-- A part that has left the factory with nothing written. DESIGN CHOICE: log entry 2. -/
def NvSt.reset : NvSt := {
  life := 1
  fused := []
  keys := []
  owner := ([], [])
  minSvn := []
  reserved := 0
  counter := 0
  trees := 0
  media := true
  fwSlots := ⟨[], [], 0, 0⟩
  cfgSlots := ⟨[], [], 0, 0⟩
  hlSlots := ⟨[], [], 0, 0⟩
  cert := []
  chain := []
  lasers := []
  log := []
  logSeq := 0
  cause := 0 }

def LhSt.reset : LhSt := {
  power := .on
  booted := false
  regionBad := false
  locked := false
  format := 0
  meas := []
  runSvn := []
  att := false
  q := 0
  upd := none
  copy := none
  spdm := []
  ucal := []
  bays := []
  staged := []
  hot := []
  dieStep := []
  hlStep := 0
  sgWait := false
  lever := false }

def MemSt.reset : MemSt := {
  bytes := []
  ktag := []
  poison := []
  stackPoison := []
  keys := []
  keyNext := 2
  keyCmd := none
  events := []
  far := []
  corePool := []
  clusterPool := [] }

def JobSt.reset : JobSt := {
  jobs := []
  cmds := []
  nextId := 0
  nextQn := 1
  rr := []
  switched := []
  failTask := []
  tasks := []
  held := []
  outst := []
  plans := []
  planFlush := []
  arrays := []
  vecs := []
  destroying := none
  pf := []
  agentFail := [] }

def XlSt.reset : XlSt := {
  tlb := []
  recs := []
  frSeq := 0
  frWait := []
  retry := []
  answered := []
  tlbi := none
  evict := none
  migs := [] }

def LwSt.reset : LwSt := {
  released := false
  writes := []
  heldWrites := []
  waits := []
  stalled := []
  refclk := []
  mode := 0
  hold := false
  lossAt := []
  fence := []
  msixOpen := []
  msixPend := []
  fnMask := [] }

def HlSt.reset : HlSt := {
  pc := []
  xregs := []
  fregs := []
  csrs := []
  priv := []
  vregs := []
  resv := []
  broken := []
  waiting := []
  trap := []
  msi := []
  enabled := []
  delivers := []
  threshold := [] }

def SgSt.reset : SgSt := {
  data := []
  bad := []
  part := []
  cur := none
  sanitize := false
  mediaKey := 0
  blocks := []
  map := []
  spareBad := 0
  resetTo := none
  pages := []
  written := 0
  seq := 0
  held := [] }

/-- Breakwater's buckets open full: 1 µs of the reset rates of R242. -/
def BwSt.reset : BwSt := {
  held := []
  viols := []
  rd := 2560000
  wr := 2560000
  rq := 1024000
  filled := 0
  leaving := [] }

def SwSt.reset : SwSt := {
  hits := []
  probed := []
  next := []
  sendSeq := []
  replay := []
  stripe := []
  table := []
  ctxs := []
  recv := []
  notices := []
  restoring := none
  ethHeld := []
  queue := []
  used := [] }

def TdSt.reset : TdSt := {
  heard := []
  keys := []
  seq := 0
  slew := 0
  frac := 0
  still := 0
  site := none
  sched := none
  next := none
  slot := none
  tags := [] }

/-- The registers of Breakwater whose tables give a reset value other than 0, which read 0 without the partner site (R232). -/
def absentBw : SMap Word := [(Reg.BW_CFG, 0), (Reg.BW_RATE, 0)]

/-- The module when 52 V has come in range and nothing has run: every register at the value its table gives. -/
def Mach.reset : Mach := {
  down := false
  ns := 0
  free := 0
  regs := absentBw
  mem := MemSt.reset
  dir := ⟨[], [], [], [], [], []⟩
  js := JobSt.reset
  xl := XlSt.reset
  lw := LwSt.reset
  hl := HlSt.reset
  sg := SgSt.reset
  lt := ⟨[], [], [], []⟩
  bw := BwSt.reset
  ik := ⟨[], [], [], []⟩
  sw := SwSt.reset
  td := TdSt.reset
  cl := ⟨[], [], [], [], []⟩
  pw := ⟨.idle, [], 0, 0, 0, 0⟩
  fw := ⟨none, [], [], []⟩
  tm := ⟨[], [], [], [], none⟩
  nv := NvSt.reset
  lh := LhSt.reset
  log := ⟨[], 0⟩
  irq := []
  out := [] }

/-- The module right after reset, with no command waiting. DESIGN CHOICE: log entry 2. -/
def State.reset : State := ⟨Mach.reset, []⟩

/-- No command of this block stops with a fault: the manual gives every row of the table an effect. -/
inductive Fault where
  /-- Raised by no one; safe, since nothing answers it. -/
  | none
  deriving DecidableEq, Repr

/-- Why a command has no meaning. -/
inductive Refusal where
  /-- Answered by `exec` for a command this model gives no meaning yet. Safe: nothing is said of such a command. -/
  | notModelled (mnemonic : String)
  deriving DecidableEq, Repr

end Sys2Proof.Machine
end

