-- ==== Sys2Proof/Machine/Ops.lean ====
section
/-!
DEFINITION. The shared operations: sparse maps, register fields, the event log, interrupts, outputs, the address map of
R17, and memory with its keys and poison (R154 to R162).
-/

namespace Sys2Proof.Machine

/-! Sparse maps -/

/-- The value at a key; `d` where the map lists none. -/
def sget {α : Type} (d : α) (k : Nat) : SMap α → α
  | [] => d
  | (k', v) :: t => if k < k' then d else if k = k' then v else sget d k t

/-- Drop the leading entries at or below a key. -/
def sdrop {α : Type} (k : Nat) : SMap α → SMap α
  | [] => []
  | (k', v) :: t => if k' ≤ k then sdrop k t else (k', v) :: t

/-- The map with a key set; setting the default removes the entry. -/
def sset {α : Type} [DecidableEq α] (d : α) (k : Nat) (v : α) : SMap α → SMap α
  | [] => if v = d then [] else [(k, v)]
  | (k', v') :: t =>
    if k < k' then (if v = d then (k', v') :: t else (k, v) :: (k', v') :: t)
    else if k = k' then (if v = d then sdrop k t else (k, v) :: sdrop k t)
    else (k', v') :: sset d k v t

/-- Remove every entry whose key the test accepts. -/
def serase {α : Type} (p : Nat → Bool) (m : SMap α) : SMap α := m.filter (fun e => !p e.1)

/-- The canonical form: keys strictly rising and no entry equal to the default. -/
def SMap.wf {α : Type} [DecidableEq α] (d : α) (m : SMap α) : Bool :=
  decide (m.Pairwise (fun a b => a.1 < b.1)) && m.all (fun e => decide (e.2 ≠ d))

/-- The canonical form of memory: of its bytes, of the key identities of its cipher blocks and of its poison. -/
def Memory.wf (m : MemSt) : Bool :=
  SMap.wf (0 : Byte) m.bytes && SMap.wf 0 m.ktag && SMap.wf false m.poison && SMap.wf false m.stackPoison &&
    SMap.wf (0 : Byte) m.corePool && SMap.wf (0 : Byte) m.clusterPool

/-! Registers -/

/-- A register's value: 64 bits, by address (R6). -/
def Mach.rget (m : Mach) (a : Nat) : Word := sget (BitVec.ofNat 64 (Reg.resetOf a)) a m.regs

/-- Set a register's whole value. -/
def Mach.rset (m : Mach) (a : Nat) (v : Word) : Mach :=
  { m with regs := sset (BitVec.ofNat 64 (Reg.resetOf a)) a v m.regs }

/-- The field of a word. -/
def Fld.of (f : Fld) (v : Word) : Nat := v.toNat / 2 ^ f.lo % 2 ^ f.w

/-- A word with a field replaced; the value wraps at the field's width. -/
def Fld.put (f : Fld) (v : Word) (x : Nat) : Word :=
  BitVec.ofNat 64 (v.toNat / 2 ^ (f.lo + f.w) * 2 ^ (f.lo + f.w) + x % 2 ^ f.w * 2 ^ f.lo + v.toNat % 2 ^ f.lo)

/-- A register field's value. -/
def Mach.fget (m : Mach) (f : Fld) : Nat := Fld.of f (m.rget f.reg)

/-- Whether a one-bit field is set. -/
def Mach.flag (m : Mach) (f : Fld) : Bool := m.fget f != 0

/-- Set a register field. -/
def Mach.fset (m : Mach) (f : Fld) (x : Nat) : Mach := m.rset f.reg (Fld.put f (m.rget f.reg) x)

/-- Add to a field, saturating at its greatest value. -/
def Mach.fadd (m : Mach) (f : Fld) (n : Nat) : Mach := m.fset f (min (m.fget f + n) (2 ^ f.w - 1))

/-- A register back to its reset value. -/
def Mach.rclear (m : Mach) (a : Nat) : Mach := m.rset a (BitVec.ofNat 64 (Reg.resetOf a))

/-- Bits of a descriptor word. -/
def bits (v : Word) (lo w : Nat) : Nat := v.toNat / 2 ^ lo % 2 ^ w

/-- Word `i` of a list of words; zero past its end. -/
def wd (ws : List Word) (i : Nat) : Word := ws.getD i 0

/-- Whether any bit of a word outside the listed (lowest bit, width) fields is set (R9). -/
def reservedSet (v : Word) (fs : List (Nat × Nat)) : Bool :=
  fs.foldl (fun a f => a - a / 2 ^ f.1 % 2 ^ f.2 * 2 ^ f.1) v.toNat != 0

/-! Event log, interrupts, outputs -/

/-- Whether the Tide count is unset: TD_STATE.STATE reads 000 (R323). -/
def Mach.tideUnset (m : Mach) : Bool := m.fget Reg.TD_STATE_STATE == 0

/-- The time of R157 and R413: the Tide count, or the local counter before it is established. DESIGN CHOICE: log entry 5. -/
def Mach.now (m : Mach) : Nat := if m.tideUnset then m.ns else (m.rget Reg.TD_NOW).toNat

/-- Raise an interrupt source (R254); delivery is an event of its own. One whose route has EN clear raises nothing, unless a landward
port owns the module and the source goes there (R255). -/
def Mach.raise (m : Mach) (src : Nat) : Mach :=
  if (src ≤ 134 && 2 ≤ m.fget Reg.HL_DRV_OWNER_OWNER) || m.flag (Reg.HL_IRQ_ROUTE_EN src) then { m with irq := m.irq ++ [src] } else m

/-- Record an event with its DATA words (R413): into the buffer, or counted as lost when 4,096 records fill it. -/
def Mach.logD (m : Mach) (event status unit job addr : Nat) (data : List Nat) : Mach :=
  if 4096 ≤ m.log.buf.length then
    let rise := m.fget Reg.LH_ALERT_LOG == 0
    let m1 := { m with log := { m.log with lost := m.log.lost + 1 } }
    let m2 := (m1.fadd Reg.LH_LOG_LOST_LOST 1).fset Reg.LH_ALERT_LOG 1
    if rise then m2.raise 132 else m2
  else
    let e : LogEnt := ⟨m.fget Reg.LH_LOG_HEAD_SEQ, m.now, m.tideUnset, event, status, unit, job, addr, data⟩
    let m1 := { m with log := { m.log with buf := m.log.buf ++ [e] } }
    m1.fadd Reg.LH_LOG_HEAD_SEQ 1

/-- Record an event without DATA. -/
def Mach.logE (m : Mach) (event status unit job addr : Nat) : Mach := m.logD event status unit job addr []

/-- JOB of a record that names no job. -/
def noJob : Nat := 0x3F

/-- Send or answer something outward. DESIGN CHOICE: log entry 60. -/
def Mach.emit (m : Mach) (o : Out) : Mach := { m with out := o :: m.out }

/-- Take a fresh number for a free value. DESIGN CHOICE: log entry 8. -/
def Mach.fresh (m : Mach) : Nat × Mach := (m.free, { m with free := m.free + 1 })

/-- An access that R7 does not perform, as R15 treats one to an unassigned address too: a read returns all ones, a write
changes nothing, and Lighthouse records it. -/
def Mach.notPerformed (m : Mach) (addr : Nat) (wr : Bool) : Mach :=
  let m1 := m.logE 0x01 0 0 noJob addr
  if wr then m1 else m1.emit (.regData (BitVec.allOnes 64))

/-! The address map (R17, R21) -/

/-- What a module physical address names. -/
inductive Tier where
  | stack | shelf | shingle | shingleBeyond | registers | host | reserved
  deriving DecidableEq, Repr

def shelfBase : Nat := 0x010000000000
def shingleBase : Nat := 0x100000000000
/-- Bytes of Shingle user capacity. -/
def shingleCap : Nat := 0xE8D4A510000
def hostBase : Nat := 0x8000000000000

/-- The row of R17 an address lies in. -/
def tierOf (pa : Nat) : Tier :=
  if pa < 0x8000000000 then .stack
  else if 0x010000000000 ≤ pa ∧ pa < 0x028000000000 then .shelf
  else if shingleBase ≤ pa ∧ pa < shingleBase + shingleCap then .shingle
  else if shingleBase ≤ pa ∧ pa < 0x200000000000 then .shingleBeyond
  else if 0xF00000000000 ≤ pa ∧ pa < 0xF10000000000 then .registers
  else if hostBase ≤ pa ∧ pa < 2 ^ 52 then .host
  else .reserved

/-- Whether a range lies wholly in Stack or wholly in Shelf. -/
def inStackOrShelf (pa n : Nat) : Bool :=
  decide (pa + n ≤ 0x8000000000) || (decide (0x010000000000 ≤ pa) && decide (pa + n ≤ 0x028000000000))

/-- The stack of a Stack address (R147). -/
def stackOf (pa : Nat) : Nat := pa / 2 ^ 36 % 8

/-- The pseudo-channel of a Stack address (R147). -/
def pchOf (pa : Nat) : Nat := (pa / 2 ^ 8 % 64).xor (pa / 2 ^ 22 % 64)

/-- The Shelf channel of a Shelf address (R150). -/
def shelfChan (pa : Nat) : Nat := (pa - shelfBase) / 256 % 24

/-- The codeword group of a Shelf address (R149). -/
def shelfGrp (pa : Nat) : Nat := (pa - shelfBase) / 32 % 2

/-- The Reef die whose near stacks hold an address (R12, R148). -/
def dieOfStack (pa : Nat) : Nat := stackOf pa / 2

/-- Die states of R237. -/
def dieInService : Nat := 0
def dieFenced : Nat := 1
def dieRestoring : Nat := 2
def dieLoading : Nat := 3
def dieOut : Nat := 4

/-- Whether a die's port carries traffic: in service, or loading its firmware. -/
def Mach.dieUp (m : Mach) (d : Nat) : Bool :=
  let s := m.fget (Reg.HB_DIE_STATE_STATE d)
  s == dieInService || s == dieLoading

/-- Whether an address can be reached: a stack of a die that is not fenced, or anything else (R235). -/
def Mach.reach (m : Mach) (pa : Nat) : Bool :=
  if tierOf pa = .stack then m.dieUp (dieOfStack pa) else true

/-! Memory (R154 to R162) -/

/-- Key identity of a selector: 0 is plaintext, 1 a slot that holds no key (R160, R163). -/
def Mach.keyId (m : Mach) (sel : Nat) : Nat := if sel = 0 then 0 else sget 1 sel m.mem.keys

/-- The 16 bytes a cipher block was last stored as. -/
def Mach.cipherBlock (m : Mach) (blk : Nat) : List Byte := (List.range 16).map (fun i => sget (0 : Byte) (blk * 16 + i) m.mem.bytes)

/-- The byte a read under a key identity returns (R160, R162). DESIGN CHOICE: log entry 7. -/
def Mach.peek (m : Mach) (key pa : Nat) : Byte :=
  let t := sget 0 (pa / 16) m.mem.ktag
  if t = key then sget (0 : Byte) pa m.mem.bytes else (recipher t key (pa / 16) (m.cipherBlock (pa / 16))).getD (pa % 16) 0

/-- `n` bytes from an address, as a read under a key identity returns them. -/
def Mach.peeks (m : Mach) (key pa : Nat) : Nat → List Byte
  | 0 => []
  | n + 1 => m.peek key pa :: m.peeks key (pa + 1) n

/-- Whether the group of a codeword is retired (R158). -/
def Mach.retired (m : Mach) (pa : Nat) : Bool :=
  match tierOf pa with
  | .stack => m.flag (Reg.SK_PCH_RETIRED (stackOf pa) (pchOf pa))
  | .shelf => m.flag (Reg.SF_GRP_RETIRED (shelfChan pa) (shelfGrp pa))
  | _ => false

/-- Whether a codeword holds the poison pattern (R156). `cw` is its address divided by 32. -/
def Mach.poisonAt (m : Mach) (cw : Nat) : Bool :=
  sget false cw m.mem.poison != (decide (tierOf (cw * 32) = .stack) && sget false (stackOf (cw * 32)) m.mem.stackPoison)

/-- Mark or clear the poison pattern of a codeword. -/
def Mach.setPoison (m : Mach) (cw : Nat) (p : Bool) : Mach :=
  let d := decide (tierOf (cw * 32) = .stack) && sget false (stackOf (cw * 32)) m.mem.stackPoison
  { m with mem := { m.mem with poison := sset false cw (p != d) m.mem.poison } }

/-- Whether a read of a codeword returns poison: its pattern, a retired group, or a die that is fenced. -/
def Mach.cwBad (m : Mach) (cw : Nat) : Bool := m.poisonAt cw || m.retired (cw * 32) || !m.reach (cw * 32)

/-- Whether any codeword of a range reads poisoned. -/
def Mach.rangeBad (m : Mach) (pa n : Nat) : Bool :=
  n != 0 && (List.range ((pa + n - 1) / 32 - pa / 32 + 1)).any (fun i => m.cwBad (pa / 32 + i))

/-- Store one byte with the key identity of its cipher block already set. -/
def Mach.poke (m : Mach) (pa : Nat) (b : Byte) : Mach :=
  { m with mem := { m.mem with bytes := sset 0 pa b m.mem.bytes } }

/-- Store bytes in ascending address. -/
def Mach.pokes (m : Mach) (pa : Nat) : List Byte → Mach
  | [] => m
  | b :: bs => (m.poke pa b).pokes (pa + 1) bs

/-- Turn a cipher block to a key identity, its bytes as a read under that identity returns them: a read-modify-write decrypts the
block under the key it writes with. -/
def Mach.rekey (m : Mach) (key blk : Nat) : Mach :=
  if sget 0 blk m.mem.ktag = key then m
  else
    let bs := m.peeks key (blk * 16) 16
    let m1 := m.pokes (blk * 16) bs
    { m1 with mem := { m1.mem with ktag := sset 0 blk key m1.mem.ktag } }

/-- Turn the cipher blocks a range touches. A unit's other blocks keep the ciphertext they have (R160). -/
def Mach.rekeys (m : Mach) (key pa n : Nat) : Mach :=
  (List.range ((pa + n - 1) / 16 - pa / 16 + 1)).foldl (fun a i => a.rekey key (pa / 16 + i)) m

/-- Codewords of the unit a write is done in: one in plaintext, and the two of a 64-byte data unit under a key (R160). -/
def unitCws (key : Nat) : Nat := if key = 0 then 1 else 2

/-- Write bytes that lie within one unit (R156, R160): the whole unit clears its poison; a part of a unit that holds poison,
a retired group or a fenced die's stack takes no write. The flag says that the write failed with 0x0304. -/
def Mach.writeCw (m : Mach) (key pa : Nat) (bs : List Byte) : Mach × Bool :=
  let k := unitCws key
  let cws := (List.range k).map (fun i => pa / (32 * k) * k + i)
  if cws.any (fun cw => m.retired (cw * 32) || !m.reach (cw * 32)) then (m, true)
  else if cws.any m.poisonAt && bs.length != 32 * k then (m, true)
  else (((cws.foldl (fun a cw => a.setPoison cw false) m).rekeys key pa bs.length).pokes pa bs, false)

/-- Write bytes unit by unit; the flag says that some part failed. `n` bounds the units touched. -/
def Mach.writeN (m : Mach) (key : Nat) : Nat → Nat → List Byte → Mach × Bool
  | 0, _, _ => (m, false)
  | n + 1, pa, bs =>
    if bs.isEmpty then (m, false)
    else
      let k := 32 * unitCws key - pa % (32 * unitCws key)
      let r := m.writeCw key pa (bs.take k)
      let r2 := r.1.writeN key n (pa + k) (bs.drop k)
      (r2.1, r.2 || r2.2)

/-- Write bytes to Stack, Shelf or host memory under a key identity. -/
def Mach.memWrite (m : Mach) (key pa : Nat) (bs : List Byte) : Mach × Bool :=
  if bs.isEmpty then (m, false) else m.writeN key (bs.length / 32 + 2) pa bs

/-- `n` bytes of Shingle user capacity from an offset (R165). -/
def Mach.shinBytes (m : Mach) (off : Nat) : Nat → List Byte
  | 0 => []
  | n + 1 => sget (0 : Byte) off m.sg.data :: m.shinBytes (off + 1) n

/-- Whether a range of Shingle meets a poisoned unit. -/
def Mach.shinBad (m : Mach) (off n : Nat) : Bool :=
  n != 0 && (List.range ((off + n - 1) / 65536 - off / 65536 + 1)).any (fun i => sget false (off / 65536 + i) m.sg.bad)

/-- Whether the Harbour image runs (R365). -/
def Mach.harbourRuns (m : Mach) : Bool := m.fget (Reg.HB_FW_VER_FWVER 4) != 0

/-- Whether a firmware component is held, or restarts (R361, R362): 0 collective, 1 Intake, 2 Shingle, 3 + a core. -/
def Mach.compHeld (m : Mach) (c : Nat) : Bool := m.flag (Reg.HB_FW_FAULT_HELD c)
def Mach.compDown (m : Mach) (c : Nat) : Bool := m.fw.down.contains c

/-- Set a bit of LH_ALERT; its rise raises source 132 (R416). -/
def Mach.alert (m : Mach) (f : Fld) : Mach := if m.flag f then m else (m.fset f 1).raise 132

/-- A read of module memory by whoever reaches it: the bytes, and whether they are poisoned. Reserved addresses and
Shingle beyond user capacity read poisoned (R18), as all of Shingle does until the Harbour image runs (R365) and while it is
locked (R400, R428). -/
def Mach.load (m : Mach) (key pa n : Nat) : List Byte × Bool :=
  match tierOf pa with
  | .stack | .shelf => (m.peeks key pa n, m.rangeBad pa n)
  | .shingle => (m.shinBytes (pa - shingleBase) n, m.shinBad (pa - shingleBase) n || !m.harbourRuns || m.lh.locked)
  | .host => (m.peeks 0 pa n, m.rangeBad pa n)
  | _ => (List.replicate n 0, true)

/-- Write the poison pattern over a 64-byte line, `line` its address divided by 64 (R203). -/
def Mach.poisonLine (m : Mach) (line : Nat) : Mach := (m.setPoison (2 * line) true).setPoison (2 * line + 1) true

/-- Little-endian value of bytes (R4). -/
def leNat : List Byte → Nat
  | [] => 0
  | b :: bs => b.toNat + 256 * leNat bs

/-- `n` little-endian bytes of a value. -/
def leBytes : Nat → Nat → List Byte
  | 0, _ => []
  | n + 1, v => BitVec.ofNat 8 v :: leBytes n (v / 256)

/-- The words of a byte string, little-endian; `n` words. -/
def leWords : Nat → List Byte → List Word
  | 0, _ => []
  | n + 1, bs => BitVec.ofNat 64 (leNat (bs.take 8)) :: leWords n (bs.drop 8)

/-- The bytes of words, little-endian. -/
def wordBytes (ws : List Word) : List Byte := ws.flatMap (fun w => leBytes 8 w.toNat)

/-- Words at a physical address under selector 0, and whether the range reads poisoned (R160). -/
def Mach.readWords (m : Mach) (pa n : Nat) : List Word × Bool :=
  (leWords n (m.peeks 0 pa (8 * n)), m.rangeBad pa (8 * n))

/-- Apply an atomic to the value held (R51, R270). -/
def atomicApply (op : AtomicOp) (old operand : Nat) : Nat :=
  match op with
  | .iadd32 => (old + operand) % 2 ^ 32
  | .iadd64 => (old + operand) % 2 ^ 64
  | .fadd32 => (Fmt.fp32.encode .rne false (Num.add (Fmt.fp32.decode old) (Fmt.fp32.decode operand))).1

/-- Bytes an atomic covers. -/
def atomicSize : AtomicOp → Nat
  | .iadd64 => 8
  | _ => 4

/-- The module's answer to a command: the state it leaves. A module that is off takes no command but those that act on it. DESIGN CHOICE: log entry 1. -/
def State.act (s : State) (f : Mach → Mach) : Host.Outcome State Fault Refusal :=
  .next (if s.m.down then s else { s with m := f s.m })

/-- The same for a command that also reaches a module that is off. DEDUCED: log entry 59. -/
def State.actAlways (s : State) (f : Mach → Mach) : Host.Outcome State Fault Refusal :=
  .next { s with m := f s.m }

/-- The directory position of a core of a die (R197). -/
def corePos (d : Nat) : Nat := 9 + d

/-- Whether an agent reaches a register address (R15): a sequencer its own die's RF_ window alone, an internal agent none. -/
def Agent.reaches (a : Agent) (addr : Nat) : Bool :=
  match a with
  | .sequencer c => decide (0xF00000000000 + c.die.val * 0x4000000 ≤ addr) && decide (addr < 0xF00000000000 + (c.die.val + 1) * 0x4000000)
  | .internal _ => false
  | _ => true

/-- A register access by an agent: one that does not reach the register is not permitted, and is logged (R15, R414). -/
def Mach.byAgent (m : Mach) (a : Agent) (addr : Nat) (f : Mach → Mach) : Mach :=
  if Agent.reaches a addr then f m else m.logE 0x01 0 0 noJob addr

end Sys2Proof.Machine

namespace Sys2Proof

/-- The flat number of a core: die × 48 + core. -/
def CoreId.flat (c : CoreId) : Nat := c.die.val * 48 + c.core.val

/-- The target number of a sequencer: a core's flat number, or 192 for Harbour's. -/
def Seq.tgt : Seq → Nat
  | .core c => CoreId.flat c
  | .harbour => 192

/-- ENGINE codes of R111. -/
def Engine.code : Engine → Nat
  | .sequencer => 0
  | .matrix => 1
  | .matvec => 2
  | .vector => 3
  | .mover => 4
  | .collective => 5
  | .intake => 6

/-- Owner codes of R258 that an agent may hold: 1 Headland, 2 and 3 the landward ports; 0 for any other agent. -/
def Agent.ownerCode : Agent → Nat
  | .headland _ => 1
  | .host p => 2 + p.val
  | _ => 0

end Sys2Proof
end

