-- ==== Sys2Proof/Machine/Flash.lean ====
section
/-!
DEFINITION. Shingle's flash (R164, R165, R168, R169): its blocks, the map from units to them, and the read buffer. DESIGN CHOICE: log
entry 29.
-/

namespace Sys2Proof.Machine

/-- Blocks of the 20 TB of raw flash, each of one unit. -/
def flashBlocks : Nat := 20000000000000 / 65536

def freshBlock : FlashBlock := ⟨0, 0, false⟩
def Mach.block (m : Mach) (b : Nat) : FlashBlock := sget freshBlock b m.sg.blocks
def Mach.setBlock (m : Mach) (b : Nat) (f : FlashBlock) : Mach :=
  { m with sg := { m.sg with blocks := sset freshBlock b f m.sg.blocks } }

/-- The block that holds a unit; none where the unit is unwritten. -/
def Mach.blockOf (m : Mach) (u : Nat) : Option Nat :=
  match sget 0 u m.sg.map with
  | 0 => none
  | b + 1 => some b

/-- The unit that a block holds. -/
def Mach.unitOf (m : Mach) (b : Nat) : Option Nat := (m.sg.map.find? (fun p => p.2 == b + 1)).map Prod.fst

/-- Whether a block may be programmed: it holds no unit and is not retired. -/
def Mach.blockFree (m : Mach) (b : Nat) : Bool :=
  decide (b < flashBlocks) && !(m.block b).retired && !m.sg.map.any (fun p => p.2 == b + 1)

/-- The free block with the lowest erase count, of several the lowest numbered (R169): one of those that have been used, or the first that
has not. -/
def Mach.freeBlock (m : Mach) : Option Nat :=
  let seen := m.sg.blocks.map Prod.fst ++ m.sg.map.map (fun p => p.2 - 1)
  let gap := (List.range (seen.length + 1)).find? (fun b => !seen.contains b)
  ((gap.toList ++ seen).filter m.blockFree).foldl (fun best b =>
    match best with
    | some a => if (m.block b).erases < (m.block a).erases ∨ ((m.block b).erases = (m.block a).erases ∧ b < a) then some b else best
    | none => some b) none

/-- A block is erased: one erase more, and no page of it read since. -/
def Mach.eraseBlock (m : Mach) (b : Nat) : Mach :=
  m.setBlock b { m.block b with
    erases := (m.block b).erases + 1
    reads := 0 }

/-- A unit is programmed into the free block with the lowest erase count, and its map entry switched; its old block is erased. -/
def Mach.programUnit (m : Mach) (u : Nat) : Mach :=
  match m.freeBlock with
  | none => m
  | some b =>
    let m1 := m.setBlock b { m.block b with reads := 0 }
    let m2 := { m1 with sg := { m1.sg with map := sset 0 u (b + 1) m1.sg.map } }
    match m.blockOf u with
    | some old => if (m.block old).retired then m2 else m2.eraseBlock old
    | none => m2

/-- Units of a range read zero again, and their blocks are erased. -/
def Mach.freeUnits (m : Mach) (lo n : Nat) : Mach :=
  let mine := m.sg.map.filter (fun p => decide (lo ≤ p.1) && decide (p.1 < lo + n))
  let m1 := { m with sg := { m.sg with map := serase (fun u => decide (lo ≤ u) && decide (u < lo + n)) m.sg.map } }
  mine.foldl (fun a p => a.eraseBlock (p.2 - 1)) m1

/-- The mean erase count of the flash. -/
def Mach.meanErases (m : Mach) : Nat := (m.sg.blocks.map (fun p => p.2.erases)).sum / flashBlocks

/-- Pages of 16 KiB in the read buffer of 64 MiB (R165). -/
def bufferPages : Nat := 4096

/-- A read of a 16 KiB page of user capacity (R165, R169): from the buffer, or from flash, which counts for its block; the page is then the
most recent of the buffer. The flag says that the flash was read. -/
def Mach.pageRead (m : Mach) (page : Nat) : Mach × Bool :=
  if m.sg.pages.contains page then
    ({ m with sg := { m.sg with pages := page :: m.sg.pages.filter (fun p => p != page) } }, false)
  else
    let m1 := { m with sg := { m.sg with pages := (page :: m.sg.pages).take bufferPages } }
    match m.blockOf (page / 4) with
    | some b => (m1.setBlock b { m1.block b with reads := (m1.block b).reads + 1 }, true)
    | none => (m1, false)

/-- A read of a range of the Shingle window by any agent or engine. -/
def Mach.shinTouch (m : Mach) (pa n : Nat) : Mach :=
  if n = 0 ∨ tierOf pa ≠ .shingle then m
  else
    let lo := (pa - shingleBase) / 16384
    (List.range ((pa + n - 1 - shingleBase) / 16384 - lo + 1)).foldl (fun a i => (a.pageRead (lo + i)).1) m

/-- What is left of the spare (R164, R170): 3 TB less the blocks retired and those found bad, shown in GB; at 0.5 TB writes lock. -/
def Mach.showSpare (m : Mach) : Mach :=
  let gone := (m.sg.blocks.filter (fun p => p.2.retired)).length + m.sg.spareBad
  let left := 3000000000000 - gone * 65536
  let m1 := m.fset Reg.SG_STATE_SPARE_GB (left / 1000000000)
  if left ≤ 500000000000 then m1.fset Reg.SG_STATE_WRITE_LOCK 1 else m1

end Sys2Proof.Machine
end

