-- ==== Sys2Proof/Machine/Home.lean ====
section
/-!
DEFINITION. The memory home: the directory's entries, the transactions that block a line, snoops, and what each request
does (R197 to R204, R207). Every row of the directory family, every engine write and every FLUSH goes through it.
-/

namespace Sys2Proof.Machine

/-! Landward accesses (R269, R278, R279) -/

/-- The landward port that carries an access to the host range (R269). -/
def Mach.lwPort (m : Mach) (pa : Nat) : Nat :=
  if m.lw.mode = 0 then 0 else if m.lw.mode = 1 then 1 else (pa - hostBase) / 4096 % 2

/-- Whether a landward port is armed. -/
def Mach.armed (m : Mach) (p : Nat) : Bool := m.flag (Reg.LW_EPOCH_ARMED p)

/-- Whether a port's link is in Recovery. -/
def Mach.recovering (m : Mach) (p : Nat) : Bool := m.fget (Reg.LW_LINK_LINK p) == 3

/-- Whether a landward write to a range has not reached its home: a read of the range waits for it (R215, R269). -/
def Mach.lwPending (m : Mach) (pa n : Nat) : Bool :=
  (m.lw.writes ++ m.lw.heldWrites).any (fun w =>
    let k := match w.w with
      | .store bs => bs.length
      | .atomic op _ => atomicSize op
    w.msix.isNone && decide (w.pa < pa + n) && decide (pa < w.pa + k))

/-- A command, or a prefetch entry, has an access that waits for a port in Recovery (R275). -/
def Mach.stall (m : Mach) (p id : Nat) : Mach :=
  if m.lw.stalled.contains (p, id) then m else { m with lw := { m.lw with stalled := (p, id) :: m.lw.stalled } }

/-- One more access of a command is outstanding. -/
def Mach.outstAdd (m : Mach) (cmd : Nat) : Mach :=
  { m with js := { m.js with outst := sset 0 cmd (sget 0 cmd m.js.outst + 1) m.js.outst } }

/-- Route a landward write (R269, R278, R279): refused on a port that is not armed, held during a change of route, else
on its way under the port's epoch. The flag says it was refused. -/
def Mach.lwWrite (m : Mach) (pa : Nat) (w : WriteOp) (cmd : Option AccRef) : Mach × Bool :=
  let port := m.lwPort pa
  let count := fun (a : Mach) => match cmd with
    | some c => a.outstAdd c.id
    | none => a
  if m.lw.hold then
    let m1 := (count m).fset Reg.LW_ROUTE_BUSY 1
    ({ m1 with lw := { m1.lw with
      heldWrites := m1.lw.heldWrites ++ [⟨m1.fget Reg.LW_ROUTE_MODE, 0, pa, w, cmd, none⟩] } }, false)
  else if !m.armed port then (m.fadd (Reg.LW_CNT_REFUSED port) 1, true)
  else
    let m1 := count m
    ({ m1 with lw := { m1.lw with writes := m1.lw.writes ++ [⟨port, m.fget (Reg.LW_EPOCH_EPOCH port), pa, w, cmd, none⟩] } }, false)

/-! Positions and entries -/

/-- Forwarding positions of R197. -/
def isForwarding (x : Nat) : Bool := x ≤ 8 || (16 ≤ x && x ≤ 19) || x = 25

/-- Read-only positions of R197. -/
def isReadOnly (x : Nat) : Bool := (9 ≤ x && x ≤ 12) || x = 22 || x = 26

/-- Streaming positions of R197. -/
def isStreaming (x : Nat) : Bool := x = 20 || x = 21 || x = 23 || x = 24 || x = 27

/-- Whether a bit of a 64-position register is set. -/
def Mach.posBit (m : Mach) (f : Fld) (x : Nat) : Bool := m.fget f / 2 ^ x % 2 == 1

/-- Set or clear a position's bit in a 64-position register. -/
def Mach.setPosBit (m : Mach) (f : Fld) (x : Nat) (b : Bool) : Mach :=
  let v := m.fget f
  let has := v / 2 ^ x % 2 == 1
  if has == b then m else m.fset f (if b then v + 2 ^ x else v - 2 ^ x)

def Mach.absent (m : Mach) (x : Nat) : Bool := m.posBit Reg.HB_DIR_ABSENT_ABSENT x
def Mach.quarantined (m : Mach) (x : Nat) : Bool := m.posBit Reg.HB_DIR_QUAR_QUAR x

/-- Members of a sharer vector. -/
def members (v : BitVec 64) : List Nat := (List.range 28).filter (fun i => v.getLsbD i)

def vecAdd (v : BitVec 64) (x : Nat) : BitVec 64 := v ||| BitVec.ofNat 64 (2 ^ x)
def vecDel (v : BitVec 64) (x : Nat) : BitVec 64 := v &&& ~~~(BitVec.ofNat 64 (2 ^ x))

def Mach.ent (m : Mach) (line : Nat) : Option DirEnt := sget none line m.dir.ents

/-- Set a line's entry, with the entry count of HB_DIR_OCC, its place in LRU order and the presence filter (R198, R207). -/
def Mach.setEnt (m : Mach) (line : Nat) (e : Option DirEnt) : Mach :=
  let ents := sset none line e m.dir.ents
  let region := line / 64
  let marked := decide (tierOf (line * 64) = .stack) && ents.any (fun p => p.1 / 64 == region)
  let lru := m.dir.lru.filter (fun l => l != line)
  let m1 := { m with dir := { m.dir with
    ents := ents
    lru := if e.isSome then line :: lru else lru
    presence := sset false region marked m.dir.presence } }
  m1.fset Reg.HB_DIR_OCC_ENTRIES ents.length

def Mach.txn (m : Mach) (line : Nat) : Option HomeTxn := sget none line m.dir.txns
def Mach.setTxn (m : Mach) (line : Nat) (t : Option HomeTxn) : Mach :=
  { m with dir := { m.dir with txns := sset none line t m.dir.txns } }

/-- Poison a line and count it (R203, R204). -/
def Mach.poisonCount (m : Mach) (line : Nat) : Mach := (m.poisonLine line).fadd Reg.HB_DIR_CNT_POISONED 1

/-- The entry as the line's next transaction finds it: absent holders are dropped, and a line owned by an absent agent
is poisoned (R204, R239). -/
def Mach.settleEnt (m : Mach) (line : Nat) : Mach :=
  match m.ent line with
  | none => m
  | some (.s v f) =>
    let gone := (members v).filter (fun x => m.absent x)
    if gone.isEmpty then m
    else
      let v' := gone.foldl vecDel v
      let f' := f.filter (fun x => !m.absent x)
      m.setEnt line (if v' = 0 then none else some (.s v' f'))
  | some (.o y) =>
    if m.absent y then
      (if isReadOnly y then m.setEnt line none else (m.poisonCount line).setEnt line none)
    else m

/-- The key identity of a host access to an address: that of the first enabled window covering its DPA (R268). -/
def Mach.hostKey (m : Mach) (pa : Nat) : Nat :=
  let dpa := if pa < 0x8000000000 then pa else pa - shelfBase + 0x8000000000
  let u := dpa / 2 ^ 21
  match (List.range 16).find? (fun w =>
      m.flag (Reg.LW_MKEY_EN w) && decide (m.fget (Reg.LW_MKEY_BASE w) ≤ u) && decide (u ≤ m.fget (Reg.LW_MKEY_LIMIT w))) with
  | some w => m.keyId (m.fget (Reg.LW_MKEY_KEY w))
  | none => 0

/-- Whether a Breakwater window is in force and covers a range of bytes (R228). -/
def Mach.bwCovers (m : Mach) (n pa len : Nat) : Bool :=
  m.flag (Reg.BW_WIN_LIM_VALID n) && decide (m.fget (Reg.BW_WIN_BASE_BASE n) ≤ pa / 65536) &&
    decide ((pa + len - 1) / 65536 ≤ m.fget (Reg.BW_WIN_LIM_LIMIT n))

/-- The lowest-numbered window in force over a range (R229). -/
def Mach.bwWindow (m : Mach) (pa len : Nat) : Option Nat := (List.range 16).find? (fun n => m.bwCovers n pa len)

/-- The key identity a coherent agent's access carries (R160, R229, R268). -/
def Mach.posKey (m : Mach) (x pa : Nat) : Nat :=
  if x = 13 ∨ x = 14 then m.hostKey pa
  else if x = 15 then
    (match m.bwWindow pa 1 with
     | some n => m.keyId (m.fget (Reg.BW_WIN_BASE_KEY n))
     | none => 0)
  else 0

/-- Whether the answers to a request are taken without an acknowledgement of their own: engines and the home itself. -/
def HomeReq.auto : HomeReq → Bool
  | .ncw none _ _ _ _ => true
  | .fetch _ => true
  | .inval _ => true
  | .poison _ => true
  | .move _ => true
  | _ => false

/-- The home's own requests, which only take copies away. -/
def HomeReq.internal : HomeReq → Bool
  | .inval _ => true
  | .poison _ => true
  | .move _ => true
  | _ => false

/-- The position that asks, if a coherent agent does. -/
def HomeReq.pos : HomeReq → Option Nat
  | .rds x => some x
  | .rdo x => some x
  | .upg x => some x
  | .fetch x => some x
  | .ncw w _ _ _ _ => w
  | .inval _ => none
  | .poison _ => none
  | .move _ => none

/-- The command a request belongs to. -/
def HomeReq.cmd : HomeReq → Option AccRef
  | .ncw _ _ _ _ c => c
  | .inval c => c
  | .poison c => c
  | _ => none

/-- An access has completed: the invalidation in progress waits for it no longer (R186). -/
def Mach.refDone (m : Mach) (c : AccRef) : Mach :=
  { m with xl := { m.xl with tlbi := m.xl.tlbi.map (fun (t : TlbiRun) => { t with refs := t.refs.erase c }) } }

/-- One access of a command has reached its home; a failed one gives the command its status and its faulting address (R126)
unless it has a status. -/
def Mach.accessDone (m : Mach) (cmd : Option AccRef) (failed : Bool) (status : Nat) : Mach :=
  match cmd with
  | none => m
  | some ⟨c, va⟩ =>
    let n := sget 0 c m.js.outst
    { m.refDone ⟨c, va⟩ with js := { m.js with
      outst := sset 0 c (n - 1) m.js.outst
      agentFail := if failed ∧ !m.js.cmds.any (fun k => k.id == c) then sset 0 c status m.js.agentFail else m.js.agentFail
      cmds := m.js.cmds.map (fun k =>
        if k.id = c ∧ failed ∧ (k.status = none ∨ k.status = some 0) then
          { k with
            status := some status
            va := va }
        else k) } }

/-- Perform a write at the home: bytes, or an atomic on what is held. The flag says it failed with 0x0304 (R156). -/
def Mach.homeWrite (m : Mach) (pa key : Nat) (w : WriteOp) : Mach × Bool :=
  match w with
  | .store bs => m.memWrite key pa bs
  | .atomic op v =>
    let n := atomicSize op
    let old := m.load key pa n
    if old.2 then (m, true) else m.memWrite key pa (leBytes n (atomicApply op (leNat old.1) v.toNat))

/-- Answer an agent's request with a grant (0 S, 1 F, 2 E, 3 M). -/
def Mach.grant (m : Mach) (x line st : Nat) (data : Option (List Byte)) (poison : Bool) : Mach :=
  m.emit (.grant x line st data poison)

/-- The 64 bytes of a line from memory as position `x` reads them. -/
def Mach.lineFor (m : Mach) (x line : Nat) : List Byte × Bool := m.load (m.posKey x (line * 64)) (line * 64) 64

/-- Data that a snooped holder supplied, and whether it held it Modified. -/
abbrev Supply := Option (List Byte × Bool)

/-- What a request reads: a holder's data where one supplied it, else memory. -/
def Mach.dataFor (m : Mach) (x line : Nat) (sup : Supply) : List Byte × Bool :=
  match sup with
  | some d => (d.1, false)
  | none => m.lineFor x line

/-- Grant a line with a holder's data or memory's. -/
def Mach.grantFrom (m : Mach) (x line st : Nat) (sup : Supply) : Mach :=
  let d := m.dataFor x line sup
  m.grant x line st (some d.1) d.2

/-- Modified data of position `y` reaches its home: of a line of the host range it goes landward, as one more access of the command
whose FLUSH recalls it (R115), if one does; that of a line of a fenced die's stacks is discarded and counted (R235); the Shingle window takes
none, which is logged (R19). -/
def Mach.lineHome (m : Mach) (y line : Nat) (bs : List Byte) (cmd : Option AccRef) : Mach :=
  match tierOf (line * 64) with
  | .stack | .shelf =>
    if m.reach (line * 64) then (m.memWrite (m.posKey y (line * 64)) (line * 64) bs).1 else m.fadd Reg.HB_DIR_CNT_POISONED 1
  | .host =>
    let m1 := match cmd with
      | some c => m.outstAdd c.id
      | none => m
    let r := m1.lwWrite (line * 64) (.store bs) cmd
    if r.2 then r.1.accessDone cmd true 0x0501 else r.1
  | _ => m.logE 0x02 0x0302 y noJob (line * 64)

/-- Members of a sharer vector that are L2s (R249). -/
def l2s (v : BitVec 64) : List Nat := (members v).filter (fun y => decide (y ≤ 7))

/-- Send the snoops of a transaction. -/
def Mach.snoops (m : Mach) (line : Nat) (inv : Bool) (ys : List Nat) : Mach :=
  ys.foldl (fun a y => a.emit (.snoop y line inv)) m

/-- RDS of a position (R200): its grant and the entry that follows. The Shingle window is cached in S alone (R252), a line that Headland
reads poisoned is installed in none of its caches (R247), and position 8 and an L2 never hold a line at once (R249). -/
def Mach.completeRds (m0 : Mach) (x line : Nat) (sup : Supply) : Mach :=
  let m := m0.shinTouch (line * 64) 64
  if x ≤ 8 ∧ (m.dataFor x line sup).2 then m.grantFrom x line 0 sup
  else
    match m.ent line with
    | none =>
      if isReadOnly x || isStreaming x || decide (tierOf (line * 64) = .shingle) then
        (m.grantFrom x line 0 sup).setEnt line (some (.s (vecAdd 0 x) none))
      else (m.grantFrom x line 2 sup).setEnt line (some (.o x))
    | some (.s v f) =>
      let back := decide (x ≤ 7) && v.getLsbD 8
      let gone := if back then [8] else if x = 8 then l2s v else []
      let v' := vecAdd (gone.foldl vecDel v) x
      let f' := match f with
        | some g => if gone.contains g then some x else some g
        | none => if isForwarding x && !back then some x else none
      (m.grantFrom x line (if f' = some x then 1 else 0) sup).setEnt line (some (.s v' f'))
    | some (.o y) =>
      if x ≤ 7 ∧ y = 8 then (m.grant x line 2 none false).setEnt line (some (.o x))
      else if x = 8 ∧ y ≤ 7 then (m.grantFrom x line 1 sup).setEnt line (some (.s (vecAdd 0 x) (some x)))
      else
        let f := if isForwarding y then some y else if isForwarding x then some x else none
        (m.grantFrom x line (if f = some x then 1 else 0) sup).setEnt line (some (.s (vecAdd (vecAdd 0 y) x) f))

/-- The grant of a line to own (R200): M with data that a holder had Modified, else E. -/
def Mach.grantOwn (m : Mach) (x line : Nat) (sup : Supply) : Mach :=
  let st := match sup with
    | some (_, true) => 3
    | _ => 2
  (m.grantFrom x line st sup).setEnt line (some (.o x))

/-- A line leaves an L2 for the last-level cache (R249): position 8 takes the L2's place, the line's state unchanged. Where another
L2 holds the line too, the one that gives it up leaves it alone, as position 8 and an L2 never hold it at once. -/
def Mach.moveToLlc (m : Mach) (x line : Nat) : Mach :=
  match m.ent line with
  | some (.s v f) =>
    let v' := vecDel v x
    if !v.getLsbD x then m
    else if !(l2s v').isEmpty then m.setEnt line (some (.s v' (f.filter (fun y => y != x))))
    else m.setEnt line (some (.s (vecAdd v' 8) (f.map (fun y => if y = x then 8 else y))))
  | some (.o y) => if y = x then m.setEnt line (some (.o 8)) else m
  | none => m

/-- A write of a line, or a request to own it, by position `who` breaks the reservations of harts of other clusters (R257). -/
def Mach.breakResv (m : Mach) (who : Option Nat) (line : Nat) : Mach :=
  let hit := (m.hl.resv.filter (fun p => p.2 == some line && who != some (p.1 / 8))).map Prod.fst
  if hit.isEmpty then m else { m with hl := { m.hl with broken := hit.foldl (fun a h => sset false h true a) m.hl.broken } }

/-- What a request does when no snoop answer is awaited any more: the state it leaves and its answer (R200). An L2 that
takes a line from the last-level cache takes its place too (R249). `sup` is the data a holder supplied. -/
def Mach.complete (m : Mach) (line : Nat) (r : HomeReq) (sup : Supply) : Mach :=
  match r with
  | .rds x => m.completeRds x line sup
  | .rdo x => (m.breakResv (some x) line).grantOwn x line sup
  | .upg x =>
    let b := m.breakResv (some x) line
    match b.ent line with
    | some (.s v _) =>
      if v.getLsbD x then (b.grant x line 2 none false).setEnt line (some (.o x)) else b.grantOwn x line sup
    | _ => b.grantOwn x line sup
  | .ncw w pa key op cmd =>
    let host := decide (tierOf pa = .host)
    let b := (m.breakResv w line).setEnt line none
    let r := if host then b.lwWrite pa op cmd else b.homeWrite pa key op
    let m1 := r.1.accessDone cmd r.2 (if host then 0x0501 else 0x0304)
    (match w with
     | some x => m1.grant x line 0 none r.2
     | none => m1)
  | .fetch _ =>
    match m.ent line with
    | some (.o y) => m.setEnt line (some (.s (vecAdd 0 y) (if isForwarding y then some y else none)))
    | _ => m
  | .inval cmd => (m.setEnt line none).accessDone cmd false 0
  | .poison cmd => ((m.setEnt line none).poisonLine line).accessDone cmd false 0
  | .move x => m.moveToLlc x line

/-- The positions a request must snoop, and whether the snoop takes the line away (R200). -/
def Mach.toSnoop (m : Mach) (line : Nat) (r : HomeReq) : List Nat × Bool :=
  match r, m.ent line with
  | .move _, _ => ([], false)
  | _, none => ([], true)
  | .rds x, some (.s v f) =>
    if x ≤ 7 ∧ v.getLsbD 8 then ([], false)
    else if x = 8 ∧ !(l2s v).isEmpty then (l2s v, true)
    else (f.toList, false)
  | .rds x, some (.o y) => if x ≤ 7 ∧ y = 8 then ([], false) else ([y], decide (x = 8 ∧ y ≤ 7))
  | .fetch _, some (.s _ _) => ([], false)
  | .fetch _, some (.o y) => ([y], false)
  | .rdo x, some (.s v _) => (members (vecDel v x), true)
  | .rdo _, some (.o y) => ([y], true)
  | .upg x, some (.s v _) => (members (vecDel v x), true)
  | .upg _, some (.o y) => ([y], true)
  | _, some (.s v _) => (members v, true)
  | _, some (.o y) => ([y], true)

/-- Answer a request with poisoned data and no change (R200, R203). -/
def Mach.answerPoison (m : Mach) (line : Nat) (r : HomeReq) : Mach :=
  match r, r.pos with
  | .fetch _, _ => m
  | _, some x => (m.grant x line 0 none true).accessDone r.cmd true 0x0304
  | _, none => m.accessDone r.cmd true 0x0304

/-- Begin serving requests of a line in arrival order until one blocks it: on snoops, or on its acknowledgement (R202).
The number bounds the requests served. -/
def Mach.serve (m : Mach) (line : Nat) : Nat → List HomeReq → Mach
  | _, [] => m.setTxn line none
  | 0, _ => m.setTxn line none
  | n + 1, r :: rest =>
    let m1 := m.settleEnt line
    let sn := m1.toSnoop line r
    if sn.1.isEmpty then
      let m2 := m1.complete line r none
      if r.auto then m2.serve line n rest
      else m2.setTxn line (some ⟨r, [], none, false, true, rest⟩)
    else (m1.snoops line sn.2 sn.1).setTxn line (some ⟨r, sn.1, none, false, false, rest⟩)

/-- A request reaches the home (R200, R202): poisoned from a quarantined position and for a line of a fenced die's stacks (R235), queued
behind a blocked line, otherwise served. -/
def Mach.requestAt (m : Mach) (line : Nat) (r : HomeReq) : Mach :=
  if r.pos.any m.quarantined || (!m.reach (line * 64) && !r.internal) then m.answerPoison line r
  else
    match m.txn line with
    | some t => m.setTxn line (some { t with queue := t.queue ++ [r] })
    | none => m.serve line 1 [r]

/-- The waiting request of a line completes, and the next is served where no acknowledgement is awaited. -/
def Mach.finishTxn (m : Mach) (line : Nat) (t : HomeTxn) (sup : Supply) : Mach :=
  let m1 := if t.poison then (m.setEnt line none).answerPoison line t.req else m.complete line t.req sup
  if t.req.auto then m1.serve line t.queue.length t.queue
  else m1.setTxn line (some { t with waits := [], done := true })

/-- Whether a clean holder's data answers a request (R200): that of the owner or the forwarder, and not where the requester of
ownership shares the line. -/
def Mach.forwards (m : Mach) (y line : Nat) (r : HomeReq) : Bool :=
  match m.ent line, r with
  | some (.s v f), .rdo x => decide (f = some y) && !v.getLsbD x
  | some (.s _ f), _ => decide (f = some y)
  | _, _ => true

/-- A snooped position answers (R200). A clean holder supplies its data. Modified data goes to memory, but to the requester alone
where it takes the line to own; an answer with a write-back in flight makes the line I at the home. Modified data that arrives
poisoned leaves the line poisoned, and the request completes so (R115, R203). -/
def Mach.snoopAnswerAt (m : Mach) (y line : Nat) (ans : SnoopAns) : Mach :=
  if m.quarantined y then m
  else
    match m.txn line with
    | none => m
    | some t =>
      if !t.waits.contains y then m
      else
        let rest := t.waits.filter (fun z => z != y)
        let owns := match t.req with
          | .rdo _ => true
          | .upg _ => true
          | _ => false
        match ans with
        | .clean d =>
          let sup := if m.forwards y line t.req then (d.map (fun (v : BitVec 512) => (leBytes 64 v.toNat, false))).orElse (fun _ => t.sup)
            else t.sup
          if rest.isEmpty then m.finishTxn line t sup else m.setTxn line (some { t with waits := rest, sup := sup })
        | .dirty d =>
          let bs := leBytes 64 d.toNat
          if owns then m.finishTxn line t (some (bs, true))
          else
            let w := m.lineHome y line bs t.req.cmd
            if rest.isEmpty then w.finishTxn line t (some (bs, false))
            else w.setTxn line (some { t with waits := rest, sup := some (bs, false) })
        | .writeBack d =>
          let w := m.lineHome y line (leBytes 64 d.toNat) t.req.cmd
          let m1 := { w with dir := { w.dir with dropWb := (line, y) :: w.dir.dropWb } }
          (m1.setEnt line none).finishTxn line t none
        | .poisoned =>
          let m1 := m.poisonCount line
          if rest.isEmpty then m1.finishTxn line { t with poison := true } none
          else m1.setTxn line (some { t with waits := rest, poison := true })

/-- A snoop stays unanswered (R203): the line is poisoned, the silent agent leaves it and is quarantined, the request
completes poisoned, and Lighthouse logs it. The line's next state is I. -/
def Mach.snoopTimeoutAt (m : Mach) (y line : Nat) : Mach :=
  match m.txn line with
  | none => m
  | some t =>
    if !t.waits.contains y then m
    else
      let m1 := (m.poisonCount line).fadd Reg.HB_DIR_CNT_TIMEOUTS 1
      let m2 := (m1.setPosBit Reg.HB_DIR_QUAR_QUAR y true).logE 0x06 0x0304 y noJob (line * 64)
      (m2.setEnt line none).finishTxn line { t with poison := true } none

/-- The requester acknowledges completion: the line is free, and the next request is served (R202). -/
def Mach.ackTxnAt (m : Mach) (line : Nat) : Mach :=
  match m.txn line with
  | some t => if t.done then m.serve line t.queue.length t.queue else m
  | none => m

/-- Set of a directory line; the index is not the manual's. DESIGN CHOICE: log entry 14. -/
def dirSet (line : Nat) : Nat := Config.farSet (2 ^ 52 + line) % 524288

/-- A full set of the directory evicts its least recently used entry as a FLUSH of that line would (R198). -/
def Mach.dirRelieve (m : Mach) (line : Nat) : Mach :=
  if m.dir.lru.length ≤ 16 then m
  else
    let peers := m.dir.lru.filter (fun l => dirSet l == dirSet line)
    if peers.length ≤ 16 then m
    else
      match peers.reverse.find? (fun l => (m.txn l).isNone) with
      | some l => m.requestAt l (.inval none)
      | none => m

/-- A request reaches the home, and a set of the directory that it fills beyond its ways gives an entry up. -/
def Mach.request (m : Mach) (line : Nat) (r : HomeReq) : Mach := (m.requestAt line r).dirRelieve line

/-- A snoop answer, with what follows in the line's set. -/
def Mach.snoopAnswer (m : Mach) (y line : Nat) (ans : SnoopAns) : Mach := (m.snoopAnswerAt y line ans).dirRelieve line

/-- A snoop's time-out, with what follows in the line's set. -/
def Mach.snoopTimeout (m : Mach) (y line : Nat) : Mach := (m.snoopTimeoutAt y line).dirRelieve line

/-- An acknowledgement, with what follows in the line's set. -/
def Mach.ackTxn (m : Mach) (line : Nat) : Mach := (m.ackTxnAt line).dirRelieve line

/-- A write-back arrives (R200): dropped when a snoop already took its data, else written to memory. -/
def Mach.writeBack (m : Mach) (y line : Nat) (bs : List Byte) : Mach :=
  if m.dir.dropWb.contains (line, y) then { m with dir := { m.dir with dropWb := m.dir.dropWb.erase (line, y) } }
  else if m.quarantined y then m
  else
    match m.ent line with
    | some (.o z) =>
      if z = y then (m.lineHome y line bs none).setEnt line none else m
    | _ => m

/-- A write-back that a check turns away: the line leaves its holder and no data is written. -/
def Mach.writeBackLost (m : Mach) (y line : Nat) : Mach := if m.ent line = some (.o y) then m.setEnt line none else m

/-- A clean holder's eviction notice (R200). -/
def Mach.evictNotice (m : Mach) (x line : Nat) : Mach :=
  match m.ent line with
  | some (.s v f) =>
    let v' := vecDel v x
    m.setEnt line (if v' = 0 then none else some (.s v' (f.filter (fun y => y != x))))
  | some (.o y) => if y = x then m.setEnt line none else m
  | none => m

/-- Split bytes at an address into pieces that each lie in one aligned unit of `u` bytes; the first number bounds the pieces. -/
def cutsAt (u : Nat) : Nat → Nat → List Byte → List (Nat × List Byte)
  | 0, _, _ => []
  | n + 1, pa, bs =>
    if bs.isEmpty then [] else (pa, bs.take (u - pa % u)) :: cutsAt u n (pa + (u - pa % u)) (bs.drop (u - pa % u))

/-- Pieces that each lie in one 64-byte line. -/
def lineCuts (n pa : Nat) (bs : List Byte) : List (Nat × List Byte) := cutsAt 64 n pa bs

/-- One effect of a write as pieces that each lie in one line. -/
def writePieces (pa : Nat) : WriteOp → List (Nat × WriteOp)
  | .store bs => (lineCuts (bs.length / 64 + 2) pa bs).map (fun p => (p.1, .store p.2))
  | .atomic op v => [(pa, .atomic op v)]

/-- The part of an access's reference that an address `off` bytes further has. -/
def AccRef.plus (c : AccRef) (off : Nat) : AccRef := ⟨c.id, c.va + off⟩

/-- A landward write, after the copies that module agents hold of its lines (R115, R207): in pieces that each travel one port (R269).
The flag says that one was refused. -/
def Mach.hostWrite (m : Mach) (who : Option Nat) (pa : Nat) (w : WriteOp) (cmd : Option AccRef) : Mach × Bool :=
  let n := match w with
    | .store bs => bs.length
    | .atomic op _ => atomicSize op
  let lines := (List.range ((pa + n - 1) / 64 - pa / 64 + 1)).map (fun i => pa / 64 + i)
  if lines.any (fun l => (m.ent l).isSome || (m.txn l).isSome) then
    ((writePieces pa w).foldl (fun a p =>
      let ref := cmd.map (fun (c : AccRef) => c.plus (p.1 - pa))
      let a1 := match ref with
        | some c => a.outstAdd c.id
        | none => a
      a1.request (p.1 / 64) (.ncw who p.1 0 p.2 ref)) m, false)
  else
    let ps : List (Nat × WriteOp) := match w with
      | .store bs => (cutsAt 4096 (bs.length / 4096 + 2) pa bs).map (fun p => (p.1, WriteOp.store p.2))
      | .atomic _ _ => [(pa, w)]
    ps.foldl (fun (a : Mach × Bool) (p : Nat × WriteOp) =>
      let r := a.1.lwWrite p.1 p.2 (cmd.map (fun (c : AccRef) => c.plus (p.1 - pa)))
      (r.1, a.2 || r.2)) (m, false)

/-- Module agents whose accesses reach the host range (R264): Headland, the prefetcher, the migration engine, Lighthouse, and the
partner die. -/
def landwardAgent (x : Nat) : Bool := decide (x ≤ 8) || x == 15 || x == 20 || x == 21 || x == 25

/-- The ports that carry an access to a range (R269). -/
def Mach.lwPorts (m : Mach) (pa n : Nat) : List Nat :=
  if m.lw.mode = 2 ∧ 4096 < pa % 4096 + n then [0, 1] else [m.lwPort pa]

/-- Whether a read of a host range is held (R269, R275): by a change of route, a port in Recovery, or an earlier write. -/
def Mach.lwHeld (m : Mach) (pa n : Nat) : Bool :=
  m.lw.hold || (m.lwPorts pa n).any m.recovering || m.lwPending pa n

/-- Whether a read of a host range finds a port that is not armed (R279). -/
def Mach.lwUnarmed (m : Mach) (pa n : Nat) : Bool := (m.lwPorts pa n).any (fun p => !m.armed p)

/-- An access that waits; BUSY shows one that a change of route holds. -/
def Mach.lwWait (m : Mach) (w : LwWait) : Mach :=
  let m1 := if m.lw.hold then m.fset Reg.LW_ROUTE_BUSY 1 else m
  { m1 with lw := { m1.lw with waits := m1.lw.waits ++ [w] } }

/-- A coherent agent's request for a line of the host range, which goes through CXL.cache (R263, R264, R279). -/
def Mach.hostLine (m : Mach) (x line : Nat) (r : HomeReq) : Mach :=
  if !landwardAgent x then m
  else if m.lwHeld (line * 64) 64 then m.lwWait (.line line r)
  else if m.lwUnarmed (line * 64) 64 then m.answerPoison line r
  else m.request line r

/-- A non-caching write of bytes to Stack or Shelf, line by line, each through the home (R200, R207). With a command, the
command has one more access outstanding for each line until it reaches its home. -/
def Mach.ncWrite (m : Mach) (who : Option Nat) (cmd : Option AccRef) (key pa : Nat) (bs : List Byte) : Mach :=
  (lineCuts (bs.length / 64 + 2) pa bs).foldl (fun a p =>
    let a1 := match cmd with
      | some c => { a with js := { a.js with outst := sset 0 c.id (sget 0 c.id a.js.outst + 1) a.js.outst } }
      | none => a
    a1.request (p.1 / 64) (.ncw who p.1 key (.store p.2) (cmd.map (fun (c : AccRef) => c.plus (p.1 - pa))))) m

/-- A command of Harbour's own agents waits for a line (R205): it is tried again. -/
def Mach.anew (m : Mach) (i : Instr) : Mach :=
  if m.dir.again.contains i then m else { m with dir := { m.dir with again := m.dir.again ++ [i] } }

/-- Whether an internal agent at position `x` sees a range current at its home: a line that some agent owns is first
asked for, and the agent waits for the answer (R205). The flag says the range is current now. DESIGN CHOICE: log entry 16. -/
def Mach.current (m : Mach) (x pa n : Nat) : Mach × Bool :=
  let lines := (List.range ((pa + n - 1) / 64 - pa / 64 + 1)).map (fun i => pa / 64 + i)
  let owned := lines.filter (fun l => match m.ent l with
    | some (.o _) => true
    | _ => false)
  if n = 0 ∨ owned.isEmpty then (m, true)
  else (owned.foldl (fun a l => if (a.txn l).isSome then a else a.request l (.fetch x)) m, false)

/-- A write of a record or table entry by Harbour itself, whole, under selector 0 (R127). Where the address lies in no memory that
takes it, it is discarded and logged (R15, R18, R19). -/
def Mach.hubWrite (m : Mach) (pa : Nat) (bs : List Byte) : Mach :=
  if bs.isEmpty || inStackOrShelf pa bs.length then m.ncWrite none none 0 pa bs
  else
    match tierOf pa with
    | .host => (m.hostWrite none pa (.store bs) none).1
    | .registers => m.logE 0x01 0 0 noJob pa
    | .shingle => m.logE 0x02 0x0302 0 noJob pa
    | _ => m.logE 0x02 0x0301 0 noJob pa

/-- A read by Harbour's internal agent at position `x` under selector 0, current at its home (R205): the bytes, and whether they are
poisoned; none while it waits. Reserved addresses read poisoned and a register address, which no internal agent reaches, all ones;
both are logged (R15, R18). -/
def Mach.hubRead (m : Mach) (x pa n : Nat) : Mach × Option (List Byte × Bool) :=
  let t := tierOf pa
  if n ≠ 0 ∧ t ≠ tierOf (pa + n - 1) then (m.logE 0x02 0x0301 x noJob pa, some (List.replicate n 0, true))
  else
    match t with
    | .stack | .shelf | .shingle =>
      let c := m.current x pa n
      if c.2 then (m.shinTouch pa n, some (m.load 0 pa n)) else (c.1, none)
    | .host =>
      if m.lwHeld pa n then (m, none)
      else
        let d := m.load 0 pa n
        (m, some (d.1, d.2 || m.lwUnarmed pa n))
    | .registers => (m.logE 0x01 0 x noJob pa, some (List.replicate n 0xFF, false))
    | _ => (m.logE 0x02 0x0301 x noJob pa, some (List.replicate n 0, true))

/-- The same for words. -/
def Mach.hubWords (m : Mach) (x pa n : Nat) : Mach × Option (List Word × Bool) :=
  let r := m.hubRead x pa (8 * n)
  (r.1, r.2.map (fun (d : List Byte × Bool) => (leWords n d.1, d.2)))

end Sys2Proof.Machine
end

