-- ==== Sys2Proof/Machine/JobOps.lean ====
section
/-!
DEFINITION. What every command of a job shares: the job descriptor's fields, completion and event records, signals,
non-finite counts, the end of a command, its checks at the queue head, and the order of the queues (R43 to R47, R104 to
R146).
-/

namespace Sys2Proof.Machine

/-! The job descriptor (R106) -/

def Job.asid (j : Job) : Nat := bits (wd j.desc 0) 0 16
def Job.prio (j : Job) : Nat := bits (wd j.desc 0) 16 2
def Job.excl (j : Job) : Bool := bits (wd j.desc 0) 18 1 == 1
def Job.weight (j : Job) : Nat := bits (wd j.desc 0) 24 8
def Job.root (j : Job) : Nat := bits (wd j.desc 1) 17 35 * 2 ^ 17
def Job.seed (j : Job) : Nat := (wd j.desc 2).toNat
def Job.keyAllowed (j : Job) (k : Nat) : Bool := bits (wd j.desc 3) k 1 == 1
def Job.cqBase (j : Job) : Nat := bits (wd j.desc 4) 12 40 * 4096
def Job.cqSize (j : Job) : Nat := 2 ^ bits (wd j.desc 4) 0 5
def Job.eqBase (j : Job) : Nat := bits (wd j.desc 5) 12 40 * 4096
def Job.eqSize (j : Job) : Nat := 2 ^ bits (wd j.desc 5) 0 5
def Job.sqBase (j : Job) (r : Nat) : Nat := bits (wd j.desc (6 + r)) 12 40 * 4096
def Job.sqSize (j : Job) (r : Nat) : Nat := 2 ^ bits (wd j.desc (6 + r)) 0 5
def Job.ringTarget (j : Job) (r : Nat) : Nat := bits (wd j.desc (6 + r)) 5 3
def Job.ringEn (j : Job) (r : Nat) : Bool := bits (wd j.desc (6 + r)) 8 1 == 1
/-- First byte and length of the job's core-pool and cluster-pool windows (R107). -/
def Job.cpBase (j : Job) : Nat := bits (wd j.desc 14) 0 6 * 65536
def Job.cpSize (j : Job) : Nat := (bits (wd j.desc 14) 6 6 + 1) * 65536
def Job.kpBase (j : Job) : Nat := bits (wd j.desc 14) 12 8 * 65536
def Job.kpSize (j : Job) : Nat := (bits (wd j.desc 14) 20 8 + 1) * 65536
def Job.switchBase (j : Job) : Nat := bits (wd j.desc 15) 12 40 * 4096
/-- Whether the job uses a die: an enabled ring targets it (R235). -/
def Job.usesDie (j : Job) (d : Nat) : Bool := (List.range 8).any (fun r => j.ringEn r && j.ringTarget r == d)

def Mach.job? (m : Mach) (j : Nat) : Option Job := sget none j m.js.jobs
def Mach.setJob (m : Mach) (j : Nat) (b : Option Job) : Mach :=
  { m with js := { m.js with jobs := sset none j b m.js.jobs } }
def Mach.live (m : Mach) (j : Nat) : Bool := (m.job? j).isSome
/-- Numbers of the live contexts. -/
def Mach.liveJobs (m : Mach) : List Nat := m.js.jobs.map Prod.fst

/-! The command header (R111) -/

def Cmd.cond (c : Cmd) : Nat := bits (wd c.hdr 0) 20 2
def Cmd.soe (c : Cmd) : Bool := bits (wd c.hdr 0) 22 1 == 1
def Cmd.ce (c : Cmd) : Bool := bits (wd c.hdr 0) 23 1 == 1
def Cmd.step (c : Cmd) : Nat := bits (wd c.hdr 1) 0 48
def Cmd.sigEn (c : Cmd) : Bool := bits (wd c.hdr 4) 8 1 == 1
def Cmd.sigEvent (c : Cmd) : Nat := bits (wd c.hdr 4) 0 8
def Cmd.sigValue (c : Cmd) : Nat := bits (wd c.hdr 4) 16 48
def Cmd.core (c : Cmd) : Nat := bits (wd c.hdr 0) 4 6
/-- Opcode of a sequencer command (R113). -/
def Cmd.seqOp (c : Cmd) : Nat := bits (wd c.body 0) 0 8
def Cmd.isFence (c : Cmd) : Bool := c.eng == 0 && c.seqOp == 2
def Cmd.isStepend (c : Cmd) : Bool := c.eng == 0 && c.seqOp == 4
/-- Whether a command is a STEPEND parked until its boundary (R116). -/
def Cmd.parked (c : Cmd) : Bool := c.isStepend && c.phase == .running

def Mach.setCmds (m : Mach) (cs : List Cmd) : Mach := { m with js := { m.js with cmds := cs } }
/-- Replace a command, by its fetch number. -/
def Mach.putCmd (m : Mach) (c : Cmd) : Mach := m.setCmds (m.js.cmds.map (fun k => if k.id = c.id then c else k))
def Mach.cmdOf (m : Mach) (id : Nat) : Option Cmd := m.js.cmds.find? (fun k => k.id == id)

/-! Records and signals -/

/-- A ring's position for its `n`-th record, and the PHASE of that pass (R126). -/
def ringSlot (base size n : Nat) : Nat × Nat := (base + n % size * 32, if n / size % 2 = 0 then 1 else 0)

/-- The words of a record with its PHASE and SEQ in place. -/
def stamp (ws : List Word) (phase phaseBit seq : Nat) : List Word :=
  [BitVec.ofNat 64 ((wd ws 0).toNat + phase * 2 ^ phaseBit), BitVec.ofNat 64 seq, wd ws 2, wd ws 3]

/-- Write a job's next completion record into its ring, which has space, and count it toward an interrupt (R126, R125). -/
def Mach.writeCq (m : Mach) (jn : Nat) (j : Job) (ws : List Word) : Mach :=
  let p := ringSlot j.cqBase j.cqSize j.cqSeq
  let m1 := m.hubWrite p.1 (wordBytes (stamp ws p.2 16 (j.cqSeq + 1)))
  let m2 := m1.fset (Reg.HB_DB_CQ_TAIL_TAIL jn) (m1.fget (Reg.HB_DB_CQ_TAIL_TAIL jn) + 1)
  let want := max 1 (m2.fget (Reg.HB_DB_IRQ_CQ_BATCH jn))
  let ring := m2.flag (Reg.HB_DB_IRQ_CQ_EN jn) && decide (want ≤ j.batch + 1)
  let m3 := m2.setJob jn (some { j with cqSeq := j.cqSeq + 1, batch := if ring then 0 else j.batch + 1 })
  if ring then m3.raise jn else m3

/-- Whether a job's completion ring holds unconsumed records in every position. DEDUCED: log entry 18. -/
def Mach.cqFull (m : Mach) (jn : Nat) (j : Job) : Bool :=
  decide (j.cqSize ≤ (m.fget (Reg.HB_DB_CQ_TAIL_TAIL jn) + 2 ^ 32 - m.fget (Reg.HB_DB_CQ_HEAD_HEAD jn)) % 2 ^ 32)

/-- Whether a job's event ring is full. -/
def Mach.eqFull (m : Mach) (jn : Nat) (j : Job) : Bool :=
  decide (j.eqSize ≤ (j.eqSeq + 2 ^ 32 - m.fget (Reg.HB_DB_EQ_HEAD_HEAD jn)) % 2 ^ 32)

/-- Write an event record (R131): TYPE, status, ring, core, address and word 2; dropped and counted when the ring is full. -/
def Mach.postEvent (m : Mach) (jn type status ring core va w2 : Nat) : Mach :=
  match m.job? jn with
  | none => m
  | some j =>
    if m.eqFull jn j then m.setJob jn (some { j with eventsLost := j.eventsLost + 1 })
    else
      let p := ringSlot j.eqBase j.eqSize j.eqSeq
      let ws : List Word := [BitVec.ofNat 64 (status % 2 ^ 16 + ring * 2 ^ 19 + core * 2 ^ 22 + type * 2 ^ 48), 0,
        BitVec.ofNat 64 w2, BitVec.ofNat 64 (va % 2 ^ 57 + 2 ^ 60)]
      let m1 := m.hubWrite p.1 (wordBytes (stamp ws p.2 16 (j.eqSeq + 1)))
      let m2 := m1.setJob jn (some { j with eqSeq := j.eqSeq + 1 })
      if m2.flag (Reg.HB_DB_IRQ_EQ_EN jn) then m2.raise (64 + jn) else m2

/-- Write a completion record, or keep it in the overflow buffer (R129, R130). DEDUCED: log entry 18. -/
def Mach.postRecord (m : Mach) (jn : Nat) (ws : List Word) : Mach :=
  match m.job? jn with
  | none => m
  | some j =>
    if j.overflow.isEmpty && !m.cqFull jn j then m.writeCq jn j ws
    else
      let m1 := (m.setJob jn (some { j with overflow := j.overflow ++ [ws] })).fset (Reg.HB_DB_CQ_TAIL_HELD jn) 1
      if j.overflow.length + 1 = 64 ∧ !j.cqFullSent then
        (m1.setJob jn (some { j with overflow := j.overflow ++ [ws], cqFullSent := true })).postEvent jn 0x02 0 0 0 0 0
      else m1

/-- Raise an event counter of a job to a value (R117); `tgt` is the signalling sequencer. -/
def Mach.signal (m : Mach) (jn tgt event value : Nat) : Mach :=
  if event < 224 then m.fset (Reg.HB_EVENT_VALUE jn event) (max (m.fget (Reg.HB_EVENT_VALUE jn event)) value)
  else if tgt < 192 then
    m.fset (Reg.RF_EVENT_VALUE (tgt / 48) (tgt % 48) jn (event - 224))
      (max (m.fget (Reg.RF_EVENT_VALUE (tgt / 48) (tgt % 48) jn (event - 224))) value)
  else m

/-- An event counter as the sequencer `tgt` sees it. -/
def Mach.eventVal (m : Mach) (jn tgt event : Nat) : Nat :=
  if event < 224 then m.fget (Reg.HB_EVENT_VALUE jn event)
  else if tgt < 192 then m.fget (Reg.RF_EVENT_VALUE (tgt / 48) (tgt % 48) jn (event - 224))
  else 0

/-- Whether wait word `w` of a header is satisfied (R117). -/
def Mach.waitOk (m : Mach) (c : Cmd) (w : Nat) : Bool :=
  bits (wd c.hdr w) 8 1 == 0 ||
    decide (bits (wd c.hdr w) 16 48 ≤ m.eventVal c.job c.tgt (bits (wd c.hdr w) 0 8))

/-! Non-finite counts (R42 to R47) -/

/-- Count elements on a core: class, engine code of RF_NF_LAST, job, step (R100). -/
def Mach.countNf (m : Mach) (tgt cls eng jn step n : Nat) : Mach :=
  if cls = 0 ∨ n = 0 ∨ 192 ≤ tgt then m
  else
    let d := tgt / 48
    let c := tgt % 48
    let m1 := if cls = 1 then m.fadd (Reg.RF_NF_GRAD_COUNT d c) n
      else if cls = 2 then m.fadd (Reg.RF_NF_LOSS_COUNT d c) n else m.fadd (Reg.RF_NF_MON_COUNT d c) n
    let m2 := m1.rset (Reg.RF_NF_SRC d c) (m1.rget (Reg.RF_NF_SRC d c) ||| BitVec.ofNat 64 (2 ^ eng))
    m2.rset (Reg.RF_NF_LAST d c)
      (BitVec.ofNat 64 (jn + cls * 2 ^ 6 + eng * 2 ^ 8 + step % 2 ^ 32 * 2 ^ 10 + 2 ^ 42))

/-- Add a completing command's counted total to its job's step counts (R43, R45, R47). -/
def Mach.addStepNf (m : Mach) (jn step cls n : Nat) : Mach :=
  if n = 0 ∨ (cls ≠ 1 ∧ cls ≠ 2) then m
  else
    match m.job? jn with
    | none => m
    | some j =>
      if step = j.step then
        let m1 := if cls = 1 then m.fadd (Reg.HB_FIN_COUNT_GRAD_NF jn) n else m.fadd (Reg.HB_FIN_COUNT_LOSS_NF jn) n
        let m2 := m1.fset (Reg.HB_FIN_STATE_LOCAL_NF jn) 1
        if j.lastSent || m2.flag (Reg.HB_FIN_STATE_FINAL jn) then
          ((m2.fset (Reg.HB_FIN_STATE_LATE_NF jn) 1).logE 0x07 0 0 jn n).postEvent jn 0x05 0 0 0 0 0
        else m2
      else if step = j.step + 1 then
        m.setJob jn (some { j with nextNf :=
          if cls = 1 then { j.nextNf with grad := min (j.nextNf.grad + n) (2 ^ 32 - 1) }
          else { j.nextNf with loss := min (j.nextNf.loss + n) (2 ^ 32 - 1) } })
      else m

/-! The end of a command (R119, R129, R140 to R143) -/

/-- CLS of a command's body (R42): each engine's descriptor has its own place for it. -/
def Cmd.cls (c : Cmd) : Nat :=
  if c.eng = 1 ∨ c.eng = 2 then bits (wd c.body 0) 23 2
  else if c.eng = 3 ∨ c.eng = 4 then bits (wd c.body 0) 2 2
  else if c.eng = 5 then bits (wd c.body 0) 22 2
  else 0

/-- The engine of a command stands idle: its state registers read so (R78, R101). DESIGN CHOICE: log entry 62. -/
def Mach.engineIdle (m : Mach) (tgt eng : Nat) : Mach :=
  if 192 ≤ tgt then m
  else
    let d := tgt / 48
    let c := tgt % 48
    if eng = 1 then
      let m1 := ((m.fset (Reg.RF_MX_STATE_BUSY d c) 0).fset (Reg.RF_MX_STATE_DRAINING d c) 0).fset (Reg.RF_MX_STATE_HELD d c) 0
      if m1.js.planFlush.contains tgt then
        { m1 with js := { m1.js with
          plans := m1.js.plans.filter (fun p => p.1 != tgt)
          planFlush := m1.js.planFlush.filter (fun t => t != tgt) } }
      else m1
    else if eng = 2 then m.fset (Reg.RF_MV_STATE_BUSY d c) 0
    else if eng = 3 then (m.fset (Reg.RF_VX_STATE_BUSY d c) 0).fset (Reg.RF_VX_STATE_WAIT d c) 0
    else m

/-- The state register of a core's engine (R78, R101). -/
def engineReg (tgt eng : Nat) : Option Nat :=
  if 192 ≤ tgt then none
  else if eng = 1 then some (Reg.RF_MX_STATE (tgt / 48) (tgt % 48))
  else if eng = 2 then some (Reg.RF_MV_STATE (tgt / 48) (tgt % 48))
  else if eng = 3 then some (Reg.RF_VX_STATE (tgt / 48) (tgt % 48))
  else none

/-- A command that leaves its engine at a fault keeps what the engine's state register shows of it. -/
def Mach.shown (m : Mach) (c : Cmd) : Cmd :=
  match engineReg c.tgt c.eng with
  | some a => { c with run := sset 0 255 (m.rget a).toNat c.run }
  | none => c

/-- A command that takes its engine up again shows in the engine's state register as it did. -/
def Mach.engineShow (m : Mach) (c : Cmd) : Mach :=
  match engineReg c.tgt c.eng with
  | some a => m.rset a (BitVec.ofNat 64 (sget 0 255 c.run))
  | none => m

/-- Whether a command runs on an engine. -/
def Mach.engineRuns (m : Mach) (tgt eng : Nat) : Bool := m.js.cmds.any (fun k => k.tgt == tgt && k.eng == eng && k.phase == .running)

/-- The command of a list with the lowest dispatch number. -/
def firstQ : List Cmd → Option Cmd
  | [] => none
  | c :: cs =>
    match firstQ cs with
    | none => some c
    | some d => if d.qn < c.qn then some d else some c

/-- A command has left an engine: a switched-out command whose fault has been resolved meanwhile takes it up again (R138), or it stands
idle. -/
def Mach.engineNext (m : Mach) (tgt eng : Nat) : Mach :=
  if m.engineRuns tgt eng then m
  else
    let m1 := m.engineIdle tgt eng
    match firstQ (m1.js.cmds.filter (fun k => k.tgt == tgt && k.eng == eng && k.phase == .switched && k.fault.isNone)) with
    | some k => (m1.putCmd { k with phase := .running }).engineShow k
    | none => m1

/-- Stop a ring (R125, R142, R461): STOPPED, and a RING_STOPPED event record with the status. DESIGN CHOICE: log entry 19. -/
def Mach.stopRing (m : Mach) (jn r status : Nat) : Mach :=
  if m.flag (Reg.HB_DB_SQ_HEAD_STOPPED jn r) then m
  else (m.fset (Reg.HB_DB_SQ_HEAD_STOPPED jn r) 1).postEvent jn 0x01 status r 0 0 0

/-- The completion record of a command (R126); SIG tells whether its signal was performed. -/
def Cmd.record (c : Cmd) (status aux va : Nat) (skipped sig : Bool) : List Word :=
  let cls := status / 256
  [BitVec.ofNat 64 (status + (if skipped then 2 ^ 17 else 0) + (if sig then 2 ^ 18 else 0) + c.ring % 8 * 2 ^ 19 +
      c.core * 2 ^ 22 + bits (wd c.hdr 0) 0 4 * 2 ^ 28 + c.slot * 2 ^ 32 + (if status = 0x0101 then aux else 0) * 2 ^ 48),
   0, wd c.hdr 5, BitVec.ofNat 64 ((if cls = 3 ∨ cls = 4 then va % 2 ^ 57 else 0) + 2 ^ 60)]

/-- IK_UNITS as the samples on units make it (R304). -/
def Mach.ikUnits (m : Mach) : Mach :=
  let on := m.ik.run.flatMap (fun c => (c.slots ++ c.rsv).filterMap (fun x => x.unit))
  m.rset Reg.IK_UNITS (BitVec.ofNat 64 ((List.range 56).foldl (fun a i => if on.contains i then a + 2 ^ i else a) 0))

/-- An Intake command leaves Intake: its units fall free. -/
def Mach.ikDrop (m : Mach) (id : Nat) : Mach :=
  if m.ik.run.any (fun c => c.id == id) then
    ({ m with ik := { m.ik with run := m.ik.run.filter (fun c => c.id != id) } }).ikUnits
  else m

/-- HB_CL_STATE as the collective engine's queue makes it (R369). -/
def Mach.clCount (m : Mach) : Mach :=
  let mine := m.js.cmds.filter (fun c => c.tgt == 192 && c.eng == 5)
  (m.fset Reg.HB_CL_STATE_RUNNING (mine.filter (fun c => c.phase == .running)).length).fset Reg.HB_CL_STATE_QUEUED
    (mine.filter (fun c => c.phase == .queued)).length

/-- A command leaves the collective engine (R357, R369): it is counted, and its contexts are free for the next. `row` of the
command holds the position whose connection or data failed it. -/
def Mach.clDrop (m : Mach) (c : Cmd) (status : Nat) : Mach :=
  if c.eng ≠ 5 then m
  else
    let mine := m.cl.runs.filter (fun r => r.id == c.id)
    let m1 := { m with cl := { m.cl with
      runs := m.cl.runs.filter (fun r => r.id != c.id)
      past := mine.foldl (fun a (r : ClRun) => r.ctxs.foldl (fun b x => sset 0 x (r.cseq + 1) b) a) m.cl.past } }
    let m2 := if status = 0 then m1.fadd Reg.HB_CL_CNT_DONE 1
      else ((((m1.fadd Reg.HB_CL_CNT_FAILED 1).fset Reg.HB_CL_LAST_STATUS status).fset Reg.HB_CL_LAST_JOB c.job).fset
        Reg.HB_CL_LAST_POS c.row).fset Reg.HB_CL_LAST_VALID 1
    m2.clCount

/-- Whether a command that completes with a status stops its ring (R142). -/
def Cmd.stops (c : Cmd) (status : Nat) : Bool := c.soe && status != 0 && status != 0x0102 && status != 0x0503

/-- A command stops its ring if it must. -/
def Mach.stopFor (m : Mach) (c : Cmd) (status : Nat) : Mach := if c.stops status then m.stopRing c.job c.ring status else m

/-- The engine lets go of a command whose outcome is settled: it stands by, ended, until it completes. -/
def Mach.release (m : Mach) (c : Cmd) (status : Nat) : Mach :=
  let m1 := { m with js := { m.js with
    cmds := m.js.cmds.map (fun (k : Cmd) => if k.id = c.id then { k with phase := Phase.ended } else k)
    outst := sset 0 c.id 0 m.js.outst
    agentFail := if c.ring = 8 then sset 0 c.id status m.js.agentFail else m.js.agentFail } }
  let m2 := if c.phase = .running then m1.engineNext c.tgt c.eng else m1
  (m2.ikDrop c.id).clDrop c status

/-- A command completes: it leaves every queue, its counts reach its job, and its signal and record follow (R43, R119, R129). -/
def Mach.post (m : Mach) (c : Cmd) (status aux va : Nat) (skipped : Bool) : Mach :=
  let sig := c.sigEn && (status == 0 || !c.soe)
  let m1 := (m.setCmds (m.js.cmds.filter (fun k => k.id != c.id))).addStepNf c.job c.step c.cls c.nf
  let m2 := if sig then m1.signal c.job c.tgt c.sigEvent c.sigValue else m1
  if c.ce || status != 0 then m2.postRecord c.job (c.record status aux va skipped sig) else m2

/-- Whether an earlier command of a command's ring is left for its engine and core, so that its record waits (R128). A parked STEPEND holds
nothing back, and a STEPEND waits for its boundary alone (R116). DESIGN CHOICE: log entry 19. -/
def Mach.waitsTurn (m : Mach) (c : Cmd) : Bool :=
  !c.isStepend && m.js.cmds.any (fun k =>
    k.job == c.job && k.ring == c.ring && k.tgt == c.tgt && k.eng == c.eng && decide (k.id < c.id) && !k.parked)

/-- Complete the commands whose outcome is settled and whose turn has come; the number bounds them. -/
def Mach.flushEnded (m : Mach) : Nat → Mach
  | 0 => m
  | n + 1 =>
    match m.js.cmds.find? (fun c => c.phase == .ended && !m.waitsTurn c) with
    | none => m
    | some c => (m.post c (c.status.getD 0) c.aux c.va c.skipped).flushEnded n

/-- Keep a settled command until its turn. -/
def Mach.keep (m : Mach) (c : Cmd) : Mach :=
  if m.js.cmds.any (fun k => k.id == c.id) then m.putCmd c else m.setCmds (m.js.cmds ++ [c])

/-- A command is done: its engine lets go of it, its ring stops if it must, and it completes in its turn. -/
def Mach.retire (m : Mach) (c : Cmd) (status aux va : Nat) (skipped : Bool) : Mach :=
  let m1 := if c.phase = .ended then m else m.release c status
  if m1.waitsTurn c then
    (m1.keep { c with
      phase := .ended
      status := some status
      aux := aux
      va := va
      skipped := skipped
      fault := none }).stopFor c status
  else
    ((m1.post c status aux va skipped).stopFor c status).flushEnded (m1.js.cmds.filter (fun k => k.phase == .ended)).length

/-- End the commands of a list that are left with one status. -/
def Mach.retireAll (m : Mach) (status : Nat) : List Cmd → Mach
  | [] => m
  | c :: cs =>
    (match m.cmdOf c.id with
     | some k => m.retire k status 0 0 false
     | none => m).retireAll status cs

/-- The task that a job's next command for a core belongs to (R143). -/
def Mach.taskNow (m : Mach) (jn tgt : Nat) : Nat := sget 0 (jn * 256 + tgt) m.js.tasks

/-- Carry status 0x0502 or 0x0F01 through the rest of a task (R143): its commands that have not started, the FENCE that ends it
among them and STEPENDs excepted; and those to be fetched, while that FENCE is one of them. -/
def Mach.failTask (m : Mach) (jn tgt task status : Nat) : Mach :=
  let m1 := m.retireAll status (m.js.cmds.filter (fun k =>
    k.job == jn && k.tgt == tgt && k.task == task && (k.phase == .pending || k.phase == .queued) && !k.isStepend))
  if task = m.taskNow jn tgt then { m1 with js := { m1.js with failTask := (jn, tgt, task, status) :: m1.js.failTask } } else m1

/-- A command completes with a status; 0x0502 and 0x0F01 carry through its task. -/
def Mach.finish (m : Mach) (c : Cmd) (status aux va : Nat) (skipped : Bool) : Mach :=
  let m1 := m.retire c status aux va skipped
  if status = 0x0502 ∨ status = 0x0F01 then m1.failTask c.job c.tgt c.task status else m1

/-- A job fails with 0x0503 (R143): every command of it completes so, and a JOB_FAILED record is written, whose CORE is that of
the command which failed it and whose ring is that command's, both 0 where a fence did. DEDUCED: log entry 35. -/
def Mach.failJob (m : Mach) (jn ring core : Nat) : Mach :=
  match m.job? jn with
  | none => m
  | some j =>
    if j.failed then m
    else
      let m0 := m.setCmds (m.js.cmds.map (fun (k : Cmd) => if k.job = jn ∧ k.phase = Phase.ended then { k with status := some 0x0503 } else k))
      let m1 := m0.setJob jn (some { j with failed := true })
      (m1.retireAll 0x0503 (m1.js.cmds.filter (fun k => k.job == jn))).postEvent jn 0x06 0x0503 ring core 0 0

/-! The queues (R104, R132) -/

/-- The command at the head of an engine queue: dispatched, not switched out, not a parked STEPEND (R133). A command starts only once the
one before it has completed, its writes home, so that ORDER (R75, R98) changes nothing. DESIGN CHOICE: log entry 66. -/
def Mach.queueHead (m : Mach) (tgt eng : Nat) : Option Cmd :=
  firstQ (m.js.cmds.filter (fun c =>
    c.tgt == tgt && c.eng == eng && (c.phase == .queued || c.phase == .running) && !c.parked))

/-- The running command of an engine, if its head runs. -/
def Mach.running (m : Mach) (tgt eng : Nat) : Option Cmd :=
  (m.queueHead tgt eng).filter (fun c => c.phase == .running)

/-- The conditions of R141 in order, as an AUX; exclusive mode is asked of SELFTEST and POOLCLEAR alone. -/
def Mach.stateAux (m : Mach) (c : Cmd) (needsExcl : Bool) : Option Nat :=
  match m.job? c.job with
  | none => some 0x01
  | some j =>
    if c.step ≠ j.step ∧ c.step ≠ j.step + 1 then some 0x01
    else if (c.cond = 1 ∨ c.cond = 2) ∧ !(c.step = j.step ∧ m.flag (Reg.HB_FIN_STATE_FINAL c.job)) then some 0x02
    else if needsExcl ∧ !j.excl then some 0x04
    else if j.stepEnds.any (fun p => p.1 == c.ring && p.2.1 == c.step && decide (p.2.2 < c.id)) then some 0x05
    else none

/-- Whether R46 skips a command whose flag is final. -/
def Mach.condSkips (m : Mach) (c : Cmd) : Bool :=
  let fin := m.flag (Reg.HB_FIN_STATE_FINITE c.job)
  (c.cond == 1 && !fin) || (c.cond == 2 && fin)

/-- A command reaches its queue head (R140): the command there must be queued and satisfy `is`; a failed descriptor check
completes it with that status, a state check with 0x0101, a skip with 0x0000; otherwise `go` begins it. -/
def Mach.atHead (m : Mach) (tgt eng : Nat) (is : Cmd → Bool) (check : Mach → Cmd → Option Nat) (needsExcl : Bool)
    (go : Mach → Cmd → Mach) : Mach :=
  match m.queueHead tgt eng with
  | none => m
  | some c =>
    if c.phase = .queued ∧ is c then
      match check m c with
      | some st => m.finish c st 0 0 false
      | none =>
        match m.stateAux c needsExcl with
        | some aux => m.finish c 0x0101 aux 0 false
        | none => if m.condSkips c then m.finish c 0 0 0 true else go m c
    else m

/-- Mark a command running. -/
def Mach.run (m : Mach) (c : Cmd) : Mach := m.putCmd { c with phase := .running }

/-- Discard a job's far-cache lines on a die (R114, R108). -/
def Mach.dropFar (m : Mach) (p : FarLine → Bool) : Mach :=
  { m with mem := { m.mem with far := m.mem.far.filter (fun l => !p l) } }

end Sys2Proof.Machine
end

