-- ==== Sys2Proof/Machine/PowerOps.lean ====
section
/-!
DEFINITION. What other families share of the power modes and of ownership: holding and releasing jobs at their step
boundaries (R134), waking from Slack (R433), and who may write an owned register (R258).
-/

namespace Sys2Proof.Machine

/-- Add or remove a module action's hold on a job (R134). -/
def Mach.holdJob (m : Mach) (why : Nat) (on : Bool) (jn : Nat) : Mach :=
  match m.job? jn with
  | none => m
  | some j =>
    let rest := j.held.filter (fun w => w != why)
    m.setJob jn (some { j with held := if on then why :: rest else rest })

/-- Release every job that an action holds. -/
def Mach.releaseAll (m : Mach) (why : Nat) : Mach := m.liveJobs.foldl (fun a jn => a.holdJob why false jn) m

def Mach.setMode (m : Mach) (p : ModePhase) : Mach := { m with pw := { m.pw with phase := p } }

/-! Clocks (R429, R434, R437, R438) -/

/-- Reef arithmetic clock, Headland clock and input cap of a mode. -/
def modeReef (mode : Nat) : Nat := if mode = 0 then 1900 else if mode = 1 then 1700 else if mode = 2 then 1200 else 0
def modeHead (mode : Nat) : Nat := if mode = 0 ∨ mode = 1 then 3200 else if mode = 2 then 2400 else 800
def modeCap (mode : Nat) : Nat := if mode = 0 then 3400 else if mode = 1 then 2950 else 2000

/-- Percent of the mode clock that a thermal step leaves (R176). -/
def thermalPct (step : Nat) : Nat := if step = 0 then 100 else if step = 1 then 90 else if step = 2 then 75 else 50

/-- The Headland clock in force (R429, R434, R437). -/
def Mach.headClock (m : Mach) : Nat :=
  let mode := modeHead (m.fget Reg.PW_MODE_MODE)
  let hot := if m.lh.hlStep = 0 then 3200 else if m.lh.hlStep = 1 then 2400 else 1600
  min mode (min hot (if m.flag Reg.PW_CAP_HEADLAND then 1600 else 3200))

/-- A Reef die's clock in force (R438); 0 while gated or not in service. -/
def Mach.reefClock (m : Mach) (d : Nat) : Nat :=
  let pct := min (thermalPct (m.fget (Reg.PW_CLK_TSTEP d))) (100 - 5 * m.fget Reg.PW_CAP_STEP)
  if m.dieUp d then modeReef (m.fget Reg.PW_MODE_MODE) * pct / 100 else 0

/-- Show the clocks in force. -/
def Mach.setClocks (m : Mach) : Mach :=
  let gated := if m.fget Reg.PW_MODE_MODE = 3 then 1 else 0
  ((List.range 4).foldl (fun a d => (a.fset (Reg.PW_CLK_MHZ d) (a.reefClock d)).fset (Reg.PW_CLK_GATED d) gated) m).fset
    Reg.HL_CLK_MHZ m.headClock

/-! Domains (R426) -/

/-- Set the state of domains: 0 off, 1 ramping, 2 on, 3 failed (R442). -/
def Mach.setDoms (m : Mach) (st : Nat) (ds : List Nat) : Mach := ds.foldl (fun a n => a.fset (Reg.PW_DOM_STATE n) st) m

/-- The domains of a Reef die, and those of its matrix arrays. -/
def dieDoms (d : Nat) : List Nat := (List.range 24).map (fun i => 24 * d + i)
def arrayDoms (d : Nat) : List Nat := (List.range 6).map (fun c => 24 * d + 3 + 3 * c)

/-- Reef core voltage of a mode, in mV (R429). -/
def modeMv (mode : Nat) : Nat := if mode = 0 then 850 else if mode = 1 then 780 else if mode = 2 then 650 else 600

/-- The cluster domains of a Reef die run at the core voltage of the mode in force. -/
def Mach.coreVolts (m : Mach) (d : Nat) : Mach :=
  (List.range 18).foldl (fun a i => a.fset (Reg.PW_DOM_SET_MV (24 * d + 3 + i)) (modeMv (a.fget Reg.PW_MODE_MODE))) m

/-- A Reef die's domains come on in the mode in force: in Slack without its matrix arrays (R432, R438). -/
def Mach.dieOn (m : Mach) (d : Nat) : Mach :=
  let m1 := (m.setDoms 2 (dieDoms d)).coreVolts d
  if m1.fget Reg.PW_MODE_MODE = 3 then m1.setDoms 0 (arrayDoms d) else m1

/-! Actions at step boundaries (R22, R134) -/

/-- Hold for an action the jobs that stand at a step boundary. DEDUCED: log entry 20. -/
def Mach.holdIdle (m : Mach) (why : Nat) (mine : Job → Bool) : Mach :=
  m.liveJobs.foldl (fun a jn => match a.job? jn with
    | some j => if mine j ∧ !j.begun then a.holdJob why true jn else a
    | none => a) m

/-- Whether every job that an action concerns has reached its boundary. -/
def Mach.allHeld (m : Mach) (why : Nat) (mine : Job → Bool) : Bool :=
  m.liveJobs.all (fun jn => match m.job? jn with
    | some j => !mine j || j.held.contains why
    | none => true)

/-- The reload that waits for its jobs (R367). -/
def Mach.reloadWaits (m : Mach) : Option FwOp := m.fw.op.filter (fun o => o.reload && m.fget Reg.HB_FW_STATUS_PHASE == 3)

/-- Begin the actions whose jobs have all reached their boundaries: a mode change, and a reload. -/
def Mach.tryActions (m : Mach) : Mach :=
  let m1 := match m.pw.phase with
    | .waiting req => if m.allHeld 0 (fun _ => true) then m.setMode (.changing req) else m
    | _ => m
  match m1.reloadWaits with
  | some o => if m1.allHeld (2 + o.target) (fun j => j.usesDie o.target) then m1.fset Reg.HB_FW_STATUS_PHASE 4 else m1
  | none => m1

/-- A job no longer has a boundary to reach before Slack. -/
def Mach.notDue (m : Mach) (jn : Nat) : Mach := { m with pw := { m.pw with due := m.pw.due.filter (fun x => x != jn) } }

/-- A request for a mode is abandoned (R431, R433): its jobs are released, STATUS reads 0x0101 and BUSY clears. -/
def Mach.abandonMode (m : Mach) : Mach :=
  ((((m.releaseAll 0).setMode .idle).fset Reg.PW_MODE_STATUS 0x0101).fset Reg.PW_MODE_BUSY 0)

/-- A wake reaches the module (R433): it abandons an entry in progress, or begins leaving Slack for the mode given. -/
def Mach.slackWake (m : Mach) (target : Nat) : Mach :=
  match m.pw.phase with
  | .entering => m.abandonMode
  | .idle =>
    if m.fget Reg.PW_MODE_MODE = 3 then (m.setMode (.leaving target)).fset Reg.PW_MODE_BUSY 1 else m
  | _ => m

/-- A doorbell wakes the module while DOORBELL_WAKE is 1 (R433). -/
def Mach.doorbellWake (m : Mach) : Mach :=
  if m.flag Reg.PW_CFG_DOORBELL_WAKE then m.slackWake (m.fget Reg.PW_MODE_PREV) else m

/-- A write that only the agent named by OWNER may make (R258): from another agent it changes nothing and is logged.
Lighthouse is never restricted. -/
def Mach.owned (m : Mach) (a : Agent) (addr : Nat) (f : Mach → Mach) : Mach :=
  let o := m.fget Reg.HL_DRV_OWNER_OWNER
  if a = .lighthouse ∨ (o ≠ 0 ∧ a.ownerCode = o) then f m else m.logE 0x01 0 0 noJob addr

end Sys2Proof.Machine
end

