-- ==== Sys2Proof/Machine/Hash.lean ====
section
/-!
DEFINITION. SHA-384 (R402, R407) and SHA-256 (R403), as FIPS 180-4 defines them: the digest of a list of bytes. PRESUMED: log entry 55.
-/

namespace Sys2Proof.Machine

/-! The constants of the 80 rounds and the first hash value -/

def shaK0 : List Word := [
   0x428A2F98D728AE22, 0x7137449123EF65CD, 0xB5C0FBCFEC4D3B2F, 0xE9B5DBA58189DBBC,
   0x3956C25BF348B538, 0x59F111F1B605D019, 0x923F82A4AF194F9B, 0xAB1C5ED5DA6D8118,
   0xD807AA98A3030242, 0x12835B0145706FBE, 0x243185BE4EE4B28C, 0x550C7DC3D5FFB4E2,
   0x72BE5D74F27B896F, 0x80DEB1FE3B1696B1, 0x9BDC06A725C71235, 0xC19BF174CF692694,
   0xE49B69C19EF14AD2, 0xEFBE4786384F25E3, 0x0FC19DC68B8CD5B5, 0x240CA1CC77AC9C65]

def shaK1 : List Word := [
   0x2DE92C6F592B0275, 0x4A7484AA6EA6E483, 0x5CB0A9DCBD41FBD4, 0x76F988DA831153B5,
   0x983E5152EE66DFAB, 0xA831C66D2DB43210, 0xB00327C898FB213F, 0xBF597FC7BEEF0EE4,
   0xC6E00BF33DA88FC2, 0xD5A79147930AA725, 0x06CA6351E003826F, 0x142929670A0E6E70,
   0x27B70A8546D22FFC, 0x2E1B21385C26C926, 0x4D2C6DFC5AC42AED, 0x53380D139D95B3DF,
   0x650A73548BAF63DE, 0x766A0ABB3C77B2A8, 0x81C2C92E47EDAEE6, 0x92722C851482353B]

def shaK2 : List Word := [
   0xA2BFE8A14CF10364, 0xA81A664BBC423001, 0xC24B8B70D0F89791, 0xC76C51A30654BE30,
   0xD192E819D6EF5218, 0xD69906245565A910, 0xF40E35855771202A, 0x106AA07032BBD1B8,
   0x19A4C116B8D2D0C8, 0x1E376C085141AB53, 0x2748774CDF8EEB99, 0x34B0BCB5E19B48A8,
   0x391C0CB3C5C95A63, 0x4ED8AA4AE3418ACB, 0x5B9CCA4F7763E373, 0x682E6FF3D6B2B8A3,
   0x748F82EE5DEFB2FC, 0x78A5636F43172F60, 0x84C87814A1F0AB72, 0x8CC702081A6439EC]

def shaK3 : List Word := [
   0x90BEFFFA23631E28, 0xA4506CEBDE82BDE9, 0xBEF9A3F7B2C67915, 0xC67178F2E372532B,
   0xCA273ECEEA26619C, 0xD186B8C721C0C207, 0xEADA7DD6CDE0EB1E, 0xF57D4F7FEE6ED178,
   0x06F067AA72176FBA, 0x0A637DC5A2C898A6, 0x113F9804BEF90DAE, 0x1B710B35131C471B,
   0x28DB77F523047D84, 0x32CAAB7B40C72493, 0x3C9EBE0A15C9BEBC, 0x431D67C49C100D4C,
   0x4CC5D4BECB3E42B6, 0x597F299CFC657E2A, 0x5FCB6FAB3AD6FAEC, 0x6C44198C4A475817]

/-- The constants of the rounds: of the cube roots of the first 80 primes, the first 64 fraction bits. -/
def shaK : List Word := shaK0 ++ shaK1 ++ shaK2 ++ shaK3

/-- The eight working words of a compression. -/
structure Sha where
  a : Word
  b : Word
  c : Word
  d : Word
  e : Word
  f : Word
  g : Word
  h : Word
  deriving DecidableEq, Repr

/-- The hash value a digest begins with. -/
def shaStart : Sha :=
  ⟨0xCBBB9D5DC1059ED8, 0x629A292A367CD507, 0x9159015A3070DD17, 0x152FECD8F70E5939,
   0x67332667FFC00B31, 0x8EB44A8768581511, 0xDB0C2E0D64F98FA7, 0x47B5481DBEFA4FA4⟩

/-! A block of 128 bytes -/

def shaSmall0 (x : Word) : Word := x.rotateRight 1 ^^^ x.rotateRight 8 ^^^ x >>> 7

def shaSmall1 (x : Word) : Word := x.rotateRight 19 ^^^ x.rotateRight 61 ^^^ x >>> 6

def shaBig0 (x : Word) : Word := x.rotateRight 28 ^^^ x.rotateRight 34 ^^^ x.rotateRight 39

def shaBig1 (x : Word) : Word := x.rotateRight 14 ^^^ x.rotateRight 18 ^^^ x.rotateRight 41

/-- One round, with its constant and its word of the message schedule. -/
def Sha.round (s : Sha) (k w : Word) : Sha :=
  let t1 := s.h + shaBig1 s.e + ((s.e &&& s.f) ^^^ (~~~s.e &&& s.g)) + k + w
  let t2 := shaBig0 s.a + ((s.a &&& s.b) ^^^ (s.a &&& s.c) ^^^ (s.b &&& s.c))
  ⟨t1 + t2, s.a, s.b, s.c, s.d + t1, s.e, s.f, s.g⟩

/-- The rounds over the constants left, the message schedule held as the sixteen words next in turn. -/
def Sha.rounds : List Word → Sha → List Word → Sha
  | [], s, _ => s
  | k :: ks, s, w =>
    let next := shaSmall1 (w.getD 14 0) + w.getD 9 0 + shaSmall0 (w.getD 1 0) + w.getD 0 0
    Sha.rounds ks (s.round k (w.getD 0 0)) (w.drop 1 ++ [next])

/-- The hash value after a block, given as its sixteen words. -/
def Sha.block (s : Sha) (w : List Word) : Sha :=
  let r := Sha.rounds shaK s w
  ⟨s.a + r.a, s.b + r.b, s.c + r.c, s.d + r.d, s.e + r.e, s.f + r.f, s.g + r.g, s.h + r.h⟩

/-! The whole message -/

/-- A number of bytes, the first the most significant (R401). -/
def beNat (bs : List Byte) : Nat := bs.foldl (fun n b => n * 256 + b.toNat) 0

/-- The `n` bytes of a number, the most significant first (R401). -/
def beBytes (n v : Nat) : List Byte := (List.range n).map (fun i => BitVec.ofNat 8 (v / 256 ^ (n - 1 - i)))

/-- A message with its padding, to a multiple of a block of `size` bytes: a one bit, zeros, and its length in bits in the last
eighth of the block. -/
def shaPadded (size : Nat) (bs : List Byte) : List Byte :=
  let n := bs.length + 1 + size / 8
  bs ++ [0x80] ++ List.replicate ((size - n % size) % size) 0 ++ beBytes (size / 8) (8 * bs.length)

/-- The hash value after `n` blocks of the bytes. -/
def Sha.over : Nat → Sha → List Byte → Sha
  | 0, s, _ => s
  | n + 1, s, bs =>
    Sha.over n (s.block ((List.range 16).map (fun i => BitVec.ofNat 64 (beNat ((bs.drop (8 * i)).take 8))))) (bs.drop 128)

/-- SHA-384 of bytes: the first six words of the last hash value. -/
def sha384 (bs : List Byte) : List Byte :=
  let p := shaPadded 128 bs
  let r := Sha.over (p.length / 128) shaStart p
  [r.a, r.b, r.c, r.d, r.e, r.f].flatMap (fun w => beBytes 8 w.toNat)

/-! SHA-256: the same on words of 32 bits, in 64 rounds over blocks of 64 bytes -/

def shaQ0 : List (BitVec 32) := [
   0x428A2F98, 0x71374491, 0xB5C0FBCF, 0xE9B5DBA5, 0x3956C25B, 0x59F111F1, 0x923F82A4, 0xAB1C5ED5,
   0xD807AA98, 0x12835B01, 0x243185BE, 0x550C7DC3, 0x72BE5D74, 0x80DEB1FE, 0x9BDC06A7, 0xC19BF174]

def shaQ1 : List (BitVec 32) := [
   0xE49B69C1, 0xEFBE4786, 0x0FC19DC6, 0x240CA1CC, 0x2DE92C6F, 0x4A7484AA, 0x5CB0A9DC, 0x76F988DA,
   0x983E5152, 0xA831C66D, 0xB00327C8, 0xBF597FC7, 0xC6E00BF3, 0xD5A79147, 0x06CA6351, 0x14292967]

def shaQ2 : List (BitVec 32) := [
   0x27B70A85, 0x2E1B2138, 0x4D2C6DFC, 0x53380D13, 0x650A7354, 0x766A0ABB, 0x81C2C92E, 0x92722C85,
   0xA2BFE8A1, 0xA81A664B, 0xC24B8B70, 0xC76C51A3, 0xD192E819, 0xD6990624, 0xF40E3585, 0x106AA070]

def shaQ3 : List (BitVec 32) := [
   0x19A4C116, 0x1E376C08, 0x2748774C, 0x34B0BCB5, 0x391C0CB3, 0x4ED8AA4A, 0x5B9CCA4F, 0x682E6FF3,
   0x748F82EE, 0x78A5636F, 0x84C87814, 0x8CC70208, 0x90BEFFFA, 0xA4506CEB, 0xBEF9A3F7, 0xC67178F2]

/-- The constants of the rounds: of the cube roots of the first 64 primes, the first 32 fraction bits. -/
def shaQ : List (BitVec 32) := shaQ0 ++ shaQ1 ++ shaQ2 ++ shaQ3

/-- The eight working words of a compression. -/
structure Sha2 where
  a : BitVec 32
  b : BitVec 32
  c : BitVec 32
  d : BitVec 32
  e : BitVec 32
  f : BitVec 32
  g : BitVec 32
  h : BitVec 32
  deriving DecidableEq, Repr

/-- The hash value a digest begins with. -/
def sha2Start : Sha2 :=
  ⟨0x6A09E667, 0xBB67AE85, 0x3C6EF372, 0xA54FF53A, 0x510E527F, 0x9B05688C, 0x1F83D9AB, 0x5BE0CD19⟩

def sha2Small0 (x : BitVec 32) : BitVec 32 := x.rotateRight 7 ^^^ x.rotateRight 18 ^^^ x >>> 3

def sha2Small1 (x : BitVec 32) : BitVec 32 := x.rotateRight 17 ^^^ x.rotateRight 19 ^^^ x >>> 10

def sha2Big0 (x : BitVec 32) : BitVec 32 := x.rotateRight 2 ^^^ x.rotateRight 13 ^^^ x.rotateRight 22

def sha2Big1 (x : BitVec 32) : BitVec 32 := x.rotateRight 6 ^^^ x.rotateRight 11 ^^^ x.rotateRight 25

/-- One round, with its constant and its word of the message schedule. -/
def Sha2.round (s : Sha2) (k w : BitVec 32) : Sha2 :=
  let t1 := s.h + sha2Big1 s.e + ((s.e &&& s.f) ^^^ (~~~s.e &&& s.g)) + k + w
  let t2 := sha2Big0 s.a + ((s.a &&& s.b) ^^^ (s.a &&& s.c) ^^^ (s.b &&& s.c))
  ⟨t1 + t2, s.a, s.b, s.c, s.d + t1, s.e, s.f, s.g⟩

/-- The rounds over the constants left, the message schedule held as the sixteen words next in turn. -/
def Sha2.rounds : List (BitVec 32) → Sha2 → List (BitVec 32) → Sha2
  | [], s, _ => s
  | k :: ks, s, w =>
    let next := sha2Small1 (w.getD 14 0) + w.getD 9 0 + sha2Small0 (w.getD 1 0) + w.getD 0 0
    Sha2.rounds ks (s.round k (w.getD 0 0)) (w.drop 1 ++ [next])

/-- The hash value after a block, given as its sixteen words. -/
def Sha2.block (s : Sha2) (w : List (BitVec 32)) : Sha2 :=
  let r := Sha2.rounds shaQ s w
  ⟨s.a + r.a, s.b + r.b, s.c + r.c, s.d + r.d, s.e + r.e, s.f + r.f, s.g + r.g, s.h + r.h⟩

/-- The hash value after `n` blocks of the bytes. -/
def Sha2.over : Nat → Sha2 → List Byte → Sha2
  | 0, s, _ => s
  | n + 1, s, bs =>
    Sha2.over n (s.block ((List.range 16).map (fun i => BitVec.ofNat 32 (beNat ((bs.drop (4 * i)).take 4))))) (bs.drop 64)

/-- SHA-256 of bytes. -/
def sha256 (bs : List Byte) : List Byte :=
  let p := shaPadded 64 bs
  let r := Sha2.over (p.length / 64) sha2Start p
  [r.a, r.b, r.c, r.d, r.e, r.f, r.g, r.h].flatMap (fun w => beBytes 4 w.toNat)

end Sys2Proof.Machine
end

