-- ==== Sys2Proof/Machine/Signature.lean ====
section
/-!
DEFINITION. The verification of signatures (R401 to R403): ECDSA over P-384 as FIPS 186-5 and SP 800-186 define it, and HSS with two
levels of LMS_SHA256_M32_H20 over LMOTS_SHA256_N32_W8 as RFC 8554 defines it. PRESUMED: log entry 55.
-/

namespace Sys2Proof.Machine

/-! The curve P-384: y^2 = x^3 - 3x + b over the field of `ecP` elements, a base point of order `ecN` -/

def ecP : Nat := 2 ^ 384 - 2 ^ 128 - 2 ^ 96 + 2 ^ 32 - 1

def ecN : Nat := 0xFFFFFFFFFFFFFFFFFFFFFFFFFFFFFFFFFFFFFFFFFFFFFFFFC7634D81F4372DDF581A0DB248B0A77AECEC196ACCC52973

def ecB : Nat := 0xB3312FA7E23EE7E4988E056BE3F82D19181D9C6EFE8141120314088F5013875AC656398D8A2ED19D2A85C8EDD3EC2AEF

/-- A point by its coordinates; none is the point at infinity. -/
abbrev EcPoint := Option (Nat × Nat)

/-- The base point. -/
def ecG : EcPoint := some
  (0xAA87CA22BE8B05378EB1C71EF320AD746E1D3B628BA79B9859F741E082542A385502F25DBF55296C3A545E3872760AB7,
   0x3617DE4A96262C6F5D9E98BF9292DC29F8F41DBD289A147CE9DA3113B5F0B8C00A60B1CE1D7E819D7A431D7C90EA0E5F)

/-- `a` to the power of the lowest `n` bits of `e`, modulo `q`. -/
def powMod (q : Nat) : Nat → Nat → Nat → Nat
  | 0, _, _ => 1 % q
  | n + 1, a, e => (if e % 2 = 1 then a else 1) * powMod q n (a * a % q) (e / 2) % q

/-- The inverse modulo a prime of 384 bits. -/
def invMod (q a : Nat) : Nat := powMod q 384 (a % q) (q - 2)

/-- `a - b` in the field. -/
def ecSub (a b : Nat) : Nat := (a + ecP - b % ecP) % ecP

/-- The third point of a line of slope `t` through (`x`, `y`) and a point at `x2`, mirrored. -/
def ecLine (t x y x2 : Nat) : EcPoint :=
  let x3 := ecSub (t * t) (x + x2)
  some (x3, ecSub (t * ecSub x x3) y)

/-- The sum of two points. -/
def ecAdd (a b : EcPoint) : EcPoint :=
  match a, b with
  | none, b => b
  | a, none => a
  | some (x, y), some (x2, y2) =>
    if x = x2 then
      if (y + y2) % ecP = 0 then none
      else ecLine (ecSub (3 * x * x) 3 * invMod ecP (2 * y) % ecP) x y x2
    else ecLine (ecSub y2 y * invMod ecP (ecSub x2 x) % ecP) x y x2

/-- The multiple of a point by the lowest `n` bits of `k`. -/
def ecMul : Nat → Nat → EcPoint → EcPoint
  | 0, _, _ => none
  | n + 1, k, a => ecAdd (if k % 2 = 1 then a else none) (ecMul n (k / 2) (ecAdd a a))

/-- A public key in SEC 1's uncompressed form, 97 bytes, where it is a point of the curve. -/
def ecKey (bs : List Byte) : EcPoint :=
  let x := beNat ((bs.drop 1).take 48)
  let y := beNat ((bs.drop 49).take 48)
  if bs.length = 97 ∧ bs.head? = some 0x04 ∧ x < ecP ∧ y < ecP ∧ y * y % ecP = (ecSub (x * x * x) (3 * x) + ecB) % ecP
  then some (x, y) else none

/-- Whether an ECDSA signature, r then s, verifies over a message with SHA-384 (R402). -/
def ecdsaOk (key message sig : List Byte) : Bool :=
  let r := beNat (sig.take 48)
  let s := beNat ((sig.drop 48).take 48)
  let w := invMod ecN s
  match ecKey key with
  | none => false
  | some q =>
    decide (sig.length = 96 ∧ 0 < r ∧ r < ecN ∧ 0 < s ∧ s < ecN) &&
      (match ecAdd (ecMul 384 (beNat (sha384 message) * w % ecN) ecG) (ecMul 384 (r * w % ecN) (some q)) with
       | some v => v.1 % ecN == r
       | none => false)

/-! LM-OTS, LMS and HSS -/

/-- The end of a hash chain: `n` hashes on from value `j` of element `i`; `base` is the key's identifier and the leaf's number. -/
def otsChain (base : List Byte) (i : Nat) : Nat → Nat → List Byte → List Byte
  | 0, _, t => t
  | n + 1, j, t => otsChain base i n (j + 1) (sha256 (base ++ beBytes 2 i ++ beBytes 1 j ++ t))

/-- The public key that an LM-OTS signature of 1,124 bytes gives for a message. -/
def otsCandidate (base sig message : List Byte) : List Byte :=
  let digest := sha256 (base ++ [0x81, 0x81] ++ (sig.drop 4).take 32 ++ message)
  let digits := digest ++ beBytes 2 (digest.map (fun b => 255 - b.toNat)).sum
  let ends := (List.range 34).flatMap (fun i =>
    let a := (digits.getD i 0).toNat
    otsChain base i (255 - a) a ((sig.drop (36 + 32 * i)).take 32))
  sha256 (base ++ [0x80, 0x80] ++ ends)

/-- The root of a tree of LMS that a leaf and `n` nodes of its path give, from node `k` on. -/
def lmsRoot (ident path : List Byte) : Nat → Nat → List Byte → List Byte
  | 0, _, t => t
  | n + 1, k, t =>
    let sibling := path.take 32
    lmsRoot ident (path.drop 32) n (k / 2)
      (sha256 (ident ++ beBytes 4 (k / 2) ++ [0x83, 0x83] ++ (if k % 2 = 1 then sibling ++ t else t ++ sibling)))

/-- Whether an LMS signature of 1,772 bytes verifies under a public key of 56 bytes, both with R403's parameters: type 8 is
LMS_SHA256_M32_H20, type 4 LMOTS_SHA256_N32_W8. -/
def lmsOk (key message sig : List Byte) : Bool :=
  let ident := (key.drop 8).take 16
  let q := beNat (sig.take 4)
  let node := 2 ^ 20 + q
  let leaf := sha256 (ident ++ beBytes 4 node ++ [0x82, 0x82] ++
    otsCandidate (ident ++ beBytes 4 q) ((sig.drop 4).take 1124) message)
  decide (key.length = 56 ∧ sig.length = 1772 ∧ beNat (key.take 4) = 8 ∧ beNat ((key.drop 4).take 4) = 4 ∧ q < 2 ^ 20 ∧
      beNat ((sig.drop 4).take 4) = 4 ∧ beNat ((sig.drop 1128).take 4) = 8) &&
    lmsRoot ident (sig.drop 1132) 20 node leaf == key.drop 24

/-- Whether an HSS signature of 3,604 bytes verifies over a message: the first level signs the second's key, which signs the
message (R403). -/
def hssOk (key message sig : List Byte) : Bool :=
  let second := (sig.drop 1776).take 56
  decide (key.length = 60 ∧ sig.length = 3604 ∧ beNat (key.take 4) = 2 ∧ beNat (sig.take 4) = 1) &&
    lmsOk (key.drop 4) second ((sig.drop 4).take 1772) && lmsOk second message (sig.drop 1832)

end Sys2Proof.Machine
end

