-- ==== Sys2Proof/Machine/Images.lean ====
section
/-!
DEFINITION. Images and what admits them: the header of R363, the signature block of R402 with its key sets, the security
versions of R420, the manifests of R364, and the measurement slots of R407.
-/

namespace Sys2Proof.Machine

/-- Bytes `off` to `off + n − 1` of a byte string. -/
def cut (bs : List Byte) (off n : Nat) : List Byte := (bs.drop off).take n

/-- Words of a byte string from an offset. -/
def cutWords (bs : List Byte) (off n : Nat) : List Word := leWords n (bs.drop off)

def allZero (bs : List Byte) : Bool := bs.all (fun b => b == 0)

/-! Signature blocks (R402 to R404) -/

/-- Bytes of a signature block. -/
def sigLen : Nat := 8192

/-- Whether a block's layout is that of R402 for a key set whose HSS signatures have `n` bytes: every byte not listed is zero. -/
def sigShape (blk : List Byte) (keyset n : Nat) : Bool :=
  let w := wd (cutWords blk 0 1) 0
  decide (blk.length = sigLen) && bits w 0 4 == keyset && bits w 60 4 == 1 && !reservedSet w [(0, 4), (60, 4)] &&
    allZero (cut blk 0x099 7) && leNat (cut blk 0x13C 4) == n && allZero (blk.drop (0x140 + n))

/-- Whether both signatures of a block verify over bytes, under keys that `accepted` names by their hashes (R402 to R404). -/
def sigGood (accepted : List Byte → List Byte → Bool) (blk covered : List Byte) : Bool :=
  let ec := cut blk 0x038 97
  let hss := cut blk 0x100 60
  let m := sha384 covered
  sha384 ec == cut blk 0x008 48 && accepted (sha384 ec) (sha384 hss) &&
    ecdsaOk ec m (cut blk 0x0A0 96) && hssOk hss m (cut blk 0x140 3604)

/-- The keys a key set accepts (R403): 1 an unrevoked fused slot, 2 the owner record. -/
def Mach.accepted (m : Mach) (keyset : Nat) (ec hss : List Byte) : Bool :=
  if keyset = 1 then m.nv.keys.any (fun k => k.1 == ec && k.2 == hss)
  else if keyset = 2 then m.nv.owner.1 == ec && m.nv.owner.2 == hss
  else false

/-- Whether an object of a key set verifies (R404). -/
def Mach.verifies (m : Mach) (keyset : Nat) (blk covered : List Byte) : Bool :=
  sigShape blk keyset 3604 && sigGood (m.accepted keyset) blk covered

/-! Image headers (R363) -/

/-- The fields of a firmware image's header. -/
structure Image where
  kind : Nat
  part : Nat
  ver : Nat
  svn : Nat
  manOff : Nat
  manN : Nat
  sigOff : Nat
  ifmin : Nat
  ifmax : Nat
  load : Nat

def imageOf (bs : List Byte) : Image :=
  let w := wd (cutWords bs 0 32)
  ⟨bits (w 0) 0 8, bits (w 0) 8 8, bits (w 1) 0 32, bits (w 1) 32 32, bits (w 2) 32 32, bits (w 3) 0 9, bits (w 3) 32 32,
    bits (w 4) 0 4, bits (w 4) 4 4, bits (w 5) 0 52⟩

/-- Fields of header word `i` that are not reserved; a Headland boot image has its load address in word 5 (R418). -/
def imageFields (kind i : Nat) : List (Nat × Nat) :=
  if i = 0 then [(0, 16)]
  else if i = 1 ∨ i = 2 then [(0, 64)]
  else if i = 3 then [(0, 9), (32, 32)]
  else if i = 4 then [(0, 8)]
  else if i = 5 ∧ kind = 4 then [(0, 52)]
  else if 8 ≤ i ∧ i < 16 then (if i % 2 = 0 then [(0, 64)] else [(0, 4)])
  else if i = 31 then [(60, 4)]
  else []

/-- R9 and R10 on a header, and the KIND that its target takes. -/
def headerBad (bs : List Byte) (kind : Nat) : Option Nat :=
  let w := wd (cutWords bs 0 32)
  if bits (w 31) 60 4 ≠ 1 then some 0x0202
  else if (List.range 32).any (fun i => reservedSet (w i) (imageFields (bits (w 0) 0 8) i)) then some 0x0201
  else if bits (w 0) 0 8 ≠ kind ∨ (List.range 4).any (fun c => decide (4 < bits (w (9 + 2 * c)) 0 4)) then some 0x0203
  else none

/-- Whether an image's block at SIG_OFF verifies over what precedes it. -/
def Mach.imageSigned (m : Mach) (keyset sigOff : Nat) (bs : List Byte) : Bool :=
  m.verifies keyset (cut bs sigOff sigLen) (bs.take sigOff)

/-- MIN_SVN of an image kind (R391, R420): 0 Lighthouse firmware, 1 configuration, 2 Headland boot, 3 Harbour, 4 Reef. -/
def Mach.minSvn (m : Mach) (k : Nat) : Nat := if m.lh.regionBad then 0xFFFFFFFF else sget 0 k m.nv.minSvn

/-! Manifests (R364) -/

/-- The entries of a manifest, as kind and value; none where one is malformed. -/
def manifestOf (im : Image) (bs : List Byte) : Option (List (Nat × Nat)) :=
  if im.manN = 0 ∨ 256 < im.manN ∨ bs.length < im.manOff + 16 * im.manN then none
  else
    let es := (List.range im.manN).map (fun i => cutWords bs (im.manOff + 16 * i) 2)
    if es.any (fun e => bits (wd e 1) 60 4 != 1 || reservedSet (wd e 0) [(0, 8), (32, 32)] || reservedSet (wd e 1) [(60, 4)] ||
        bits (wd e 0) 0 8 == 0 || decide (6 < bits (wd e 0) 0 8)) then none
    else some (es.map (fun e => (bits (wd e 0) 0 8, bits (wd e 0) 32 32)))

/-- A well-formed manifest that names the kinds its image must (R364). -/
def manifestGood (need : List Nat) (bs : List Byte) : Option (List (Nat × Nat)) :=
  let im := imageOf bs
  if im.part ≠ 1 then none
  else (manifestOf im bs).filter (fun es => need.all (fun k => es.any (fun e => e.1 == k)))

/-- Silicon stepping of a die: 0 to 3 Reef, 4 Harbour (R410). -/
def Mach.stepping (m : Mach) (d : Nat) : Nat := m.fget (Reg.LH_DIEID_STEPPING d)

/-- Whether the present values satisfy a manifest (R364). `skip` is a kind that is not yet present; `die` the Reef die concerned. -/
def Mach.tested (m : Mach) (es : List (Nat × Nat)) (skip : Nat) (die : Option Nat) : Bool :=
  let has := fun (k v : Nat) => es.any (fun e => e.1 == k && e.2 == v)
  (es.map Prod.fst).eraseDups.all (fun k =>
    k == skip ||
    (if k = 1 then has 1 (m.fget (Reg.HB_FW_VER_FWVER 4))
     else if k = 2 then (List.range 4).all (fun d => !m.dieUp d || has 2 (m.fget (Reg.HB_FW_VER_FWVER d)))
     else if k = 3 then has 3 (m.fget (Reg.LH_SLOT_FWVER 0))
     else if k = 4 then has 4 (m.stepping 4)
     else if k = 5 then (match die with
       | some d => has 5 (m.stepping d)
       | none => (List.range 4).all (fun d => has 5 (m.stepping d)))
     else has 6 m.lh.format))

/-! Measurements (R407) -/

/-- Measure an image into a slot: its digest replaces the slot's, and its count rises. -/
def Mach.measure (m : Mach) (slot kind svn ver : Nat) (digest : List Byte) : Mach :=
  let n := match sget none slot m.lh.meas with
    | some x => x.loads
    | none => 0
  { m with lh := { m.lh with meas := sset none slot (some ⟨kind, n + 1, svn, ver, digest⟩) m.lh.meas } }

/-- Lighthouse records a refusal of a signature, a rollback or a lifecycle state (R414). -/
def Mach.logRefusal (m : Mach) (status unit : Nat) : Mach :=
  if status = 0x0601 ∨ status = 0x0602 ∨ status = 0x0605 then m.logE 0x15 status unit noJob 0 else m

end Sys2Proof.Machine
end

