-- ==== Sys2Proof/Machine/Walk.lean ====
section
/-!
DEFINITION. Address translation as a shared operation: the walk of R180 to R183, the caches of R185, the fault table and
the fault ring (R187 to R191), migration (R192 to R195), and an engine's reads and writes by virtual address (R115, R151,
R206, R207, R269, R279).
-/

namespace Sys2Proof.Machine

/-- How a translated access ends (R183). -/
inductive WalkEnd where
  /-- It proceeds at an address under a key identity. -/
  | ok (pa key : Nat)
  /-- It ends with a status. -/
  | status (st : Nat)
  /-- A service fault. -/
  | service
  /-- A migration fault, with the leaf's address and value. -/
  | migrate (leaf : Nat) (ent : Word)
  /-- It waits for a table line that another agent owns. -/
  | wait
  deriving DecidableEq, Repr

/-- Lowest VA bit a level indexes, and how many (R180). -/
def lvlLo : Nat → Nat
  | 0 => 43
  | 1 => 30
  | 2 => 21
  | _ => 16
def lvlW : Nat → Nat
  | 0 => 14
  | 1 => 13
  | 2 => 9
  | _ => 5

/-- Size and alignment of the table of a level (R180). -/
def tableSize (lvl : Nat) : Nat := 8 * 2 ^ lvlW lvl

/-- TIER codes agree with the range (R21). -/
def tierAgrees (tier pa : Nat) : Bool :=
  match tierOf pa with
  | .stack => tier == 0
  | .shelf => tier == 1
  | .shingle => tier == 2
  | .host => tier == 3
  | _ => false

/-- Page size of a leaf at a level; none where the level holds no leaf. -/
def leafSize (lvl : Nat) : Option Nat :=
  if lvl = 1 then some (2 ^ 30) else if lvl = 2 then some (2 ^ 21) else if lvl = 3 then some (2 ^ 16) else none

/-- SIZE code of a leaf at a level. -/
def sizeCode (lvl : Nat) : Nat := if lvl = 1 then 2 else if lvl = 2 then 1 else 0

/-- Order 2 of R183 on a leaf. -/
def leafOk (lvl : Nat) (e : Word) : Bool :=
  match leafSize lvl with
  | none => false
  | some sz =>
    let pa := bits e 16 36 * 65536
    bits e 60 4 == 1 && bits e 7 1 == 0 && bits e 52 8 == 0 && bits e 4 2 == sizeCode lvl && pa % sz == 0 &&
      tierAgrees (bits e 14 2) pa && (bits e 6 1 == 0 || (lvl == 2 && bits e 14 2 == 3))

/-- Order 2 of R183 on a pointer. -/
def pointerOk (lvl : Nat) (e : Word) : Bool :=
  let next := bits e 8 44 * 256
  decide (lvl < 3) && bits e 60 4 == 1 && !reservedSet e [(0, 1), (4, 2), (8, 44), (60, 4)] &&
    next % tableSize (lvl + 1) == 0 && inStackOrShelf next (tableSize (lvl + 1))

/-- Orders 3 to 6 of R183 on a well-formed leaf. -/
def Mach.leafEnd (m : Mach) (j : Job) (lvl : Nat) (leafAddr : Nat) (e : Word) (va : Nat) (acc : Access) : WalkEnd :=
  let r := bits e 1 1 == 1
  let w := bits e 2 1 == 1
  let a := bits e 3 1 == 1
  let rights := match acc with
    | .read => r
    | .write => w
    | .atomic => r && w && a
  if !j.keyAllowed (bits e 8 6) then .status 0x0403
  else if acc ≠ .read ∧ bits e 14 2 = 2 then .status 0x0302
  else if !rights then .status 0x0402
  else if bits e 6 1 = 1 then .migrate leafAddr e
  else .ok (bits e 16 36 * 65536 + va % 2 ^ lvlLo lvl) (if bits e 14 2 ≤ 1 then m.keyId (bits e 8 6) else 0)

/-- Entries that a set of a place holds (R185): a data mover's cache and the walker's are one set each, a die's has sets of 16. -/
def tlbWays (place : Nat) : Nat := if place < 192 then 128 else if place < 196 then 16 else 1024

/-- The set of an entry; how a die's cache is indexed is not the manual's. DESIGN CHOICE: log entry 15. -/
def TlbEnt.set (t : TlbEnt) : Nat :=
  if t.place < 192 ∨ 196 ≤ t.place then 0 else Config.farSet (2 ^ 60 + t.asid * 2 ^ 44 + t.level * 2 ^ 42 + t.vpn) % 256

/-- Add a cached translation to its place, or use it there: it becomes the most recently used of its set, and the least recently used
beyond the set's ways goes (R185). DESIGN CHOICE: log entry 15. -/
def Mach.tlbAdd (m : Mach) (t : TlbEnt) : Mach :=
  let mine := fun (u : TlbEnt) => u.place == t.place && u.set == t.set
  let peers := m.xl.tlb.filter (fun u => mine u && !(u.asid == t.asid && u.level == t.level && u.vpn == t.vpn))
  { m with xl := { m.xl with tlb := t :: peers.take (tlbWays t.place - 1) ++ m.xl.tlb.filter (fun u => !mine u) } }

/-- The leaf or pointer a place caches for an address, deepest level first among the levels given. -/
def Mach.tlbFind (m : Mach) (place asid va : Nat) (lvls : List Nat) : Option TlbEnt :=
  lvls.findSome? (fun l => m.xl.tlb.find? (fun u =>
    u.place == place && u.asid == asid && u.level == l && u.vpn == va / 2 ^ lvlLo l))

/-- Walk from a table at a level down; `n` levels remain. Pointers passed are cached by Harbour's walker. -/
def Mach.walkFrom (m : Mach) (j : Job) (va : Nat) (acc : Access) : Nat → Nat → Nat → Mach × WalkEnd × Option TlbEnt
  | 0, _, _ => (m, .status 0x0404, none)
  | n + 1, lvl, table =>
    let addr := table + va / 2 ^ lvlLo lvl % 2 ^ lvlW lvl * 8
    let rd := m.hubWords 22 addr 1
    match rd.2 with
    | none => (rd.1, .wait, none)
    | some (ws, bad) =>
      let e := wd ws 0
      if bad then (m, .status 0x0304, none)
      else if bits e 0 1 = 0 then (m, (if bits e 6 1 = 1 then .service else .status 0x0401), none)
      else if bits e 4 2 = 3 then
        (if pointerOk lvl e then
          (m.tlbAdd ⟨196, j.asid, lvl, va / 2 ^ lvlLo lvl, e⟩).walkFrom j va acc n (lvl + 1) (bits e 8 44 * 256)
        else (m, .status 0x0404, none))
      else if leafOk lvl e then
        (m, m.leafEnd j lvl addr e va acc, some ⟨0, j.asid, lvl, va / 2 ^ lvlLo lvl, e⟩)
      else (m, .status 0x0404, none)

/-- A walk by Harbour, from the deepest pointer its walker caches (R183, R185). -/
def Mach.walk (m : Mach) (j : Job) (va : Nat) (acc : Access) : Mach × WalkEnd × Option TlbEnt :=
  match m.tlbFind 196 j.asid va [2, 1, 0] with
  | some t => (m.tlbAdd t).walkFrom j va acc (3 - t.level) (t.level + 1) (bits t.ent 8 44 * 256)
  | none => m.walkFrom j va acc 4 0 j.root

/-- Translate for an engine of a core: its data mover's cache, its die's, then a walk whose leaf both then hold (R185). -/
def Mach.xlate (m : Mach) (j : Job) (tgt va : Nat) (acc : Access) : Mach × WalkEnd :=
  if 192 ≤ tgt then
    let w := m.walk j va acc
    (w.1, w.2.1)
  else
    match m.tlbFind tgt j.asid va [3, 2, 1] with
    | some t => (m.tlbAdd t, m.leafEnd j t.level 0 t.ent va acc)
    | none =>
      match m.tlbFind (192 + tgt / 48) j.asid va [3, 2, 1] with
      | some t => ((m.tlbAdd t).tlbAdd { t with place := tgt }, m.leafEnd j t.level 0 t.ent va acc)
      | none =>
        let w := m.walk j va acc
        match w.2.1, w.2.2 with
        | .ok pa key, some t =>
          ((w.1.tlbAdd { t with place := 192 + tgt / 48 }).tlbAdd { t with place := tgt }, .ok pa key)
        | e, _ => (w.1, e)

/-! The fault table and ring -/

/-- A record as it is written: one whose fault stays open counts the waiters of that moment (R190). -/
def Mach.frWords (m : Mach) (ws : List Word) : List Word :=
  let w0 := wd ws 0
  let kind := bits w0 0 4
  match m.xl.recs.find? (fun r => r.num == bits w0 32 8) with
  | some r =>
    if kind = 1 ∨ kind = 4 then
      ws.set 0 (BitVec.ofNat 64 (w0.toNat - bits w0 8 8 * 2 ^ 8 + min r.waiters.length 255 * 2 ^ 8))
    else ws
  | none => ws

/-- Write the fault-ring records that wait, while the ring is configured and has space (R190). -/
def Mach.frDrain (m : Mach) : List (List Word) → Mach
  | [] => { m with xl := { m.xl with frWait := [] } }
  | ws :: rest =>
    let log2 := m.fget Reg.HB_FR_BASE_LOG2
    let used := (m.fget Reg.HB_FR_TAIL_TAIL + 2 ^ 32 - m.fget Reg.HB_FR_HEAD_HEAD) % 2 ^ 32
    if log2 < 6 ∨ 12 < log2 ∨ 2 ^ log2 ≤ used then { m with xl := { m.xl with frWait := ws :: rest } }
    else
      let p := ringSlot (m.fget Reg.HB_FR_BASE_BASE * 4096) (2 ^ log2) m.xl.frSeq
      let m1 := m.hubWrite p.1 (wordBytes (stamp (m.frWords ws) p.2 4 (m.xl.frSeq + 1)))
      let m2 := { m1 with xl := { m1.xl with frSeq := m1.xl.frSeq + 1 } }
      ((m2.fset Reg.HB_FR_TAIL_TAIL (m2.fget Reg.HB_FR_TAIL_TAIL + 1)).raise 128).frDrain rest

/-- A fault-ring record (R190): kind, whether a write, waiters, ASID, record, status, VA, PA. -/
def Mach.frPush (m : Mach) (kind : Nat) (write : Bool) (waiters asid rec status va pa : Nat) : Mach :=
  let ws : List Word := [BitVec.ofNat 64 (kind + (if write then 32 else 0) + min waiters 255 * 2 ^ 8 + asid * 2 ^ 16 +
      rec * 2 ^ 32 + status * 2 ^ 48), 0, BitVec.ofNat 64 va, BitVec.ofNat 64 (pa + 2 ^ 60)]
  m.frDrain (m.xl.frWait ++ [ws])

/-- Waiter links in use (R187). -/
def Mach.links (m : Mach) : Nat := m.xl.recs.foldl (fun n r => n + r.waiters.length) 0

def Mach.setRecs (m : Mach) (rs : List FRec) : Mach :=
  ({ m with xl := { m.xl with recs := rs } }).fset Reg.HB_FLT_OPEN_OPEN rs.length

/-- What taking a frame of the pool comes to. -/
inductive PoolTake where
  | frame (pa : Nat)
  | empty
  /-- The entry's line is first asked for of the agent that owns it (R205). -/
  | wait
  deriving DecidableEq, Repr

/-- Take the pool's next good frame; a bad entry is skipped and logged (R192). The number bounds the entries looked at. -/
def Mach.takeFrame (m : Mach) : Nat → Mach × PoolTake
  | 0 => (m, .empty)
  | n + 1 =>
    let log2 := m.fget Reg.HB_MP_BASE_LOG2
    let head := m.fget Reg.HB_MP_HEAD_HEAD
    if log2 < 6 ∨ 16 < log2 ∨ head = m.fget Reg.HB_MP_TAIL_TAIL then (m, .empty)
    else
      let addr := m.fget Reg.HB_MP_BASE_BASE * 4096 + head % 2 ^ log2 * 8
      let rd := m.hubWords 21 addr 1
      match rd.2 with
      | none => (rd.1, .wait)
      | some (ws, bad) =>
      let e := wd ws 0
      let frame := bits e 21 31 * 2 ^ 21
      let m1 := rd.1.fset Reg.HB_MP_HEAD_HEAD (head + 1)
      if bad || reservedSet e [(21, 31), (60, 4)] || bits e 60 4 != 1 || !inStackOrShelf frame (2 ^ 21) then
        (m1.logE 0x11 0 0 noJob addr).takeFrame n
      else (m1, .frame frame)

/-- Give an open record's migration a new standing. -/
def Mach.setMig (m : Mach) (num : Nat) (g : Mig) : Mach :=
  m.setRecs (m.xl.recs.map (fun (q : FRec) => if q.num = num then { q with kind := .migrate g } else q))

/-- Start a migration that waits, four at once at most, with a frame of the pool; one that finds the pool empty writes its POOL_EMPTY
record (R193). -/
def Mach.startMig (m : Mach) (r : FRec) : Mach :=
  match r.kind with
  | .migrate g =>
    if g.frame.isSome ∨ 4 ≤ m.xl.migs.length then m
    else
      let t := m.takeFrame 65537
      match t.2 with
      | .frame f =>
        let m1 := t.1.setMig r.num { g with frame := some f }
        { m1 with xl := { m1.xl with migs := m1.xl.migs ++ [r.num] } }
      | .empty =>
        if g.asked then t.1
        else ((t.1.setMig r.num { g with asked := true }).frPush 4 false r.waiters.length r.asid r.num 0 (r.region * 2 ^ 21) 0).raise 129
      | .wait => t.1
  | _ => m

/-- The migrations that wait, offered a start in order of their records' opening (R193). -/
def Mach.startMigs (m : Mach) : Mach := m.xl.recs.foldl Mach.startMig m

/-- The lowest record number not in use. -/
def Mach.freeRec (m : Mach) : Option Nat := (List.range 256).find? (fun n => !m.xl.recs.any (fun r => r.num == n))

/-- A resolvable fault, under the table's lock (R188): it joins an open record of its region, opens one, or is retried
when no record or link is free. -/
def Mach.openFault (m : Mach) (w : FWait) (asid : Nat) (kind : FKind) : Mach :=
  let region := w.va / 2 ^ 21
  let retry := { m with xl := { m.xl with retry := m.xl.retry.filter (fun x => decide (x ≠ w)) ++ [w] } }
  if 1024 ≤ m.links then retry
  else
    match m.xl.recs.find? (fun r => r.asid == asid && r.region == region) with
    | some r => m.setRecs (m.xl.recs.map (fun q => if q.num = r.num then { q with waiters := q.waiters ++ [w] } else q))
    | none =>
      match m.freeRec with
      | none => retry
      | some n =>
        let r : FRec := ⟨n, asid, region, kind, [w]⟩
        let m1 := m.setRecs (m.xl.recs ++ [r])
        match kind with
        | .service => m1.frPush 1 (decide (w.acc ≠ .read)) 1 asid n 0 w.va 0
        | _ => m1.startMig r

/-- The kind of record a walk's end opens. -/
def WalkEnd.kind : WalkEnd → Option FKind
  | .service => some .service
  | .migrate leaf e => some (.migrate ⟨leaf, e, none, false, none⟩)
  | _ => none

/-! Invalidation (R186) -/

/-- Whether a cached entry translates part of a VA range; length 0 is the whole space. -/
def TlbEnt.meets (t : TlbEnt) (va len : Nat) : Bool :=
  let lo := t.vpn * 2 ^ lvlLo t.level
  len == 0 || (decide (lo < va + len) && decide (va < lo + 2 ^ lvlLo t.level))

/-- Physical frames that cached leaves map: base and size. -/
def TlbEnt.frame (t : TlbEnt) : Option (Nat × Nat) :=
  if bits t.ent 4 2 = 3 then none else (leafSize t.level).map (fun s => (bits t.ent 16 36 * 65536, s))

/-- Remove every cached entry of an ASID, or of all, that translates part of a range; and the frames the removed leaves mapped. -/
def Mach.untranslate (m : Mach) (asid : Option Nat) (va len : Nat) : Mach × List (Nat × Nat) :=
  let hit := fun (t : TlbEnt) => (match asid with
    | some a => t.asid == a
    | none => true) && t.meets va len
  ({ m with xl := { m.xl with tlb := m.xl.tlb.filter (fun t => !hit t) } }, (m.xl.tlb.filter hit).filterMap TlbEnt.frame)

/-- Discard the far-cache lines, of every job and die, that lie in frames (R186). -/
def Mach.dropFrames (m : Mach) (frames : List (Nat × Nat)) : Mach :=
  m.dropFar (fun l => frames.any (fun f => decide (f.1 ≤ l.line * 256) && decide (l.line * 256 < f.1 + f.2)))

/-- An invalidation that Harbour makes itself, with DISCARD or without (R110, R193, R196). -/
def Mach.invalidate (m : Mach) (asid : Option Nat) (va len : Nat) (discard : Bool) : Mach :=
  let r := m.untranslate asid va len
  if discard then r.1.dropFrames r.2 else r.1

/-! Engine accesses by virtual address -/

/-- Why an engine access does not proceed. -/
inductive XStop where
  /-- The command ends with a status at an address. -/
  | status (st va : Nat)
  /-- A resolvable fault. -/
  | fault (va : Nat) (acc : Access) (kind : FKind)
  /-- It waits for something else first. -/
  | wait
  /-- It is outstanding at a landward port in Recovery (R275). -/
  | landward (p : Nat)
  deriving DecidableEq, Repr

/-- A piece of a translated range: address, key identity, length. -/
structure Piece where
  pa : Nat
  key : Nat
  len : Nat
  deriving DecidableEq, Repr

/-- Translate a range in pieces that each lie in one 64 KiB page; the number bounds the pieces. -/
def Mach.xlateN (m : Mach) (j : Job) (tgt : Nat) (acc : Access) : Nat → Nat → Nat → Mach × Except XStop (List Piece)
  | 0, _, _ => (m, .ok [])
  | k + 1, va, n =>
    if n = 0 then (m, .ok [])
    else
      let len := min n (65536 - va % 65536)
      let r := m.xlate j tgt va acc
      match r.2 with
      | .ok pa key =>
        let rest := r.1.xlateN j tgt acc k (va + len) (n - len)
        (match rest.2 with
         | .ok ps => (rest.1, .ok (⟨pa, key, len⟩ :: ps))
         | .error e => (rest.1, .error e))
      | .status st => (r.1, .error (.status st va))
      | .service => (r.1, .error (.fault va acc .service))
      | .migrate leaf e => (r.1, .error (.fault va acc (.migrate ⟨leaf, e, none, false, none⟩)))
      | .wait => (r.1, .error .wait)

def Mach.xlateRange (m : Mach) (j : Job) (tgt va n : Nat) (acc : Access) : Mach × Except XStop (List Piece) :=
  m.xlateN j tgt acc (n / 65536 + 2) va n

/-- Fetch a line into a die's far cache under a job, or find it there; it becomes the most recently used (R151). DESIGN CHOICE: log entry 14. -/
def Mach.farFetch (m : Mach) (die jn key line : Nat) : Mach × FarLine :=
  let is := fun (l : FarLine) => l.die == die && l.job == jn && l.line == line
  match m.mem.far.find? is with
  | some l => ({ m with mem := { m.mem with far := l :: m.mem.far.filter (fun x => !is x) } }, l)
  | none =>
    let m := m.shinTouch (line * 256) 256
    let d := m.load key (line * 256) 256
    let l : FarLine := ⟨die, jn, line, d.1, (List.range 8).map (fun i =>
      if tierOf (line * 256) = .shingle then d.2 else m.cwBad (line * 8 + i))⟩
    let mine := m.mem.far.filter (fun x => x.die == die)
    let far := if mine.length < 16 then l :: m.mem.far
      else
        let peers := mine.filter (fun x => Config.farSet x.line % 12288 == Config.farSet line % 12288)
        if peers.length < 16 then l :: m.mem.far
        else
          match peers.getLast? with
          | some v => l :: m.mem.far.filter (fun x => decide (x ≠ v))
          | none => l :: m.mem.far
    ({ m with mem := { m.mem with far := far } }, l)

/-- Read bytes of one 256-byte line through a far cache. -/
def Mach.farRead (m : Mach) (die jn key pa n : Nat) : Mach × List Byte × Bool :=
  let r := m.farFetch die jn key (pa / 256)
  (r.1, (r.2.data.drop (pa % 256)).take n,
    (List.range 8).any (fun i => r.2.poison.getD i false && decide (i * 32 < pa % 256 + n) && decide (pa % 256 < i * 32 + 32)))

/-- Read a far range line by line; the number bounds the lines. -/
def Mach.farReadN (m : Mach) (die jn key : Nat) : Nat → Nat → Nat → Mach × List Byte × Bool
  | 0, _, _ => (m, [], false)
  | k + 1, pa, n =>
    if n = 0 then (m, [], false)
    else
      let len := min n (256 - pa % 256)
      let r := m.farRead die jn key pa len
      let rest := r.1.farReadN die jn key k (pa + len) (n - len)
      (rest.1, r.2.1 ++ rest.2.1, r.2.2 || rest.2.2)

/-- A read that a landward port or a change of route holds (R269, R275). -/
def Mach.lwStop {α : Type} (m : Mach) (pa n : Nat) : Mach × Except XStop α :=
  if m.lw.hold then (m.fset Reg.LW_ROUTE_BUSY 1, .error .wait)
  else
    match (m.lwPorts pa n).find? m.recovering with
    | some p => (m, .error (.landward p))
    | none => (m, .error .wait)

/-- An engine's read of a translated piece (R18, R151, R206, R279): its bytes, or the status it ends
with. DEDUCED: log entry 63. -/
def Mach.engPiece (m : Mach) (tgt jn : Nat) (p : Piece) : Mach × Except XStop (List Byte) :=
  let die := tgt / 48
  match tierOf p.pa with
  | .stack =>
    if dieOfStack p.pa = die then
      (m, if m.rangeBad p.pa p.len then .error (.status 0x0304 0) else .ok (m.peeks p.key p.pa p.len))
    else
      let r := m.farReadN die jn p.key (p.len / 256 + 2) p.pa p.len
      (r.1, if r.2.2 then .error (.status 0x0304 0) else .ok r.2.1)
  | .shelf | .shingle =>
    if tierOf p.pa = .shingle ∧ !m.harbourRuns then (m, .error (.status 0x0301 0))
    else
      let r := m.farReadN die jn p.key (p.len / 256 + 2) p.pa p.len
      (r.1, if r.2.2 then .error (.status 0x0304 0) else .ok r.2.1)
  | .host =>
    if m.lwHeld p.pa p.len then m.lwStop p.pa p.len
    else if m.lwUnarmed p.pa p.len then (m, .error (.status 0x0304 0))
    else
      let r := m.farReadN die jn 0 (p.len / 256 + 2) p.pa p.len
      (r.1, if r.2.2 then .error (.status 0x0304 0) else .ok r.2.1)
  | _ => (m, .error (.status 0x0301 0))

/-- Read the pieces of a range in order. -/
def Mach.engPieces (m : Mach) (tgt jn va : Nat) : List Piece → Mach × Except XStop (List Byte)
  | [] => (m, .ok [])
  | p :: ps =>
    let r := m.engPiece tgt jn p
    match r.2 with
    | .ok bs =>
      let rest := r.1.engPieces tgt jn (va + p.len) ps
      (match rest.2 with
       | .ok cs => (rest.1, .ok (bs ++ cs))
       | .error e => (rest.1, .error e))
    | .error (.status st _) => (r.1, .error (.status st va))
    | .error e => (r.1, .error e)

/-- An engine's read of `n` bytes at a virtual address. -/
def Mach.engRead (m : Mach) (j : Job) (jn tgt va n : Nat) : Mach × Except XStop (List Byte) :=
  let t := m.xlateRange j tgt va n .read
  match t.2 with
  | .ok ps => t.1.engPieces tgt jn va ps
  | .error e => (t.1, .error e)

/-- A die's own write updates every line of the address it holds, whatever its job (R151). -/
def Mach.farUpdate (m : Mach) (die pa : Nat) (bs : List Byte) : Mach :=
  { m with mem := { m.mem with far := m.mem.far.map (fun l =>
      if l.die = die ∧ l.line * 256 < pa + bs.length ∧ pa < l.line * 256 + 256 then
        { l with
          data := l.data.mapIdx (fun i b =>
            if pa ≤ l.line * 256 + i ∧ l.line * 256 + i < pa + bs.length then bs.getD (l.line * 256 + i - pa) b else b)
          poison := l.poison.mapIdx (fun i b =>
            if pa ≤ l.line * 256 + i * 32 ∧ l.line * 256 + i * 32 + 32 ≤ pa + bs.length then false else b) }
      else l) } }

/-- Write a translated piece of the range that begins at `va`; the status says how it fails (R19, R207, R279). -/
def Mach.engWritePiece (m : Mach) (tgt : Nat) (cmd va : Nat) (p : Piece) (bs : List Byte) : Mach × Option Nat :=
  let m0 := m.farUpdate (tgt / 48) p.pa bs
  match tierOf p.pa with
  | .stack | .shelf => (m0.ncWrite none (some ⟨cmd, va⟩) p.key p.pa bs, none)
  | .host =>
    let r := m0.hostWrite none p.pa (.store bs) (some ⟨cmd, va⟩)
    (r.1, if r.2 then some 0x0501 else none)
  | .shingle => (m, some 0x0302)
  | _ => (m, some 0x0301)

/-- Write the pieces of a range in order. -/
def Mach.engWritePieces (m : Mach) (tgt cmd va : Nat) : List Piece → List Byte → Mach × Option Nat
  | [], _ => (m, none)
  | p :: ps, bs =>
    let r := m.engWritePiece tgt cmd va p (bs.take p.len)
    let rest := r.1.engWritePieces tgt cmd (va + p.len) ps (bs.drop p.len)
    (rest.1, match r.2 with
      | some st => some st
      | none => rest.2)

/-- An engine's write of bytes at a virtual address for a command: translated whole before any byte is written (R76, R99). DEDUCED: log entry 23. -/
def Mach.engWrite (m : Mach) (j : Job) (tgt cmd va : Nat) (bs : List Byte) : Mach × Except XStop Unit :=
  let t := m.xlateRange j tgt va bs.length .write
  match t.2 with
  | .ok ps =>
    let r := t.1.engWritePieces tgt cmd va ps bs
    (r.1, match r.2 with
      | some st => .error (.status st va)
      | none => .ok ())
  | .error e => (t.1, .error e)

/-- What stops a running command: a status ends it; a resolvable fault opens or joins a record and is reported. -/
def Mach.engStop (m : Mach) (c : Cmd) (w : Waiter) : XStop → Mach
  | .status st va => m.putCmd { c with status := some st, va := va }
  | .fault va acc kind =>
    match m.job? c.job with
    | none => m
    | some j => (m.putCmd { c with fault := some ⟨va, acc, decide (kind ≠ .service)⟩ }).openFault ⟨w, c.job, va, acc⟩ j.asid kind
  | .wait => m
  | .landward p => m.stall p c.id

/-- The waiter of an engine of a core. -/
def waiterOf (tgt eng : Nat) : Waiter :=
  let e : Engine := if eng = 0 then .sequencer else if eng = 1 then .matrix else if eng = 2 then .matvec
    else if eng = 3 then .vector else if eng = 4 then .mover else if eng = 5 then .collective else .intake
  if tgt < 192 then .engine ⟨Fin.ofNat 4 (tgt / 48), Fin.ofNat 48 (tgt % 48)⟩ e
  else .harbour (if eng = 6 then 23 else if eng = 5 then 16 else 26)

/-- A command's access stops it. -/
def Mach.stopCmd (m : Mach) (c : Cmd) (x : XStop) : Mach := m.engStop c (waiterOf c.tgt c.eng) x

/-! Closing a record (R138, R189) -/

/-- Whether a command waits as a waiter says. -/
def FWait.isCmd (w : FWait) (c : Cmd) : Bool :=
  c.fault.isSome && c.job == w.job && decide (waiterOf c.tgt c.eng = w.who) &&
    (match c.fault with
     | some f => f.va == w.va
     | none => false)

/-- A job is admitted on a core again unless a command of it still waits there for its fault (R138). -/
def Mach.readmit (m : Mach) (c : Cmd) : Mach :=
  if m.js.cmds.any (fun k => k.job == c.job && k.tgt == c.tgt && k.phase == .switched && k.fault.isSome) then m
  else { m with js := { m.js with switched := m.js.switched.filter (fun p => decide (p ≠ (c.job, c.tgt))) } }

/-- A faulted command resumes (R138), a switched-out one once its engine is free; its job is re-admitted on its core, and a RESUMED
record is written. -/
def Mach.resume (m : Mach) (c : Cmd) : Mach :=
  let c1 := { c with
    fault := none
    stored := false }
  if c.phase = .switched then (((m.putCmd c1).engineNext c.tgt c.eng).readmit c).postEvent c.job 0x04 0 c.ring c.core 0 0
  else m.putCmd c1

/-- A faulted command ends with a status. -/
def Mach.endFaulted (m : Mach) (c : Cmd) (st va : Nat) : Mach := (m.finish c st 0 va false).readmit c

/-- Walk a waiter's address again, or give it the failure its record closed with (R189). -/
def Mach.settleWaiter (m : Mach) (fail : Option Nat) (w : FWait) : Mach :=
  match m.js.cmds.find? (fun c => w.isCmd c) with
  | some c =>
    (match fail, m.job? w.job with
     | some st, _ => m.endFaulted c st w.va
     | none, none => m
     | none, some j =>
       let r := m.xlate j c.tgt w.va w.acc
       match r.2 with
       | .ok _ _ => r.1.resume c
       | .status st => r.1.endFaulted c st w.va
       | .wait => { r.1 with xl := { r.1.xl with retry := r.1.xl.retry ++ [w] } }
       | e =>
         match e.kind with
         | some k => r.1.openFault w j.asid k
         | none => r.1)
  | none =>
    (match fail, m.job? w.job with
     | some st, _ => { m with xl := { m.xl with answered := (w, some st) :: m.xl.answered } }
     | none, none => m
     | none, some j =>
       let r := m.walk j w.va w.acc
       match r.2.1 with
       | .ok _ _ => { r.1 with xl := { r.1.xl with answered := (w, none) :: r.1.xl.answered } }
       | .status st => { r.1 with xl := { r.1.xl with answered := (w, some st) :: r.1.xl.answered } }
       | .wait => { r.1 with xl := { r.1.xl with retry := r.1.xl.retry ++ [w] } }
       | e =>
         match e.kind with
         | some k => r.1.openFault w j.asid k
         | none => r.1)

/-- Close a record: it leaves the table, its migration slot frees, and its waiters are settled in order of joining (R189). -/
def Mach.closeRec (m : Mach) (r : FRec) (fail : Option Nat) : Mach :=
  let m1 := m.setRecs (m.xl.recs.filter (fun q => q.num != r.num))
  let m2 := { m1 with xl := { m1.xl with migs := m1.xl.migs.filter (fun n => n != r.num) } }
  r.waiters.foldl (fun a w => a.settleWaiter fail w) m2

/-- Fail a migration (R194): its record closes with 0x0406, MIG_FAILED carries the unused frame, and a migration that waits may start. -/
def Mach.failMig (m : Mach) (r : FRec) : Mach :=
  let frame := match r.kind with
    | .migrate g => g.frame.getD 0
    | _ => 0
  ((m.closeRec r (some 0x0406)).frPush 3 false r.waiters.length r.asid r.num 0x0406 (r.region * 2 ^ 21) frame).startMigs

/-- Whether a migration has come to step 3 of R193: its leaf's write is under way. -/
def Mig.leafOut (g : Mig) : Bool := match g.run with
  | some (_, b) => b
  | none => false

/-- The walk by a Harbour internal agent at position `x` for a job: bytes' pieces, or why not. -/
def Mach.agentRange (m : Mach) (j : Job) (va n : Nat) (acc : Access) : Mach × Except XStop (List Piece) :=
  m.xlateRange j 192 va n acc

/-- A Harbour internal agent reads a range by virtual address, current at its home (R173, R205). -/
def Mach.agentRead (m : Mach) (x : Nat) (j : Job) (va n : Nat) : Mach × Except XStop (List Byte) :=
  let t := m.agentRange j va n .read
  match t.2 with
  | .error e => (t.1, .error e)
  | .ok ps =>
    let cur := ps.foldl (fun (a : Mach × Bool) p =>
      let r := a.1.current x p.pa p.len
      (r.1, a.2 && r.2)) (t.1, true)
    if !cur.2 then (cur.1, .error .wait)
    else
      let out := ps.foldl (fun (a : List Byte × Bool) p =>
        let d := cur.1.load p.key p.pa p.len
        let host := decide (tierOf p.pa = .host)
        let unarmed := host && cur.1.lwUnarmed p.pa p.len
        (a.1 ++ d.1, a.2 || d.2 || unarmed)) ([], false)
      match ps.find? (fun p => decide (tierOf p.pa = .host) && cur.1.lwHeld p.pa p.len) with
      | some p => cur.1.lwStop p.pa p.len
      | none =>
        let m1 := ps.foldl (fun a p => a.shinTouch p.pa p.len) cur.1
        if out.2 then (m1, .error (.status 0x0304 va)) else (m1, .ok out.1)

/-- A Harbour internal agent writes a range by virtual address; its writes go to their homes (R197, R205). -/
def Mach.agentWrite (m : Mach) (j : Job) (cmd : Option Nat) (va : Nat) (bs : List Byte) : Mach × Except XStop Unit :=
  let t := m.agentRange j va bs.length .write
  match t.2 with
  | .error e => (t.1, .error e)
  | .ok ps =>
    let r := ps.foldl (fun (a : Mach × List Byte × Option Nat) p =>
      let d := a.2.1.take p.len
      let rest := a.2.1.drop p.len
      let ref := cmd.map (fun (c : Nat) => (⟨c, va + (bs.length - a.2.1.length)⟩ : AccRef))
      match tierOf p.pa with
      | .stack | .shelf => (a.1.ncWrite none ref p.key p.pa d, rest, a.2.2)
      | .host =>
        let w := a.1.hostWrite none p.pa (.store d) ref
        (w.1, rest, if w.2 then some 0x0501 else a.2.2)
      | .shingle => (a.1, rest, some 0x0302)
      | _ => (a.1, rest, some 0x0301)) (t.1, bs, none)
    (r.1, match r.2.2 with
      | some st => .error (.status st va)
      | none => .ok ())

end Sys2Proof.Machine
end

