-- ==== Sys2Proof/Machine/Absent.lean ====
section
/-!
DEFINITION. Positions that leave the directory (R204, R233, R239): no snoop of theirs is waited for, their own requests end,
and the lines they hold are settled.
-/

namespace Sys2Proof.Machine

/-- A snooped position's answer is awaited no more (R204): a line it may hold Modified is poisoned, any other counts as
answered clean. -/
def Mach.waitless (m : Mach) (y : Nat) (line : Nat) (t : HomeTxn) : Mach :=
  let rest := t.waits.filter (fun z => z != y)
  if !t.waits.contains y then m
  else if m.ent line = some (.o y) ∧ !isReadOnly y then (m.poisonCount line).finishTxn line { t with poison := true } none
  else if rest.isEmpty then m.finishTxn line t t.sup
  else m.setTxn line (some { t with waits := rest })

/-- A position's own requests for a line end: those queued go, one that awaits its acknowledgement is over, and one that
awaits snoops ends with the line held by no one. -/
def Mach.orphan (m : Mach) (y : Nat) (line : Nat) : Mach :=
  match m.txn line with
  | none => m
  | some t =>
    let q := t.queue.filter (fun r => decide (r.pos ≠ some y))
    if t.req.pos = some y then
      if t.done then m.serve line q.length q
      else m.setTxn line (some { t with
        req := .inval none
        queue := q })
    else m.setTxn line (some { t with queue := q })

/-- Make a position absent (R204). -/
def Mach.goAbsent (m : Mach) (y : Nat) : Mach :=
  let m1 := m.setPosBit Reg.HB_DIR_ABSENT_ABSENT y true
  let lines := m1.dir.txns.map Prod.fst
  lines.foldl (fun a l =>
    let b := a.orphan y l
    match b.txn l with
    | some t => b.waitless y l t
    | none => b) m1

/-- Whether an entry holds a position. -/
def DirEnt.has (e : DirEnt) (y : Nat) : Bool :=
  match e with
  | .s v _ => v.getLsbD y
  | .o z => z == y

/-- Lines a position holds. -/
def Mach.linesOf (m : Mach) (y : Nat) : List Nat :=
  (m.dir.ents.filter (fun p => match p.2 with
    | some e => e.has y
    | none => false)).map Prod.fst

/-- Re-admit a position: what it held is settled, and its absent and quarantine bits clear (R203, R204). -/
def Mach.comeBack (m : Mach) (y : Nat) : Mach :=
  let m1 := (m.linesOf y).foldl (fun a l => a.settleEnt l) (m.setPosBit Reg.HB_DIR_ABSENT_ABSENT y true)
  (m1.setPosBit Reg.HB_DIR_ABSENT_ABSENT y false).setPosBit Reg.HB_DIR_QUAR_QUAR y false

/-- Recall lines as a FLUSH does (R115, R228). -/
def Mach.recallLines (m : Mach) (lines : List Nat) : Mach := lines.foldl (fun a l => a.request l (.inval none)) m

/-- The owner leaves (R260): Lighthouse logs the loss, and the module keeps serving. -/
def Mach.ownerLost (m : Mach) (code : Nat) : Mach :=
  if m.fget Reg.HL_DRV_OWNER_OWNER = code then
    ((m.fset Reg.HL_DRV_OWNER_OWNER 0).fadd Reg.HL_DRV_OWNER_CHANGES 1).logE 0x0E 0 code noJob 0
  else m

end Sys2Proof.Machine
end

