-- ==== Sys2Proof/Machine/Breakwater.lean ====
section
/-!
DEFINITION. Breakwater and the partner die (R226 to R233, R242): windows, the checks of a request, violations and
quarantine, the rate allowance, MSI-X, the aperture and the link.
-/

namespace Sys2Proof.Machine

def Mach.setBw (m : Mach) (b : BwSt) : Mach := { m with bw := b }

/-- Whether Breakwater is fitted and its link up. DESIGN CHOICE: log entry 61. -/
def Mach.bwUp (m : Mach) : Bool := m.flag Reg.BW_ID_FITTED && m.flag Reg.BW_ID_LINK_UP

/-! Violations and quarantine (R230) -/

/-- Quarantine begins: the partner's requests complete poisoned and every line it holds is recalled. -/
def Mach.bwQuarantine (m : Mach) : Mach :=
  if m.flag Reg.BW_ID_QUAR then m
  else ((m.fset Reg.BW_ID_QUAR 1).logE 0x0D 0x0606 15 noJob 0).recallLines (m.linesOf 15)

/-- Once the recall of a quarantine has ended, bit 15 of HB_DIR_QUAR is set. DEDUCED: log entry 32. -/
def Mach.bwSettle (m : Mach) : Mach :=
  if m.flag Reg.BW_ID_QUAR ∧ !m.quarantined 15 ∧ (m.linesOf 15).isEmpty ∧
      !m.dir.txns.any (fun p => match p.2 with
        | some t => t.waits.contains 15
        | none => false)
  then m.setPosBit Reg.HB_DIR_QUAR_QUAR 15 true else m

/-- A violation: counted, recorded and logged; more than QUAR_LIMIT within one second quarantine the partner. -/
def Mach.bwViolation (m : Mach) (kind addr : Nat) : Mach :=
  let m1 := m.fadd Reg.BW_CNT_DENIED 1
  let m2 := ((m1.fset Reg.BW_LAST_ADDR addr).fset Reg.BW_LAST_KIND kind).fset Reg.BW_LAST_VALID 1
  let m3 := m2.logE 0x0D 0x0606 15 noJob addr
  let v := m3.now :: m3.bw.viols.filter (fun t => decide (m3.now < t + 1000000000))
  let m4 := m3.setBw { m3.bw with viols := v }
  if m4.fget Reg.BW_CFG_QUAR_LIMIT < v.length then m4.bwQuarantine.bwSettle else m4

/-! The rate allowance (R231) -/

/-- Fill the buckets for the time passed, each to at most 1 µs of its rate. -/
def Mach.bwFill (m : Mach) : Mach :=
  let dt : Nat := m.ns - m.bw.filled
  let r := m.fget Reg.BW_RATE_RD_RATE
  let w := m.fget Reg.BW_RATE_WR_RATE
  let q := m.fget Reg.BW_RATE_REQ_RATE
  m.setBw { m.bw with
    rd := min (m.bw.rd + ((r * dt : Nat) : Int)) ((r * 1000 : Nat) : Int)
    wr := min (m.bw.wr + ((w * dt : Nat) : Int)) ((w * 1000 : Nat) : Int)
    rq := min (m.bw.rq + ((q * dt : Nat) : Int)) ((q * 1000 : Nat) : Int)
    filled := m.ns }

/-- Whether every bucket a request draws on is not empty. -/
def Mach.bwRoom (m : Mach) (acc : Access) : Bool :=
  decide (0 < m.bw.rq) && (acc == .write || decide (0 < m.bw.rd)) && (acc == .read || decide (0 < m.bw.wr))

/-- Draw a request's bytes and the request itself. -/
def Mach.bwDraw (m : Mach) (acc : Access) (len : Nat) : Mach :=
  m.setBw { m.bw with
    rd := if acc = .write then m.bw.rd else m.bw.rd - ((10 * len : Nat) : Int)
    wr := if acc = .read then m.bw.wr else m.bw.wr - ((10 * len : Nat) : Int)
    rq := m.bw.rq - 1000 }

/-! The checks of a request (R229) -/

/-- KIND of an access in BW_LAST. -/
def accKind : Access → Nat
  | .read => 0
  | .write => 1
  | .atomic => 2

/-- Whether the partner is quarantined. -/
def Mach.bwQuar (m : Mach) : Bool := m.flag Reg.BW_ID_QUAR || m.quarantined 15

/-- Whether a range meets the register space or a reserved range (order 2). -/
def bwOutside (pa len : Nat) : Bool :=
  let bad := fun (a : Nat) => match tierOf a with
    | .registers | .reserved | .shingleBeyond => true
    | _ => false
  bad pa || bad (pa + len - 1)

/-- Whether a window grants what a request needs (order 4): R, W, or all three for an atomic; a request to own needs R and W;
a write to Shingle fails whatever the window holds. DEDUCED: log entry 32. -/
def Mach.bwGrants (m : Mach) (n : Nat) (q : BwReq) : Bool :=
  let r := m.flag (Reg.BW_WIN_BASE_R n)
  let w := m.flag (Reg.BW_WIN_BASE_W n)
  let a := m.flag (Reg.BW_WIN_BASE_A n)
  let shin := decide (tierOf q.pa = .shingle)
  match q.line with
  | some (.rdo _) => r && w && !shin
  | some (.upg _) => w && !shin
  | some _ => r
  | none =>
    match q.acc with
    | .read => r
    | .write => w && !shin
    | .atomic => r && w && a && !shin

/-- Whether a request passes orders 2 to 4. -/
def Mach.bwAllowed (m : Mach) (q : BwReq) : Bool :=
  !bwOutside q.pa q.len &&
    (match m.bwWindow q.pa q.len with
     | some n => m.bwGrants n q
     | none => false)

/-- Answer a request poisoned, or discard it when it is a write (R230). -/
def Mach.bwPoison (m : Mach) (q : BwReq) : Mach :=
  match q.line with
  | some r => m.answerPoison (q.pa / 64) r
  | none =>
    if q.wb then m.writeBackLost 15 (q.pa / 64)
    else if q.acc = .write then m else m.emit (.data 15 q.pa [] true)

/-- The partner's request for a line that passed every check. -/
def Mach.bwHome (m : Mach) (line : Nat) (r : HomeReq) : Mach :=
  if tierOf (line * 64) = .host then m.hostLine 15 line r else m.request line r

/-- Perform a request that passed every check, under the window's key. -/
def Mach.bwPerform (m : Mach) (q : BwReq) : Mach :=
  let key := m.posKey 15 q.pa
  match q.line with
  | some r => m.bwHome (q.pa / 64) r
  | none =>
    if q.wb then
      match q.w with
      | .store bs => m.writeBack 15 (q.pa / 64) bs
      | .atomic _ _ => m
    else
      match tierOf q.pa, q.acc with
      | .host, .write | .host, .atomic => (m.hostWrite (some 15) q.pa q.w none).1
      | .shingle, .read =>
        let d := m.load key q.pa q.len
        (m.shinTouch q.pa q.len).emit (.data 15 q.pa d.1 d.2)
      | .shingle, _ => m
      | _, .read =>
        (List.range ((q.pa + q.len - 1) / 64 - q.pa / 64 + 1)).foldl (fun a i => a.bwHome (q.pa / 64 + i) (.rds 15)) m
      | _, _ => (writePieces q.pa q.w).foldl (fun a p => a.request (p.1 / 64) (.ncw (some 15) p.1 key p.2 none)) m

/-- A request in the order of R229; `front` when it is the one released from the wait. -/
def Mach.bwRequest (m : Mach) (q : BwReq) (front : Bool) : Mach :=
  if m.bwQuar then m.bwPoison q
  else if !m.bwAllowed q then (m.bwPoison q).bwViolation (accKind q.acc) q.pa
  else
    let m1 := m.bwFill
    if (front || m1.bw.held.isEmpty) && m1.bwRoom q.acc then (m1.bwDraw q.acc q.len).bwPerform q
    else m1.setBw { m1.bw with held := m1.bw.held ++ [q] }

/-- The partner's access of an effect's own bytes. -/
def Mach.bwAccess (m : Mach) (pa : Nat) (w : WriteOp) : Mach :=
  if !m.bwUp then m
  else
    match w with
    | .store bs => if bs.isEmpty then m else m.bwRequest ⟨.write, pa, bs.length, w, none, false, m.ns⟩ false
    | .atomic op _ => m.bwRequest ⟨.atomic, pa, atomicSize op, w, none, false, m.ns⟩ false

/-- The partner's request for a line (R197, R200, R227). -/
def Mach.bwLine (m : Mach) (line : Nat) (r : HomeReq) : Mach :=
  if !m.bwUp then m
  else
    match r with
    | .upg _ => m.bwRequest ⟨.write, line * 64, 64, .store [], some r, false, m.ns⟩ false
    | _ => m.bwRequest ⟨.read, line * 64, 64, .store [], some r, false, m.ns⟩ false

/-- The partner writes a line back (R200, R227): a write of the line under R229. Data that comes while a quarantine recalls its lines
is returned data, which is written home (R230). -/
def Mach.bwWriteBack (m : Mach) (line : Nat) (bs : List Byte) : Mach :=
  if !m.bwUp then m
  else if m.bwQuar ∨ m.ent line ≠ some (.o 15) then m.writeBack 15 line bs
  else m.bwRequest ⟨.write, line * 64, 64, .store bs, none, true, m.ns⟩ false

/-- PARTNER_REQUEST (R227, R229, R230). -/
def execPartnerRequest (acc : Access) (pa : BitVec 52) (len : Nat) (w : WriteOp) (s : State) :
    Host.Outcome State Fault Refusal :=
  s.act (fun m =>
    if acc = .read then
      (if !m.bwUp || len == 0 then m else m.bwRequest ⟨.read, pa.toNat, len, w, none, false, m.ns⟩ false)
    else m.bwAccess pa.toNat w)

/-- RATE_ALLOWANCE_RELEASE (R231): the oldest waiting request proceeds once its buckets have room. -/
def execRateAllowanceRelease (s : State) : Host.Outcome State Fault Refusal :=
  s.act (fun m =>
    match m.bw.held with
    | [] => m
    | q :: rest =>
      let m1 := m.bwFill
      if m1.bwRoom q.acc then
        let next := rest.map (fun (r : BwReq) => { r with since := max r.since m1.ns })
        ((m1.setBw { m1.bw with held := next }).fadd Reg.BW_CNT_THROTTLED ((m1.ns - q.since) / 1000)).bwRequest q true
      else m)

/-- PARTNER_MSIX (R227). -/
def execPartnerMsix (vector : BitVec 11) (s : State) : Host.Outcome State Fault Refusal :=
  s.act (fun m =>
    if !m.bwUp || m.bwQuar then m
    else if vector.toNat < m.fget Reg.BW_CFG_MSI_VECTORS then m.raise (160 + vector.toNat)
    else m.bwViolation 3 0)

/-- First address of the aperture (R227). -/
def apertureBase : Nat := Reg.BW_ID + 0x800000

/-- APERTURE_ACCESS (R227): the access reaches the partner's CXL.io memory, whose answer is the partner's, or is unassigned
while the link is down. DESIGN CHOICE: log entry 33. -/
def execApertureAccess (a : Agent) (off : Fin 8388608) (size : Nat) (wr : Bool) (v : Word) (s : State) :
    Host.Outcome State Fault Refusal :=
  s.act (fun m0 => m0.byAgent a (apertureBase + off.val) (fun m =>
    if m.bwUp then
      let m1 := m.emit (.link 5 [off.val, size, if wr then 1 else 0, v.toNat])
      if wr then m1
      else
        let k := m1.fresh
        k.2.emit (.regData (Config.openWord 6 k.1))
    else m.notPerformed (apertureBase + off.val) wr))

/-! Windows (R228) -/

/-- The part of the address map a window may lie in: its first and last units in one of them. -/
def windowRegion (b l : Nat) : Bool :=
  let inside := fun (lo hi : Nat) => decide (lo ≤ b) && decide (l < hi)
  inside 0 0x800000 || inside 0x1000000 0x2800000 || inside (shingleBase / 65536) ((shingleBase + shingleCap) / 65536) ||
    inside (hostBase / 65536) (2 ^ 36)

/-- Whether a window may be in force (R228): an envelope covers only what a window may; any other lies within one valid
envelope, with rights no wider and the same KEY. -/
def Mach.windowOk (m : Mach) (n : Nat) : Bool :=
  let b := m.fget (Reg.BW_WIN_BASE_BASE n)
  let l := m.fget (Reg.BW_WIN_LIM_LIMIT n)
  m.flag (Reg.BW_WIN_BASE_EN n) && decide (b ≤ l) && windowRegion b l &&
    (decide (n < 4) || (List.range 4).any (fun e =>
      m.flag (Reg.BW_WIN_LIM_VALID e) && decide (m.fget (Reg.BW_WIN_BASE_BASE e) ≤ b) &&
      decide (l ≤ m.fget (Reg.BW_WIN_LIM_LIMIT e)) && m.fget (Reg.BW_WIN_BASE_KEY e) == m.fget (Reg.BW_WIN_BASE_KEY n) &&
      (m.flag (Reg.BW_WIN_BASE_R e) || !m.flag (Reg.BW_WIN_BASE_R n)) &&
      (m.flag (Reg.BW_WIN_BASE_W e) || !m.flag (Reg.BW_WIN_BASE_W n)) &&
      (m.flag (Reg.BW_WIN_BASE_A e) || !m.flag (Reg.BW_WIN_BASE_A n))))

/-- Set VALID as R228 has it. DEDUCED: log entry 32. -/
def Mach.windowSettle (m : Mach) (n : Nat) : Mach := m.fset (Reg.BW_WIN_LIM_VALID n) (if m.windowOk n then 1 else 0)

/-- Lines the partner holds in an old coverage and outside a window's new one. -/
def Mach.windowLines (m : Mach) (n : Nat) (old : Nat × Nat) : List Nat :=
  let en := m.flag (Reg.BW_WIN_BASE_EN n)
  (m.linesOf 15).filter (fun line =>
    let u := line / 1024
    decide (old.1 ≤ u) && decide (u ≤ old.2) &&
      !(en && decide (m.fget (Reg.BW_WIN_BASE_BASE n) ≤ u) && decide (u ≤ m.fget (Reg.BW_WIN_LIM_LIMIT n))))

/-- Store a window register's writable bits and bring VALID after it. -/
def Mach.windowWrite (m : Mach) (n : Nat) (lim : Bool) (v : Word) : Mach :=
  let was := m.flag (Reg.BW_WIN_LIM_VALID n)
  let old := (m.fget (Reg.BW_WIN_BASE_BASE n), m.fget (Reg.BW_WIN_LIM_LIMIT n))
  let m1 := if lim then m.fset (Reg.BW_WIN_LIM_LIMIT n) (bits v 16 36)
    else m.rset (Reg.BW_WIN_BASE n) (BitVec.ofNat 64 (bits v 0 10 + bits v 16 36 * 65536))
  let nb := m1.fget (Reg.BW_WIN_BASE_BASE n)
  let nl := m1.fget (Reg.BW_WIN_LIM_LIMIT n)
  let keeps := m1.flag (Reg.BW_WIN_BASE_EN n) && decide (nb ≤ old.1) && decide (old.2 ≤ nl)
  match sget none n m.bw.leaving with
  | some o =>
    let m2 := m1.setBw { m1.bw with leaving := sset none n (some (min o.1 old.1, max o.2 old.2)) m1.bw.leaving }
    m2.recallLines (m2.windowLines n (min o.1 old.1, max o.2 old.2))
  | none =>
    if was ∧ !keeps then
      let m2 := (m1.fset (Reg.BW_WIN_LIM_VALID n) 0).setBw { m1.bw with leaving := sset none n (some old) m1.bw.leaving }
      m2.recallLines (m2.windowLines n old)
    else m1.windowSettle n

/-- BW_WINDOW_WRITE (R8, R228, R232, R258): windows 0 to 3 are RWL, locked once the configuration image is applied; the others are the
owner's. -/
def execBwWindowWrite (a : Agent) (n : Fin 16) (lim : Bool) (v : Word) (s : State) : Host.Outcome State Fault Refusal :=
  s.act (fun m =>
    let addr := if lim then Reg.BW_WIN_LIM n.val else Reg.BW_WIN_BASE n.val
    if !m.flag Reg.BW_ID_FITTED then m
    else if n.val < 4 then (if m.lh.booted then m.logE 0x01 0 0 noJob addr else m.windowWrite n.val lim v)
    else m.owned a addr (fun x => x.windowWrite n.val lim v))

/-- WINDOW_RECALL_DONE (R228): once the partner holds nothing outside the new coverage, VALID reflects the new window. -/
def execWindowRecallDone (n : Fin 16) (s : State) : Host.Outcome State Fault Refusal :=
  s.act (fun m =>
    match sget none n.val m.bw.leaving with
    | none => m
    | some old =>
      if (m.windowLines n.val old).isEmpty then
        (m.setBw { m.bw with leaving := sset none n.val none m.bw.leaving }).windowSettle n.val
      else m)

/-! The link (R233) -/

/-- The link goes down: position 15 is absent, and partner requests in flight are discarded. -/
def Mach.bwLinkDown (m : Mach) : Mach :=
  let m1 := ((m.fset Reg.BW_ID_LINK_UP 0).fset Reg.BW_ID_LANES 0).goAbsent 15
  m1.setBw { m1.bw with held := [] }

/-- The link trains anew (R233): position 15 is back, and the quarantine and its violations are past (R230). -/
def Mach.bwTrained (m : Mach) (lanes : Nat) : Mach :=
  let u := ((m.bwLinkDown.fset Reg.BW_ID_LINK_UP 1).fset Reg.BW_ID_LANES lanes).comeBack 15
  (u.fset Reg.BW_ID_QUAR 0).setBw { u.bw with viols := [] }

/-- RETRAIN (R230, R232, R233, R258): the partner's protocol state is reset; a link that trains re-admits position 15 and
clears the quarantine. -/
def execRetrain (a : Agent) (ok : Bool) (lanes : BitVec 7) (s : State) : Host.Outcome State Fault Refusal :=
  s.act (fun m =>
    if !m.flag Reg.BW_ID_FITTED then m
    else m.owned a Reg.BW_CTRL (fun x => if ok then x.bwTrained lanes.toNat else x.bwLinkDown))

/-- PARTNER_LINK_DOWN (R233). -/
def execPartnerLinkDown (s : State) : Host.Outcome State Fault Refusal :=
  s.act (fun m => if m.flag Reg.BW_ID_LINK_UP then m.bwLinkDown else m)

end Sys2Proof.Machine
end

