-- ==== Sys2Proof/Machine/Reach.lean ====
section
/-!
DEFINITION. What the families of the seaward side share: ports, routes, flooding, a port that goes down and the Tide's
upstream port, and the connection contexts with their remote writes on the way (R312 to R320, R321, R331).
-/

namespace Sys2Proof.Machine

def Mach.setSw (m : Mach) (b : SwSt) : Mach := { m with sw := b }
def Mach.setTd (m : Mach) (b : TdSt) : Mach := { m with td := b }

/-- This module's identity. -/
def Mach.ident (m : Mach) : Nat := m.fget Reg.SW_ID_IDENTITY

/-- Whether port 7 runs Ethernet (R306). -/
def Mach.ethPort (m : Mach) (p : Nat) : Bool := decide (p = 7) && m.flag Reg.SW_CFG_PORT7_ETH

/-- A port whose ends have agreed a version on at least one active lane. -/
def Mach.portUp (m : Mach) (p : Nat) : Bool :=
  m.fget (Reg.SW_PORT_MODE p) == 0 && m.fget (Reg.SW_PORT_VERSION p) != 0 && m.fget (Reg.SW_PORT_LANES p) != 0

/-- A port that carries fabric traffic (R330). -/
def Mach.portOpen (m : Mach) (p : Nat) : Bool := m.portUp p && !m.flag (Reg.SW_PORT_FOREIGN p)

def portLanes (p : Nat) : List Nat := (List.range 8).map (fun i => 8 * p + i)

/-- Active lanes of a port. -/
def Mach.lanesActive (m : Mach) (p : Nat) : Nat :=
  ((portLanes p).filter (fun l => m.fget (Reg.SW_LANE_STATE l) == 2)).length

/-- Flits of data that a message takes: 240 bytes each (R310, R334). -/
def flitsOf (n : Nat) : Nat := (n + 239) / 240

/-- The flits of a message, numbered from `q` (R310). -/
def flitsFrom (q : Nat) (words : List Nat) (data : List Byte) : List FabFlit :=
  (List.range (max 1 (flitsOf data.length))).map (fun i => ⟨(q + i) % 4096, words, (data.drop (240 * i)).take 240⟩)

/-- A message leaves on a port: its flits are numbered and kept for replay, the last 2,048 of the port (R310). -/
def Mach.fabSend (m : Mach) (p : Nat) (words : List Nat) (data : List Byte) : Mach :=
  let q := sget 0 p m.sw.sendSeq
  let kept := sget [] p m.sw.replay ++ flitsFrom q words data
  (m.setSw { m.sw with
    sendSeq := sset 0 p ((q + max 1 (flitsOf data.length)) % 4096) m.sw.sendSeq
    replay := sset [] p (kept.drop (kept.length - 2048)) m.sw.replay }).emit (.fabric p words data)

/-- Send a message on every port that is up but one. -/
def Mach.flood (m : Mach) (but : Option Nat) (words : List Nat) (data : List Byte) : Mach :=
  (List.range 8).foldl (fun a p => if a.portUp p ∧ but ≠ some p then a.fabSend p words data else a) m

/-! Routes (R314, R315) -/

/-- Ranks of the membership table in force. -/
def Mach.ranks (m : Mach) : Nat := m.sw.table.length / 2
def Mach.rankIdent (m : Mach) (r : Nat) : Nat := bits (wd m.sw.table (2 * r)) 0 48

/-- The port toward a rank: PRIMARY while it carries traffic, otherwise ALTERNATE. -/
def Mach.route (m : Mach) (r : Nat) : Option Nat :=
  if m.ranks ≤ r then none
  else
    let w := wd m.sw.table (2 * r + 1)
    let a := bits w 0 4
    let b := bits w 4 4
    if a < 8 ∧ m.portOpen a then some a else if b < 8 ∧ m.portOpen b then some b else none

/-! Slots and what leaves in them (R334, R335, R352) -/

/-- Flits that a port carries in a slot after its guard: one of 4.8 ns on each active lane, 408 on a lane by default (R334). -/
def Mach.slotFlits (m : Mach) (p : Nat) : Nat :=
  m.lanesActive p * ((m.fget Reg.TD_SLOT_SLOT - m.fget Reg.TD_SLOT_GUARD) * 10 / 48)

/-- The tag a message travels under on a port: none on its alternate port (R335). -/
def Mach.txTag (m : Mach) (p : Nat) (e : TxMsg) : Nat :=
  if bits (wd m.sw.table (2 * e.rank + 1)) 0 4 = p then e.tag else 0

/-- Whether a message is the scheduled traffic of a port's slot (R334, R352). -/
def Mach.txScheduled (m : Mach) (p k : Nat) (e : TxMsg) : Bool :=
  m.txTag p e != 0 && m.txTag p e == m.td.tags.getD p 0 && decide (e.slot ≤ k)

/-- Whether the guard of a slot has passed (R332): no scheduled transmission begins before that. -/
def Mach.guardOver (m : Mach) (k : Nat) : Bool :=
  decide (k * m.fget Reg.TD_SLOT_SLOT + m.fget Reg.TD_SLOT_GUARD ≤ (m.rget Reg.TD_NOW).toNat)

/-- Whether a message may be on the wire now, in slot `k` on port `p`, where `kept` are those before it that wait: the port does not
re-stripe (R312), messages of one connection keep their order, scheduled traffic goes first once the guard is over, and open traffic takes what it leaves. DESIGN CHOICE:
log entry 67. -/
def Mach.txMay (m : Mach) (opened : Bool) (p k : Nat) (kept : List TxMsg) (e : TxMsg) : Bool :=
  !m.sw.stripe.contains p && !kept.any (fun x => x.conn == e.conn && x.conn.isSome) &&
    (if opened then
      m.txTag p e == 0 && (e.left == 0 || !m.sw.queue.any (fun x => m.route x.rank == some p && m.txScheduled p k x))
    else m.txScheduled p k e && m.guardOver k)

/-- One pass over the messages that wait: those that may leave do, as far as the slot has room; one that does not finish goes on in a
later slot. A message toward a rank without a route is dropped. -/
def Mach.txPass (opened : Bool) (k : Nat) : List TxMsg → List TxMsg → Mach → Mach
  | [], kept, m => m.setSw { m.sw with queue := kept }
  | e :: rest, kept, m =>
    match m.route e.rank with
    | none => Mach.txPass opened k rest kept m
    | some p =>
      let room := m.slotFlits p - sget 0 p m.sw.used
      let take := min room e.left
      if m.txMay opened p k kept e then
        let m1 := m.setSw { m.sw with used := sset 0 p (sget 0 p m.sw.used + take) m.sw.used }
        if e.left ≤ room then Mach.txPass opened k rest kept (m1.fabSend p e.words e.data)
        else Mach.txPass opened k rest (kept ++ [{ e with left := e.left - room }]) m1
      else Mach.txPass opened k rest (kept ++ [e]) m

/-- Everything that waits leaves as open traffic, for no slot is honoured (R335), but on a port that re-stripes (R312). -/
def Mach.txFlush (m : Mach) : Mach :=
  m.sw.queue.foldl (fun a e =>
    match a.route e.rank with
    | some p =>
      if a.sw.stripe.contains p then a.setSw { a.sw with queue := a.sw.queue ++ [e] } else a.fabSend p e.words e.data
    | none => a) (m.setSw { m.sw with queue := [] })

/-- Send what may leave now: scheduled traffic, then open traffic. -/
def Mach.txServe (m : Mach) : Mach :=
  match m.td.slot with
  | none => if m.sw.queue.isEmpty then m else m.txFlush
  | some k =>
    let m1 := Mach.txPass false k m.sw.queue [] m
    Mach.txPass true k m1.sw.queue [] m1

/-- A message joins those that wait. -/
def Mach.txAppend (m : Mach) (r tag slot : Nat) (conn : Option Nat) (words : List Nat) (data : List Byte) : Mach :=
  m.setSw { m.sw with queue := m.sw.queue ++ [⟨r, tag, slot, conn, words, data, flitsOf data.length⟩] }

/-- Send a message toward a rank under a tag, from a slot on. Words: kind, rank, contents. -/
def Mach.sendTagged (m : Mach) (r tag slot : Nat) (conn : Option Nat) (words : List Nat) (data : List Byte) : Mach :=
  match m.td.slot, m.route r with
  | _, none => m
  | none, some p =>
    if m.sw.stripe.contains p then m.txAppend r tag slot conn words data else m.fabSend p words data
  | some _, some _ => (m.txAppend r tag slot conn words data).txServe

/-- Send a message toward a rank as open traffic. -/
def Mach.sendTo (m : Mach) (r : Nat) (words : List Nat) (data : List Byte) : Mach := m.sendTagged r 0 0 none words data

/-! The upstream port (R321, R331) -/

/-- Whether a port has heard the master that the module follows. -/
def Mach.hearsMaster (m : Mach) (p : Nat) : Option TdHeard :=
  (sget none p m.td.heard).filter (fun h =>
    h.ident == m.fget Reg.TD_MASTER_IDENTITY && h.gen == m.fget Reg.TD_STATE_GENERATION && m.portUp p)

/-- The port that reaches the master in the fewest hops; ties to the lower number. -/
def Mach.bestPort (m : Mach) : Option (Nat × Nat) :=
  (List.range 8).foldl (fun best p =>
    match m.hearsMaster p with
    | none => best
    | some h => (match best with
      | some (_, d) => if h.hops < d then some (p, h.hops) else best
      | none => some (p, h.hops))) none

/-- Take the upstream port, and the depth and bound that follow (R322). -/
def Mach.setUpstream (m : Mach) (p hops : Nat) : Mach :=
  ((m.fset Reg.TD_STATE_UPSTREAM p).fset Reg.TD_STATE_DEPTH (min (hops + 1) 63)).fset Reg.TD_STATE_BOUND (min (125 * (hops + 1)) 65535)

def Mach.chooseUpstream (m : Mach) : Mach :=
  if m.fget Reg.TD_STATE_STATE ≠ 1 then m
  else
    match m.bestPort with
    | some (p, h) => m.setUpstream p h
    | none => m

/-! Ports and lanes going down (R308, R312, R313, R315, R316) -/

/-- A fabric port loses its last lane or its peer: it is down, and the reach is told. -/
def Mach.portDown (m : Mach) (p : Nat) : Mach :=
  if m.ethPort p then m.fset (Reg.SW_PORT_LANES p) 0
  else
    let was := m.portUp p
    let m1 := (((m.fset (Reg.SW_PORT_LANES p) 0).fset (Reg.SW_PORT_MODE p) 2).fset (Reg.SW_PORT_VERSION p) 0).fset
      (Reg.SW_PORT_FOREIGN p) 0
    let m2 := { m1 with
      sw := { m1.sw with
        stripe := m1.sw.stripe.filter (fun q => q != p)
        next := sset 0 p 0 m1.sw.next
        sendSeq := sset 0 p 0 m1.sw.sendSeq
        replay := sset [] p [] m1.sw.replay }
      td := { m1.td with heard := sset none p none m1.td.heard } }
    if was then (m2.flood none [4, m2.ident, m2.fget (Reg.SW_PEER_IDENTITY p)] []).chooseUpstream else m2

/-- A lane that is lit or trains retires with a cause; its port is to re-stripe at the next agreed flit boundary (R312). A
lane already retired keeps its cause. DEDUCED: log entry 38. -/
def Mach.laneOut (m : Mach) (l cause : Nat) : Mach :=
  let st := m.fget (Reg.SW_LANE_STATE l)
  if st ≠ 1 ∧ st ≠ 2 then m
  else
    let m1 := ((m.fset (Reg.SW_LANE_STATE l) 3).fset (Reg.SW_LANE_CAUSE l) cause).logE 0x0A 0 l noJob 0
    let m2 := m1.setSw { m1.sw with
      hits := sset [] l [] m1.sw.hits
      probed := sset false l false m1.sw.probed
      restoring := if m1.sw.restoring = some l then none else m1.sw.restoring }
    let m3 := if m.sw.restoring = some l then m2.fset Reg.SW_LANE_STATUS_BUSY 0 else m2
    if m3.ethPort (l / 8) then m3.fset (Reg.SW_PORT_LANES (l / 8)) (m3.lanesActive (l / 8))
    else if st = 2 ∧ !m3.sw.stripe.contains (l / 8) then m3.setSw { m3.sw with stripe := l / 8 :: m3.sw.stripe }
    else m3

def Mach.lanesOut (m : Mach) (cause : Nat) (ls : List Nat) : Mach := ls.foldl (fun a l => a.laneOut l cause) m

/-! Connection contexts (R317 to R320) -/

def Mach.ctx (m : Mach) (c : Nat) : Option SwCtx := sget none c m.sw.ctxs

/-- Set a context, with the count of free ones. -/
def Mach.setCtx (m : Mach) (c : Nat) (v : Option SwCtx) : Mach :=
  let t := sset none c v m.sw.ctxs
  (m.setSw { m.sw with ctxs := t }).fset Reg.SW_CTX_STATUS_FREE (16384 - t.length)

/-- The message of a send, as it leaves the module: kind 5, rank, sender's context, message number, offset, signal. -/
def SwSend.words (s : SwSend) (c : SwCtx) (rank me : Nat) : List Nat :=
  [if s.head.isEmpty then 5 else 11, c.peer, c.peerCtx, rank, me, s.num, s.off] ++
    (match s.sig with
     | some g => [1, g.event.toNat, g.value.toNat]
     | none => [0, 0, 0]) ++ s.head.map (fun (w : Word) => w.toNat)

/-- Send one message on a connection, under a tag and from a slot on: it takes the next number and stays until acknowledged. A failed
or closed context refuses it with 0x0504. -/
def Mach.ctxSend (m : Mach) (c : Nat) (off : Nat) (data : List Byte) (sig : Option RwSignal) (head : List Word)
    (cmd : Option Nat) (tag slot : Nat) : Mach × Option Nat :=
  match m.ctx c with
  | none => (m, some 0x0504)
  | some x =>
    if x.failed || x.closing then (m, some 0x0504)
    else
      let s : SwSend := ⟨x.txNext, off, data, sig, head, cmd, tag, slot⟩
      let m1 := match cmd with
        | some k => { m with js := { m.js with outst := sset 0 k (sget 0 k m.js.outst + 1) m.js.outst } }
        | none => m
      let m2 := m1.setCtx c (some { x with
        txNext := x.txNext + 1
        sends := x.sends ++ [s] })
      (m2.sendTagged x.peer tag slot (some c) (s.words x (m2.fget Reg.SW_SELF_RANK) c) data, none)

/-- Remote writes received whose data is home are acknowledged, and perform their signals in order (R319). The number bounds
those looked at. -/
def Mach.rwSettle (m : Mach) : Nat → Mach
  | 0 => m
  | n + 1 =>
    match m.sw.recv.find? (fun r =>
        sget 0 r.id m.js.outst == 0 && (m.sw.recv.takeWhile (fun q => q.id != r.id)).all (fun q => q.ctx != r.ctx)) with
    | none => m
    | some r =>
      let m1 := { m with
        sw := { m.sw with recv := m.sw.recv.filter (fun q => q.id != r.id) }
        js := { m.js with agentFail := sset 0 r.id 0 m.js.agentFail } }
      let m2 := match r.sig with
        | some g => m1.signal r.job 192 g.event.toNat g.value.toNat
        | none => m1
      let m3 := match m2.ctx r.ctx with
        | some x => m2.sendTo x.peer [6, x.peer, x.peerCtx, r.num] []
        | none => m2
      m3.rwSettle n

def Mach.rwHome (m : Mach) : Mach := m.rwSettle m.sw.recv.length

/-- Close every context of a job that has no send in flight, and begin closing the others (R318). -/
def Mach.closeJob (m : Mach) (jn : Nat) : Mach :=
  (m.sw.ctxs.filter (fun p => match p.2 with
    | some x => x.job == jn
    | none => false)).foldl (fun a p =>
      match p.2 with
      | some x => a.setCtx p.1 (if x.sends.isEmpty then none else some { x with closing := true })
      | none => a) m

end Sys2Proof.Machine
end

