-- ==== Sys2Proof/Machine/Directory.lean ====
section
/-!
DEFINITION. The directory's commands (R197 to R209): requests, write-backs, notices, answers, acknowledgements, time-outs,
and engine reads, which the directory does not see.
-/

namespace Sys2Proof.Machine

/-- A request to own a line of the Shingle window is a store's (R19, R252): the store is discarded and logged, and the line is read. -/
def Mach.shingleRequest (m : Mach) (x line : Nat) (r : HomeReq) : Mach :=
  match r with
  | .rds _ => m.request line r
  | _ => (m.logE 0x02 0x0302 x noJob (line * 64)).request line (.rds x)

/-- A coherent agent's request. The partner's passes Breakwater (R227). For any other: an absent landward port, or one that is not
armed, is answered poisoned (R279), any other absent agent sends none; a line of the host range is the host's (R263); a reserved
address reads poisoned, and both it and a register line are logged (R7, R18, R252). -/
def Mach.agentRequest (m : Mach) (x line : Nat) (r : HomeReq) : Mach :=
  if x = 15 then m.bwLine line r
  else if (x = 13 ∨ x = 14) ∧ (m.absent x ∨ !m.armed (x - 13)) then m.answerPoison line r
  else if m.absent x then m
  else
    match tierOf (line * 64) with
    | .stack | .shelf => m.request line r
    | .shingle => m.shingleRequest x line r
    | .host => m.hostLine x line r
    | .registers => m.logE 0x01 0 x noJob (line * 64)
    | _ => (m.logE 0x02 0x0301 x noJob (line * 64)).answerPoison line r

/-- RDS (R200). -/
def execRds (x : Pos) (line : BitVec 46) (s : State) : Host.Outcome State Fault Refusal :=
  s.act (fun m => m.agentRequest x.val line.toNat (.rds x.val))

/-- RDO (R200). A read-only agent issues none (R197). -/
def execRdo (x : Pos) (line : BitVec 46) (s : State) : Host.Outcome State Fault Refusal :=
  s.act (fun m => if isReadOnly x.val then m else m.agentRequest x.val line.toNat (.rdo x.val))

/-- UPG (R200). A read-only agent issues none (R197). -/
def execUpg (x : Pos) (line : BitVec 46) (s : State) : Host.Outcome State Fault Refusal :=
  s.act (fun m => if isReadOnly x.val then m else m.agentRequest x.val line.toNat (.upg x.val))

/-- WB (R200); the partner's passes Breakwater (R227). -/
def execWb (y : Pos) (line : BitVec 46) (data : BitVec 512) (s : State) : Host.Outcome State Fault Refusal :=
  s.act (fun m =>
    let bs := leBytes 64 data.toNat
    if m.absent y.val then m
    else if y.val = 15 then (m.bwWriteBack line.toNat bs).bwSettle.rwHome
    else (m.writeBack y.val line.toNat bs).bwSettle.rwHome)

/-- EVICTION_NOTICE (R198, R200, R249); `toLlc` says that an L2's line is placed in the last-level cache. -/
def execEvictionNotice (x : Pos) (line : BitVec 46) (toLlc : Bool) (s : State) : Host.Outcome State Fault Refusal :=
  s.act (fun m => if m.absent x.val || m.quarantined x.val then m
    else if toLlc ∧ x.val ≤ 7 then m.request line.toNat (.move x.val)
    else (m.evictNotice x.val line.toNat).bwSettle.rwHome)

/-- What a die's far cache does on a write of one of its engines (R151): its lines of the address take the bytes, and those of an
atomic, whose result is formed at the home, take that or are given up while it waits there. DESIGN CHOICE: log entry 14. -/
def Mach.farAfter (m : Mach) (r : Requester) (key pa : Nat) (w : WriteOp) : Mach :=
  match r, w with
  | .engine c, .store bs => m.farUpdate c.die.val pa bs
  | .engine c, .atomic op _ =>
    if tierOf pa ≠ .host ∧ (m.txn (pa / 64)).isNone then m.farUpdate c.die.val pa (m.peeks key pa (atomicSize op))
    else m.dropFar (fun l => l.die == c.die.val && l.line == pa / 256)
  | .agent _, _ => m

/-- NON_CACHING_WRITE (R18, R19, R151, R200, R207, R264, R278, R279). -/
def execNonCachingWrite (r : Requester) (pa : BitVec 52) (key : Fin 64) (w : WriteOp) (s : State) :
    Host.Outcome State Fault Refusal :=
  s.act (fun m =>
    let a := pa.toNat
    let who := match r with
      | .agent p => some p.val
      | .engine _ => none
    let host := decide (who = some 13 ∨ who = some 14)
    if who = some 15 then m.bwAccess a w
    else if host ∧ (m.absent (who.getD 0) ∨ !m.armed (who.getD 0 - 13)) then
      m.answerPoison (a / 64) (.ncw who a 0 w none)
    else if who.any m.absent then m
    else
      match tierOf a with
      | .stack | .shelf =>
        ((writePieces a w).foldl (fun x p => x.request (p.1 / 64) (.ncw who p.1 (m.keyId key.val) p.2 none)) m).farAfter r
          (m.keyId key.val) a w
      | .host => if who.all landwardAgent then (m.hostWrite who a w none).1.farAfter r 0 a w else m
      | .shingle =>
        (match who with
         | some p => m.logE 0x02 0x0302 p noJob a
         | none => m)
      | .registers => m
      | _ =>
        (match who with
         | some p => m.logE 0x02 0x0301 p noJob a
         | none => m))

/-- ENGINE_READ (R206): the 256-byte transaction of an address, from memory, a far cache or a near stack, with no change to
the directory. One that its landward port or a change of route holds waits (R269, R275). -/
def Mach.engineRead (m : Mach) (core job pa key : Nat) : Mach :=
  let r := m.engPiece core job ⟨pa, key, 256⟩
  match r.2 with
  | .ok bs => r.1.emit (.data (64 + core) pa bs false)
  | .error .wait => r.1.lwWait (.engine core job pa key)
  | .error _ => r.1.emit (.data (64 + core) pa [] true)

/-- ENGINE_READ (R206). -/
def execEngineRead (c : CoreId) (job : Fin 64) (pa : BitVec 52) (key : Fin 64) (s : State) :
    Host.Outcome State Fault Refusal :=
  s.act (fun m => m.engineRead c.flat job.val (pa.toNat / 256 * 256) (m.keyId key.val))

/-- Accesses to the host range that waited go on, in their order (R269, R275). -/
def Mach.lwRetry (m : Mach) : Mach :=
  let ws := m.lw.waits
  ws.foldl (fun a w => match w with
    | .line line r => a.hostLine (r.pos.getD 0) line r
    | .engine core job pa key => a.engineRead core job pa key) { m with lw := { m.lw with waits := [] } }

/-- Reads of a lost port that wait return poisoned (R277). -/
def Mach.lwWaitsLost (m : Mach) (p : Nat) : Mach :=
  let pa := fun (w : LwWait) => match w with
    | .line line _ => line * 64
    | .engine _ _ a _ => a
  let mine := m.lw.waits.filter (fun w => m.lwPort (pa w) == p)
  mine.foldl (fun a w => match w with
    | .line line r => a.answerPoison line r
    | .engine core _ x _ => a.emit (.data (64 + core) x [] true))
    { m with lw := { m.lw with waits := m.lw.waits.filter (fun w => m.lwPort (pa w) != p) } }

/-- SNOOP_RESPONSE (R200, R203). -/
def execSnoopResponse (y : Pos) (line : BitVec 46) (ans : SnoopAns) (s : State) : Host.Outcome State Fault Refusal :=
  s.act (fun m => (m.snoopAnswer y.val line.toNat ans).bwSettle.rwHome)

/-- COMPLETION_ACK (R202). -/
def execCompletionAck (line : BitVec 46) (s : State) : Host.Outcome State Fault Refusal :=
  s.act (fun m => (m.ackTxn line.toNat).bwSettle.rwHome)

/-- SNOOP_TIMEOUT (R203). While a landward port is in Recovery its position's timeout is suspended (R275). -/
def execSnoopTimeout (y : Pos) (line : BitVec 46) (s : State) : Host.Outcome State Fault Refusal :=
  s.act (fun m =>
    if (y.val = 13 ∨ y.val = 14) ∧ m.recovering (y.val - 13) then m else (m.snoopTimeout y.val line.toNat).bwSettle.rwHome)

end Sys2Proof.Machine
end

