-- ==== Sys2Proof/Machine/Hart.lean ====
section
/-!
DEFINITION. What a Headland hart holds and does by itself (R244, R246, R247, R253, R256): its registers, its traps, the files of its
incoming MSI controller, its timers, and rounding by its own rounding mode. The spec names the RISC-V extensions a hart implements
and defines none of them; what they define is PRESUMED: log entry 65.
-/

namespace Sys2Proof.Machine

/-- A control and status register of a hart. -/
def Mach.csr (m : Mach) (h n : Nat) : Word := sget 0 (h * 4096 + n) m.hl.csrs

def Mach.setHl (m : Mach) (h : HlSt) : Mach := { m with hl := h }

def Mach.setCsr (m : Mach) (h n : Nat) (v : Word) : Mach := m.setHl { m.hl with csrs := sset 0 (h * 4096 + n) v m.hl.csrs }

def Mach.hartPriv (m : Mach) (h : Nat) : Priv := sget .machine h m.hl.priv

/-- Privilege level of a mode: 3 machine, 1 supervisor, 0 user. -/
def Priv.level : Priv → Nat
  | .machine => 3
  | .supervisor | .virtualSupervisor => 1
  | .user | .virtualUser => 0

/-- Whether a mode is virtual. -/
def Priv.virt : Priv → Bool
  | .virtualSupervisor | .virtualUser => true
  | _ => false

/-- Where a trap goes: the base, or for an interrupt in vectored mode the base and 4 bytes for each code. -/
def trapVector (tvec : Word) (irq : Bool) (code : Nat) : Word :=
  let base := tvec.toNat / 4 * 4
  BitVec.ofNat 64 (if irq ∧ tvec.toNat % 4 = 1 then base + 4 * code else base)

/-- A status word on a trap: a lower interrupt enable moves to the previous one and clears, and the previous level is kept. -/
def trapStatus (w : Word) (ie pie pp ppw level : Nat) : Word :=
  Fld.put ⟨0, pp, ppw⟩ (Fld.put ⟨0, ie, 1⟩ (Fld.put ⟨0, pie, 1⟩ w (w.toNat / 2 ^ ie % 2)) 0) level

/-- The hart enters a handler: its status, its saved program counter, the cause and the trap value, from CSR numbers; its new mode. -/
def Mach.enterTrap (m : Mach) (h status epc cause tval tvec : Nat) (st : Word) (irq : Bool) (code : Nat) (value : Word) (p : Priv) : Mach :=
  let c := BitVec.ofNat 64 (code + (if irq then 2 ^ 63 else 0))
  let m1 := (((m.setCsr h status st).setCsr h epc (sget 0 h m.hl.pc)).setCsr h cause c).setCsr h tval value
  m1.setHl { m1.hl with
    pc := sset 0 h (trapVector (m.csr h tvec) irq code) m1.hl.pc
    priv := sset .machine h p m1.hl.priv }

/-- A trap of a hart, exception or interrupt, taken in the mode that delegation gives it. -/
def Mach.hartTrap (m : Mach) (h : Nat) (irq : Bool) (code : Nat) (value : Word) : Mach :=
  let p := m.hartPriv h
  let delegs := fun (n : Nat) => (m.csr h n).getLsbD code
  let toS := p != .machine && delegs (if irq then 0x303 else 0x302)
  if toS && p.virt && delegs (if irq then 0x603 else 0x602) then
    let seen := if irq then code - 1 else code
    m.enterTrap h 0x200 0x241 0x242 0x243 0x205 (trapStatus (m.csr h 0x200) 1 5 8 1 p.level) irq seen value .virtualSupervisor
  else
    let virt := if p.virt then 1 else 0
    if toS then
      let hs := Fld.put ⟨0, 7, 1⟩ (m.csr h 0x600) virt
      let hs1 := if p.virt then Fld.put ⟨0, 8, 1⟩ hs p.level else hs
      (m.setCsr h 0x600 hs1).enterTrap h 0x300 0x141 0x142 0x143 0x105 (trapStatus (m.csr h 0x300) 1 5 8 1 p.level) irq code value
        .supervisor
    else
      let st := Fld.put ⟨0, 39, 1⟩ (trapStatus (m.csr h 0x300) 3 7 11 2 p.level) virt
      m.enterTrap h 0x300 0x341 0x342 0x343 0x305 st irq code value .machine

/-! Interrupts (R253) -/

/-- Key of an interrupt identity of a file of a hart: file 0 the supervisor's, 1 to 7 a guest's, 8 the machine's. -/
def msiKey (h file id : Nat) : Nat := (h * 9 + file) * 2048 + id

/-- The least pending and enabled identity below a file's threshold, while the file delivers; 0 for none. -/
def Mach.topIdentity (m : Mach) (h file : Nat) : Nat :=
  let th := sget 0 (h * 9 + file) m.hl.threshold
  if !sget false (h * 9 + file) m.hl.delivers then 0
  else
    ((m.hl.msi.map Prod.fst).foldl (fun best k =>
      let id := k % 2048
      if k / 2048 = h * 9 + file ∧ sget false k m.hl.enabled ∧ id ≠ 0 ∧ (th = 0 ∨ id < th) ∧ (best = 0 ∨ id < best) then id else best) 0)

/-- Local time of a hart (R256): Lighthouse's nanoseconds. -/
def Mach.hartTime (m : Mach) : Nat := m.ns

/-- Whether an interrupt of a hart is pending, by its code: those of the MSI files (R253) and of the two timers (R256). -/
def Mach.irqPending (m : Mach) (h code : Nat) : Bool :=
  let guest := fun (g : Nat) => g != 0 && m.topIdentity h g != 0
  match code with
  | 11 => m.topIdentity h 8 != 0
  | 9 => m.topIdentity h 0 != 0
  | 12 => (List.range 8).any (fun g => guest g && (m.csr h 0x607).getLsbD g)
  | 10 => guest (bits (m.csr h 0x600) 12 6)
  | 5 => (m.csr h 0x30A).getLsbD 63 && decide ((m.csr h 0x14D).toNat ≤ m.hartTime)
  | 6 => (m.csr h 0x60A).getLsbD 63 && decide ((m.csr h 0x24D).toNat ≤ (m.hartTime + (m.csr h 0x605).toNat) % 2 ^ 64)
  | _ => false

/-- Whether a hart takes a pending interrupt now: its enable in mie, and the level at which delegation handles it. -/
def Mach.irqTaken (m : Mach) (h code : Nat) : Bool :=
  let p := m.hartPriv h
  let st := m.csr h 0x300
  (m.csr h 0x304).getLsbD code && m.irqPending h code &&
    (if !(m.csr h 0x303).getLsbD code then p != .machine || st.getLsbD 3
     else if !(m.csr h 0x603).getLsbD code then p != .machine && (p.virt || p.level == 0 || st.getLsbD 1)
     else p == .virtualUser || (p == .virtualSupervisor && (m.csr h 0x200).getLsbD 1))

/-- A hart takes the interrupt of greatest priority that it may. -/
def Mach.hartIrq (m : Mach) (h : Nat) : Mach :=
  match [11, 9, 5, 12, 10, 6].find? (fun c => m.irqTaken h c) with
  | some c => m.hartTrap h true c 0
  | none => m

/-- Harts whose comparison registers are in use. -/
def Mach.timedHarts (m : Mach) : List Nat :=
  ((m.hl.csrs.filter (fun p => p.1 % 4096 == 0x14D || p.1 % 4096 == 0x24D)).map (fun p => p.1 / 4096)).eraseDups

/-! Floating point (R246) -/

/-- A value rounded to a format by a rounding mode (0 to nearest even, 1 toward zero, 2 down, 3 up, 4 to nearest with ties away), and
the flags it raises: inexact 1, underflow 2, overflow 4. -/
def hartRound (f : Fmt) (frm : Nat) (v : Num) : Nat × Nat :=
  match v with
  | .nan => (f.qnan, 0)
  | .inf s => (f.infCode s, 0)
  | .fin s m e =>
    let away := (frm == 2 && s) || (frm == 3 && !s)
    let c := if frm = 0 then f.roundMag .rne m e
      else
        let t := f.roundMag .rtz m e
        let back := f.decode t
        let exact := (Num.fin false m e).eqv back
        if exact then t
        else if away then t + 1
        else if frm = 4 then f.roundMag .rne (m * 2 ^ 64 + 1) (e - 64)
        else t
    if f.maxFin < c then (if frm = 1 ∨ ((frm = 2 ∨ frm = 3) ∧ !away) then (f.sign s f.maxFin, 5) else (f.infCode s, 5))
    else
      let nx := !(Num.fin false m e).eqv (f.decode c)
      (f.sign s c, if !nx then 0 else if c < 2 ^ f.mb then 3 else 1)

/-- Whether an element's bits are a signalling NaN. -/
def Fmt.signalling (f : Fmt) (b : Nat) : Bool := (f.decode b).isNan && b / 2 ^ (f.mb - 1) % 2 == 0

/-- One addition of a reduction: the accumulator's new bits and the flags; 16 for an invalid operation. -/
def hartAdd (acc src : Fmt) (frm a x : Nat) : Nat × Nat :=
  let u := acc.decode a
  let v := src.decode x
  let t := Num.add u v
  let t1 := if frm = 2 ∧ t.isZero ∧ !(u.isZero && v.isZero && !u.neg? && !v.neg?) then Num.fin true 0 0 else t
  let bad := acc.signalling a || src.signalling x || (t.isNan && !u.isNan && !v.isNan)
  let r := hartRound acc frm t1
  (r.1, if bad then 16 else r.2)

/-- An ordered sum (R246): each element added in turn to the accumulator and rounded each time; the flags gather. -/
def orderedSum (acc src : Fmt) (frm : Nat) (a flags : Nat) : List Nat → Nat × Nat
  | [] => (a, flags)
  | x :: xs =>
    let r := hartAdd acc src frm a x
    orderedSum acc src frm r.1 (flags ||| r.2) xs

end Sys2Proof.Machine
end

