-- ==== Sys2Proof/Machine/Headland.lean ====
section
/-!
DEFINITION. The Headland server cores as the module sees them (R243 to R262): access faults, the ordered reduction, waits on
a reservation, harts released, ownership, and interrupts, landward MSI-X among them (R274).
-/

namespace Sys2Proof.Machine

/-- Whether a hart has been released and its die serves. DEDUCED: log entry 34. -/
def Mach.hartRuns (m : Mach) (h : Nat) : Bool := m.flag ⟨Reg.HL_HART_RUN, h, 1⟩ && m.dieUp 4

/-- A precise access fault of a hart (R247, R252): the exception code and the trap value, and its handler. -/
def Mach.accessFault (m : Mach) (h code : Nat) (addr : Word) : Mach :=
  (m.setHl { m.hl with
    trap := sset none h (some (code, addr.toNat)) m.hl.trap
    resv := sset none h none m.hl.resv
    broken := sset false h false m.hl.broken
    waiting := sset false h false m.hl.waiting }).hartTrap h false code addr

/-- POISONED_LOAD (R247): a precise access fault of code 5, or 1 for a fetch, with the address as trap value: the hart enters its
handler. Nothing is installed in a cache. -/
def execPoisonedLoad (h : Fin 64) (fetch : Bool) (addr : Word) (s : State) : Host.Outcome State Fault Refusal :=
  s.act (fun m =>
    if m.hartRuns h.val then m.accessFault h.val (if fetch then 1 else 5) addr else m)

/-- Format of a vector element width (R244). -/
def sewFmt : Sew → Fmt
  | .e16 => Fmt.fp16
  | .e32 => Fmt.fp32
  | .e64 => Fmt.fp64

/-- The format twice as wide; none past ELEN. -/
def sewWide : Sew → Option Fmt
  | .e16 => some Fmt.fp32
  | .e32 => some Fmt.fp64
  | .e64 => none

/-- Bytes of a hart's vector register file from a byte offset, wrapping past register 31. -/
def Mach.hartBytes (m : Mach) (h off : Nat) : Nat → List Byte
  | 0 => []
  | n + 1 => sget 0 (h * 2048 + off % 2048) m.hl.vregs :: m.hartBytes h (off + 1) n

/-- Write bytes of a hart's vector register file. -/
def Mach.hartPut (m : Mach) (h off : Nat) : List Byte → Mach
  | [] => m
  | b :: bs => (m.setHl { m.hl with vregs := sset 0 (h * 2048 + off % 2048) b m.hl.vregs }).hartPut h (off + 1) bs

/-- The program counter of a hart moves past an instruction. -/
def Mach.hartNext (m : Mach) (h : Nat) : Mach := m.setHl { m.hl with pc := sset 0 h (sget 0 h m.hl.pc + 4) m.hl.pc }

/-- The elements of a vector operand that a reduction takes, in order: those of the first `vl` that its mask, if it has one, leaves
active. -/
def Mach.hartElems (m : Mach) (h vs2 sb vl : Nat) (masked : Bool) : List Nat :=
  ((List.range vl).filter (fun i => !masked || (sget 0 (h * 2048 + i / 8) m.hl.vregs).getLsbD (i % 8))).map (fun i =>
    leNat (m.hartBytes h (vs2 * 64 + i * sb) sb))

/-- A reduction's result, and its flags gathered in fflags. -/
def Mach.hartReduce (m : Mach) (h vd vs2 vs1 : Nat) (acc src : Fmt) (masked : Bool) (vl : Nat) : Mach :=
  let a := leNat (m.hartBytes h (vs1 * 64) (acc.width / 8))
  let r := orderedSum acc src (bits (m.csr h 2) 0 3) a 0 (m.hartElems h vs2 (src.width / 8) vl masked)
  (m.hartPut h (vd * 64) (leBytes (acc.width / 8) r.1)).setCsr h 1 (BitVec.ofNat 64 ((m.csr h 1).toNat ||| r.2))

/-- VFREDUSUM and VFWREDUSUM (R246): element order, as vfredosum and vfwredosum; element 0 of `vs1` comes first, and the hart's rounding
mode rounds. A widening one of 64-bit elements, a reserved rounding mode and a nonzero vstart are illegal instructions. -/
def execVfredusum (h : Fin 64) (vd vs2 vs1 : Fin 32) (sew : Sew) (form : VredForm) (vl : Nat) (s : State) :
    Host.Outcome State Fault Refusal :=
  s.act (fun m =>
    let src := sewFmt sew
    if !m.hartRuns h.val then m
    else if 4 < bits (m.csr h.val 2) 0 3 ∨ m.csr h.val 8 ≠ 0 then m.hartTrap h.val false 2 0
    else
      match (if form.widen then sewWide sew else some src) with
      | none => m.hartTrap h.val false 2 0
      | some acc =>
        if vl = 0 then m.hartNext h.val
        else (m.hartReduce h.val vd.val vs2.val vs1.val acc src form.masked vl).hartNext h.val)

/-- Whether the cluster of a hart holds a line. -/
def Mach.clusterHolds (m : Mach) (h line : Nat) : Bool :=
  match m.ent line with
  | some e => e.has (h / 8)
  | none => false

/-- WRS_WAKE (R257): with a line, a hart whose cluster holds it reserves it and waits in wrs.nto or wrs.sto; without, a waiting hart
wakes once another agent's write has invalidated its reserved line. DEDUCED: log entry 34. -/
def execWrsWake (w : WrsWait) (s : State) : Host.Outcome State Fault Refusal :=
  s.act (fun m =>
    match w.line with
    | some l =>
      if m.hartRuns w.hart.val && m.clusterHolds w.hart.val l.toNat then
        m.setHl { m.hl with
          resv := sset none w.hart.val (some l.toNat) m.hl.resv
          broken := sset false w.hart.val false m.hl.broken
          waiting := sset false w.hart.val true m.hl.waiting }
      else m
    | none =>
      if sget false w.hart.val m.hl.waiting && sget false w.hart.val m.hl.broken then
        (m.setHl { m.hl with
          resv := sset none w.hart.val none m.hl.resv
          broken := sset false w.hart.val false m.hl.broken
          waiting := sset false w.hart.val false m.hl.waiting }).hartNext w.hart.val
      else m)

/-- Release the harts of a list at HL_BOOT_ADDR, in machine mode (R261). -/
def Mach.hartsAt (m : Mach) (hs : List Nat) : Mach :=
  let a := m.rget Reg.HL_BOOT_ADDR
  m.setHl { m.hl with
    pc := hs.foldl (fun p h => sset 0 h a p) m.hl.pc
    priv := hs.foldl (fun p h => sset .machine h .machine p) m.hl.priv }

/-- HART_START (R261): the harts named that are not yet released start in machine mode at HL_BOOT_ADDR. -/
def execHartStart (a : Agent) (mask : Word) (s : State) : Host.Outcome State Fault Refusal :=
  s.act (fun m0 => m0.byAgent a Reg.HL_HART_START (fun m =>
    if m.dieUp 4 then
      let run := m.rget Reg.HL_HART_RUN
      let hs := (List.range 64).filter (fun h => mask.getLsbD h && !run.getLsbD h)
      (m.hartsAt hs).rset Reg.HL_HART_RUN (run ||| mask)
    else m))

/-- Set OWNER and count the change. -/
def Mach.newOwner (m : Mach) (o : Nat) : Mach := (m.fset Reg.HL_DRV_OWNER_OWNER o).fadd Reg.HL_DRV_OWNER_CHANGES 1

/-- CLAIM (R259): of claims in one Harbour cycle Headland wins, then landward port 0, then port 1. -/
def execClaim (as : List Agent) (s : State) : Host.Outcome State Fault Refusal :=
  s.act (fun m =>
    let codes := (as.map Agent.ownerCode).filter (fun c => c != 0)
    if m.fget Reg.HL_DRV_OWNER_OWNER ≠ 0 then m
    else if codes.contains 1 then m.newOwner 1
    else if codes.contains 2 then m.newOwner 2
    else if codes.contains 3 then m.newOwner 3
    else m)

/-- RELEASE (R259): effective from the owner alone. -/
def execRelease (a : Agent) (s : State) : Host.Outcome State Fault Refusal :=
  s.act (fun m0 => m0.byAgent a Reg.HL_DRV_OWNER (fun m =>
    if a.ownerCode ≠ 0 ∧ a.ownerCode = m.fget Reg.HL_DRV_OWNER_OWNER then m.newOwner 0 else m))

/-- Send an MSI-X message (R274, R278): refused on a port that is not armed, pending while masked, else a landward write under
the port's epoch. -/
def Mach.msixSend (m : Mach) (p v : Nat) : Mach :=
  if !m.armed p then m.fadd (Reg.LW_CNT_REFUSED p) 1
  else if sget false p m.lw.fnMask || !sget false (p * 256 + v) m.lw.msixOpen then
    { m with lw := { m.lw with msixPend := sset false (p * 256 + v) true m.lw.msixPend } }
  else
    { m with lw := { m.lw with
      writes := m.lw.writes ++ [⟨p, m.fget (Reg.LW_EPOCH_EPOCH p), 0, .store [], none, some v⟩] } }

/-- Whether a record of Harbour's own still waits at its home (R255). -/
def Mach.hubPending (m : Mach) : Bool :=
  let hub := fun (r : HomeReq) => match r with
    | .ncw none _ _ _ none => true
    | _ => false
  m.dir.txns.any (fun p => match p.2 with
    | some t => (!t.done && hub t.req) || t.queue.any hub
    | none => false)

/-- Deliver a source to its Headland route (R253, R255): nothing where the route is off or its identity 0. The hart takes the interrupt
where its file and its enables let it. -/
def Mach.irqHeadland (m : Mach) (n : Nat) : Mach :=
  let id := m.fget (Reg.HL_IRQ_ROUTE_EIID n)
  let hart := m.fget (Reg.HL_IRQ_ROUTE_HART n)
  if m.flag (Reg.HL_IRQ_ROUTE_EN n) ∧ id ≠ 0 ∧ m.dieUp 4 then
    let k := msiKey hart (m.fget (Reg.HL_IRQ_ROUTE_FILE n)) id
    let m1 := (m.setHl { m.hl with msi := sset false k true m.hl.msi }).emit (.irq n hart)
    if m1.hartRuns hart then m1.hartIrq hart else m1
  else m

/-- INTERRUPT_DELIVERY (R253 to R255, R274): once the record that raised it is at its home, the source goes landward while a
port owns the module and it is below 135, else to its route. -/
def execInterruptDelivery (src : Fin 192) (s : State) : Host.Outcome State Fault Refusal :=
  s.act (fun m =>
    if !m.irq.contains src.val || (decide (src.val ≤ 130) && m.hubPending) then m
    else
      let m1 := { m with irq := m.irq.erase src.val }
      let o := m.fget Reg.HL_DRV_OWNER_OWNER
      if 2 ≤ o ∧ src.val ≤ 134 then m1.msixSend (o - 2) src.val else m1.irqHeadland src.val)

end Sys2Proof.Machine
end

