-- ==== Sys2Proof/Machine/Translation.lean ====
section
/-!
DEFINITION. Walks, fault retries and resolutions, the fault ring, invalidation, migration and eviction (R180 to R196, R211).
-/

namespace Sys2Proof.Machine

/-- The target whose caches a waiter's access uses: its core, or Harbour's walker. -/
def waiterTgt : Waiter → Nat
  | .engine c _ => c.flat
  | .harbour _ => 192

/-- PAGE_WALK (R183, R188): the access passes, ends with a status, or faults and waits in the fault table. -/
def execPageWalk (w : Waiter) (job : Fin 64) (va : BitVec 57) (acc : Access) (s : State) : Host.Outcome State Fault Refusal :=
  s.act (fun m =>
    match m.job? job.val with
    | none => m
    | some j =>
      let fw : FWait := ⟨w, job.val, va.toNat, acc⟩
      let r := m.xlate j (waiterTgt w) va.toNat acc
      match r.2 with
      | .ok _ _ => { r.1 with xl := { r.1.xl with answered := (fw, none) :: r.1.xl.answered } }
      | .status st => { r.1 with xl := { r.1.xl with answered := (fw, some st) :: r.1.xl.answered } }
      | .wait => r.1
      | e =>
        match e.kind with
        | some k => r.1.openFault fw j.asid k
        | none => r.1)

/-- FAULT_RETRY (R188): a fault that found no record or link is handled afresh. -/
def execFaultRetry (w : Waiter) (s : State) : Host.Outcome State Fault Refusal :=
  s.act (fun m =>
    match m.xl.retry.find? (fun f => decide (f.who = w)) with
    | none => m
    | some f =>
      let m1 := { m with xl := { m.xl with retry := m.xl.retry.filter (fun x => decide (x ≠ f)) } }
      m1.settleWaiter none f)

/-- FR_HEAD_WRITE (R190, R258): the records that wait are written while space lasts. -/
def execFrHeadWrite (a : Agent) (head : BitVec 32) (s : State) : Host.Outcome State Fault Refusal :=
  s.act (fun m => m.owned a Reg.HB_FR_HEAD (fun x =>
    let x1 := x.fset Reg.HB_FR_HEAD_HEAD head.toNat
    x1.frDrain x1.xl.frWait))

/-- FR_BASE_WRITE (R190, R211, R258). -/
def execFrBaseWrite (a : Agent) (v : Word) (s : State) : Host.Outcome State Fault Refusal :=
  s.act (fun m => m.owned a Reg.HB_FR_BASE (fun x =>
    let x1 := (x.fset Reg.HB_FR_BASE_LOG2 (bits v 0 5)).fset Reg.HB_FR_BASE_BASE (bits v 12 40)
    x1.frDrain x1.xl.frWait))

/-- Close an open SERVICE record, or count the resolve as ignored (R191). -/
def Mach.resolve (m : Mach) (num st : Nat) : Mach :=
  match m.xl.recs.find? (fun r => r.num == num && decide (r.kind = .service)) with
  | none => m.fadd Reg.HB_FLT_OPEN_IGNORED 1
  | some r =>
    if st = 0 then m.closeRec r none
    else if st = 0x0401 ∨ st = 0x0404 ∨ st = 0x0406 then m.closeRec r (some st)
    else m.fadd Reg.HB_FLT_OPEN_IGNORED 1

/-- HB_FLT_RESOLVE (R189, R191, R258). -/
def execHbFltResolve (a : Agent) (record : BitVec 8) (status : BitVec 16) (s : State) : Host.Outcome State Fault Refusal :=
  s.act (fun m => m.owned a Reg.HB_FLT_RESOLVE (fun x => x.resolve record.toNat status.toNat))

/-! Invalidation (R186) -/

/-- The accesses that have yet to reach their home. -/
def Mach.pendingRefs (m : Mach) : List AccRef :=
  m.dir.txns.flatMap (fun p => match p.2 with
    | some t => (if t.done then [] else t.req.cmd.toList) ++ t.queue.filterMap HomeReq.cmd
    | none => []) ++
  (m.lw.writes ++ m.lw.heldWrites).filterMap (fun w => w.cmd)

/-- The job that an access's number belongs to: a command's, a schedule entry's or a received write's. -/
def Mach.refJob (m : Mach) (id : Nat) : Option Nat :=
  match m.cmdOf id, m.js.pf.find? (fun e => e.id == id), m.sw.recv.find? (fun r => r.id == id) with
  | some c, _, _ => some c.job
  | none, some e, _ => some e.job
  | none, none, some r => some r.job
  | none, none, none => none

/-- Whether an access was translated for an address space a range of which is invalidated. -/
def Mach.refMeets (m : Mach) (asid : Option Nat) (va len : Nat) (c : AccRef) : Bool :=
  (len == 0 || (decide (va ≤ c.va) && decide (c.va < va + len))) &&
  (match asid with
   | none => true
   | some a => ((m.refJob c.id).bind m.job?).any (fun j => j.asid == a))

/-- An invalidation starts (R186): ignored while BUSY, refused when misaligned. -/
def Mach.tlbiGo (m : Mach) (asid : Nat) (all discard : Bool) : Mach :=
  let va := m.fget Reg.HB_TLBI_VA_VA
  let len := m.fget Reg.HB_TLBI_LEN_LEN
  if m.flag Reg.HB_TLBI_STATUS_BUSY then m
  else if va % 65536 ≠ 0 ∨ len % 65536 ≠ 0 then m.fset Reg.HB_TLBI_STATUS_STATUS 0x0206
  else
    let who := if all then none else some asid
    let r := m.untranslate who va len
    let m1 := { r.1 with xl := { r.1.xl with
      tlbi := some ⟨if discard then r.2 else [], m.pendingRefs.filter (m.refMeets who va len)⟩ } }
    (m1.fset Reg.HB_TLBI_STATUS_STATUS 0).fset Reg.HB_TLBI_STATUS_BUSY 1

/-- TLBI (R186, R211, R258): refused when misaligned, else the entries go, and BUSY holds until the older accesses made through them have
completed. -/
def execTlbi (a : Agent) (asid : BitVec 16) (allAsid discard : Bool) (s : State) : Host.Outcome State Fault Refusal :=
  s.act (fun m => m.owned a Reg.HB_TLBI_CMD (fun x => x.tlbiGo asid.toNat allAsid discard))

/-- TLBI_COMPLETE (R186): once no older access made through the removed entries is outstanding; then, with DISCARD, the far-cache lines of
the frames they mapped go. -/
def execTlbiComplete (s : State) : Host.Outcome State Fault Refusal :=
  s.act (fun m =>
    match m.xl.tlbi with
    | none => m
    | some t =>
      if !t.refs.isEmpty then m
      else (({ m with xl := { m.xl with tlbi := none } }).dropFrames t.frames).fset Reg.HB_TLBI_STATUS_BUSY 0)

/-- MP_TAIL_WRITE (R192, R193, R258): frames are added, and migrations that wait for one take it. -/
def execMpTailWrite (a : Agent) (tail : BitVec 32) (s : State) : Host.Outcome State Fault Refusal :=
  s.act (fun m => m.owned a Reg.HB_MP_TAIL (fun x => (x.fset Reg.HB_MP_TAIL_TAIL tail.toNat).startMigs))

/-! Migration (R193 to R195) -/

/-- One more access, at its home, of an operation that carries a number. -/
def Mach.homeAccess (m : Mach) (num pa : Nat) (r : Option AccRef → HomeReq) : Mach :=
  (m.outstAdd num).request (pa / 64) (r (some ⟨num, 0⟩))

/-- Write a line, or the poison pattern where it arrived poisoned (R194), through the home; a line no agent holds or asks for is written
at once. -/
def Mach.putLine (m : Mach) (num key pa : Nat) (d : List Byte × Bool) : Mach :=
  if (m.ent (pa / 64)).isNone && (m.txn (pa / 64)).isNone then
    (if d.2 then m.poisonLine (pa / 64) else (m.memWrite key pa d.1).1)
  else m.homeAccess num pa (if d.2 then .poison else .ncw none pa key (.store d.1))

/-- Copy 2 MiB line by line in ascending address: 64-byte lines of `src` read under one key, written to `dst` under another; the listed
lines arrive poisoned (R193, R194). -/
def Mach.copyRegion (m : Mach) (num src srcKey dst dstKey : Nat) (poisoned : List Nat) : Mach :=
  (List.range 32768).foldl (fun a i =>
    let d := a.load srcKey (src + i * 64) 64
    a.putLine num dstKey (dst + i * 64) (d.1, d.2 || poisoned.contains i)) m

/-- Write a leaf through the home. -/
def Mach.putLeaf (m : Mach) (num leaf val : Nat) : Mach := m.homeAccess num leaf (.ncw none leaf 0 (.store (leBytes 8 val)))

/-- Whether every access of an operation has reached its home. -/
def Mach.homed? (m : Mach) (num : Nat) : Bool := sget 0 num m.js.outst == 0

/-- The new leaf of a migrated region (R193). -/
def migLeaf (ent : Word) (frame : Nat) : Nat :=
  ent.toNat % 2 ^ 14 - bits ent 6 1 * 64 + (if tierOf frame = .stack then 0 else 1) * 2 ^ 14 + frame + 2 ^ 60

/-- An operation's number is done with. -/
def Mach.forgetAccess (m : Mach) (num : Nat) : Mach := { m with js := { m.js with agentFail := sset 0 num 0 m.js.agentFail } }

/-- A migration whose leaf has reached its home ends (R193): the region is invalidated with DISCARD, the record closes, and MIGRATED
follows. -/
def Mach.migClose (m : Mach) (r : FRec) (num frame : Nat) : Mach :=
  let m1 := (m.forgetAccess num).invalidate (some r.asid) (r.region * 2 ^ 21) (2 ^ 21) true
  ((m1.closeRec r none).frPush 2 false r.waiters.length r.asid r.num 0 (r.region * 2 ^ 21) frame).startMigs

/-- A migration whose data has reached the frame writes its leaf, and ends once that is home (R188, R193). -/
def Mach.migLeafOut (m : Mach) (r : FRec) (g : Mig) (num frame : Nat) : Mach :=
  let m1 := (m.setMig r.num { g with run := some (num, true) }).putLeaf num g.leaf (migLeaf g.ent frame)
  if m1.homed? num then m1.migClose r num frame else m1

/-- A migration copies its region into its frame (R193, R194), and goes on once every line is home. DEDUCED: log entry 27. -/
def Mach.migrated (m : Mach) (r : FRec) (g : Mig) (frame : Nat) (poisoned : List Nat) : Mach :=
  let num := m.js.nextId
  let m1 := { m with js := { m.js with nextId := num + 1 } }
  let m2 := (m1.setMig r.num { g with run := some (num, false) }).copyRegion num (bits g.ent 16 36 * 65536) 0 frame
    (m.keyId (bits g.ent 8 6)) poisoned
  if m2.homed? num then m2.migLeafOut r g num frame else m2

/-- The lines of a 2 MiB region that a port which is not armed carries: they arrive poisoned (R277). DEDUCED: log entry 27. -/
def Mach.unarmedLines (m : Mach) (src : Nat) : List Nat :=
  (List.range 32768).filter (fun i => !m.armed (m.lwPort (src + i * 64)))

/-- MIGRATION_COMPLETE (R193 to R195): a migration that waits for a frame tries again; one that has its frame copies once the source's
writes are home, its ports out of Recovery (R275), and its lines current; one that writes goes on. A frame on a fenced die fails it (R236). -/
def execMigrationComplete (record : Fin 256) (poisoned : List (Fin 32768)) (s : State) : Host.Outcome State Fault Refusal :=
  s.act (fun m =>
    match m.xl.recs.find? (fun r => r.num == record.val) with
    | none => m
    | some r =>
      match r.kind with
      | .migrate g =>
        (match g.frame, g.run with
         | none, _ => m.startMig r
         | some frame, none =>
           let src := bits g.ent 16 36 * 65536
           if !m.reach frame then m.failMig r
           else if m.lwHeld src 2097152 then m
           else
             let cur := m.current 21 src 2097152
             if !cur.2 then cur.1
             else cur.1.migrated r g frame (poisoned.map (fun i => i.val) ++ m.unarmedLines src)
         | some frame, some (num, out) =>
           if !m.homed? num then m
           else if out then m.migClose r num frame
           else if !m.reach frame then m.failMig r
           else m.migLeafOut r g num frame)
      | _ => m)

/-! Eviction (R196) -/

/-- The live context of an ASID. -/
def Mach.jobOfAsid (m : Mach) (asid : Nat) : Option (Nat × Job) :=
  m.js.jobs.findSome? (fun p => match p.2 with
    | some j => if j.asid = asid then some (p.1, j) else none
    | none => none)

/-- The address and value of the 2 MiB leaf that a region's walk ends at, whatever its rights; the number bounds the levels. The outer
option is none while a table line is asked for of the agent that owns it (R205). -/
def Mach.leafFrom (m : Mach) (va : Nat) : Nat → Nat → Nat → Mach × Option (Option (Nat × Word))
  | 0, _, _ => (m, some none)
  | n + 1, lvl, table =>
    let addr := table + va / 2 ^ lvlLo lvl % 2 ^ lvlW lvl * 8
    let rd := m.hubWords 21 addr 1
    match rd.2 with
    | none => (rd.1, none)
    | some (ws, bad) =>
      let e := wd ws 0
      if bad ∨ bits e 0 1 = 0 then (rd.1, some none)
      else if bits e 4 2 = 3 then (if lvl < 2 ∧ pointerOk lvl e then rd.1.leafFrom va n (lvl + 1) (bits e 8 44 * 256) else (rd.1, some none))
      else (rd.1, some (if lvl = 2 ∧ leafOk 2 e then some (addr, e) else none))

/-- Recall every coherent copy of the lines of a region (R196), as a FLUSH does. -/
def Mach.recallRegion (m : Mach) (pa n : Nat) : Mach :=
  (m.dir.ents.filter (fun p => decide (pa / 64 ≤ p.1) && decide (p.1 < (pa + n) / 64))).foldl
    (fun a p => a.request p.1 (.inval none)) m

def Mach.setEvict (m : Mach) (e : Option EvictRun) : Mach := { m with xl := { m.xl with evict := e } }

/-- The eviction in progress is over, with a status. -/
def Mach.evictOver (m : Mach) (st : Nat) : Mach :=
  ((m.setEvict none).fset Reg.HB_EV_STATUS_STATUS st).fset Reg.HB_EV_STATUS_BUSY 0

/-- The eviction in progress and its leaf. -/
def Mach.evicting (m : Mach) : Option (EvictRun × FRec × Nat × Word) :=
  match m.xl.evict with
  | none => none
  | some v =>
    match m.xl.recs.find? (fun r => r.num == v.num) with
    | none => none
    | some r =>
      match r.kind with
      | .evict leaf e => if v.stage = 0 then none else some (v, r, leaf, e)
      | _ => none

/-- The leaf's invalid form is home: the region is invalidated with DISCARD, and its copies are recalled (R196). -/
def Mach.evictRecall (m : Mach) : Mach :=
  match m.evicting with
  | some (v, r, _, e) =>
    if v.stage ≠ 1 ∨ !m.homed? v.acc then m
    else ((m.setEvict (some { v with stage := 2 })).invalidate (some r.asid) (r.region * 2 ^ 21) (2 ^ 21) true).recallRegion
      (bits e 16 36 * 65536) (2 ^ 21)
  | none => m

/-- An eviction that found its leaf begins (R196): its record opens and its leaf turns invalid. -/
def Mach.evictBegin (m : Mach) (v : EvictRun) (n leaf : Nat) (e : Word) : Mach :=
  let num := m.js.nextId
  let x1 := { m with js := { m.js with nextId := num + 1 } }
  let x2 := (x1.setRecs (x1.xl.recs ++ [⟨n, v.asid, v.va / 2 ^ 21, .evict leaf e, []⟩])).setEvict (some { v with
    num := n
    acc := num
    stage := 1 })
  (x2.putLeaf num leaf (e.toNat - 1 - bits e 6 1 * 64 + 64)).evictRecall

/-- Look for the leaf of the eviction asked for: refused where it is none or its region has an open record, else begun (R196). -/
def Mach.evictFind (m : Mach) : Mach :=
  match m.xl.evict with
  | none => m
  | some v =>
    if v.stage ≠ 0 then m
    else
      match m.jobOfAsid v.asid with
      | none => m.evictOver 0x0404
      | some (_, j) =>
        let f := m.leafFrom v.va 3 0 j.root
        match f.2 with
        | none => f.1
        | some none => f.1.evictOver 0x0404
        | some (some (leaf, e)) =>
          if 1 < bits e 14 2 then f.1.evictOver 0x0404
          else if f.1.xl.recs.any (fun r => r.asid == v.asid && r.region == v.va / 2 ^ 21) then f.1.evictOver 0x0101
          else
            match f.1.freeRec with
            | none => f.1.evictOver 0x0101
            | some n => f.1.evictBegin v n leaf e

/-- An eviction is asked for (R196): ignored while BUSY. -/
def Mach.evictGo (m : Mach) (asid : Nat) (migrate : Bool) : Mach :=
  if m.flag Reg.HB_EV_STATUS_BUSY then m
  else
    ((m.setEvict (some ⟨asid, m.fget Reg.HB_EV_VA_VA, m.fget Reg.HB_EV_PA_PA * 2 ^ 21, migrate, 0, 0, 0⟩)).fset
      Reg.HB_EV_STATUS_BUSY 1).evictFind

/-- EVICT (R196, R258). -/
def execEvict (a : Agent) (asid : BitVec 16) (migrate : Bool) (s : State) : Host.Outcome State Fault Refusal :=
  s.act (fun m => m.owned a Reg.HB_EV_CMD (fun x => x.evictGo asid.toNat migrate))

/-- The eviction whose last leaf write is home ends (R196, R236): EVICTED with the freed frame, or 0x0406 and EVICT_FAILED. -/
def Mach.evictClose (m : Mach) : Mach :=
  match m.evicting with
  | some (v, r, _, e) =>
    if !m.homed? v.acc then m
    else if v.stage = 3 then
      ((m.closeRec r none).frPush 5 false r.waiters.length r.asid r.num 0 (r.region * 2 ^ 21) (bits e 16 36 * 65536)).evictOver 0
    else if v.stage = 4 then
      ((m.closeRec r (some 0x0406)).frPush 6 false r.waiters.length r.asid r.num 0x0406 (r.region * 2 ^ 21) 0).evictOver 0x0406
    else m
  | none => m

/-- Fail the eviction in progress (R196, R236): its leaf takes the value given, and the record closes with 0x0406 once that is home. -/
def Mach.failEvict (m : Mach) (leafVal : Word → Nat) : Mach :=
  match m.evicting with
  | some (v, _, leaf, e) =>
    if 2 < v.stage then m else ((m.setEvict (some { v with stage := 4 })).putLeaf v.acc leaf (leafVal e)).evictClose
  | none => m

/-- The new leaf of an evicted region (R196). -/
def evictLeaf (e : Word) (host : Nat) (migrate : Bool) : Nat :=
  e.toNat % 2 ^ 14 - bits e 6 1 * 64 + (if migrate then 64 else 0) + 3 * 2 ^ 14 + host + 2 ^ 60

/-- An eviction's region is copied to the host address, and its leaf maps it there (R196). DEDUCED: log entry 27. -/
def Mach.evicted (m : Mach) (v : EvictRun) (leaf : Nat) (e : Word) : Mach :=
  let m1 := m.copyRegion v.acc (bits e 16 36 * 65536) (m.keyId (bits e 8 6)) v.host 0 []
  ((m1.setEvict (some { v with stage := 3 })).putLeaf v.acc leaf (evictLeaf e v.host v.migrate)).evictClose

/-- EVICTION_COMPLETE (R196): once every copy of the frame's lines is recalled, and the host's lines are the host's alone, over ports that
are not in Recovery (R275). A port that is not armed fails it, and so does a frame on a fenced die, whose leaf stands with VALID 0 and
MIGRATE 0 (R236). -/
def Mach.evictGoOn (m : Mach) : Mach :=
  match m.evicting with
  | none => m
  | some (v, _, leaf, e) =>
    let frame := bits e 16 36 * 65536
    let within := fun (base : Nat) (l : Nat) => decide (base / 64 ≤ l) && decide (l < (base + 2 ^ 21) / 64)
    if v.stage ≠ 2 then m
    else if m.dir.txns.any (fun p => within frame p.1 || within v.host p.1) then m
    else if !m.reach frame then m.failEvict (fun w => w.toNat - bits w 0 1 - bits w 6 1 * 64)
    else if m.lwUnarmed v.host (2 ^ 21) || !m.armed (m.lwPort v.host) then m.failEvict (fun w => w.toNat)
    else if m.lwHeld v.host (2 ^ 21) then m
    else if m.dir.ents.any (fun p => within frame p.1 || within v.host p.1) then
      (m.recallRegion frame (2 ^ 21)).recallRegion v.host (2 ^ 21)
    else m.evicted v leaf e

/-- EVICTION_COMPLETE (R196): the eviction in progress takes the steps it can. -/
def execEvictionComplete (s : State) : Host.Outcome State Fault Refusal :=
  s.act (fun m => m.evictFind.evictRecall.evictGoOn.evictClose)

end Sys2Proof.Machine
end

