-- ==== Sys2Proof/Machine/Landward.lean ====
section
/-!
DEFINITION. The landward link (R263 to R283): its states, losses and epochs, the fence read, changes of route, host requests
and acknowledgements.
-/

namespace Sys2Proof.Machine

def Mach.setLw (m : Mach) (l : LwSt) : Mach := { m with lw := l }

/-- LINK codes of R282. -/
def linkDownCode : Nat := 0
def linkTraining : Nat := 1
def linkL0 : Nat := 2
def linkRecovery : Nat := 3

/-- A port's link changes state; source 134 tells the driver (R254). -/
def Mach.linkTo (m : Mach) (p st : Nat) : Mach := (m.fset (Reg.LW_LINK_LINK p) st).raise 134

/-! Losses (R276 to R278) -/

/-- Whether an access to a range may use a port under the MODE in force. -/
def Mach.usesPort (m : Mach) (pa p : Nat) : Bool := m.lwPort pa == p || m.lwPort (pa + 4096) == p

/-- Fail the running migrations and the eviction that use a port (R194, R196). -/
def Mach.lossMoves (m : Mach) (p : Nat) : Mach :=
  let hit := m.xl.recs.filter (fun r => match r.kind with
    | .migrate g => !g.leafOut && m.usesPort (bits g.ent 16 36 * 65536) p
    | _ => false)
  let m1 := hit.foldl (fun a r => a.failMig r) m
  if m1.xl.evict.any (fun v => m1.usesPort v.host p) then m1.failEvict (fun w => w.toNat) else m1

/-- Complete the commands of a list with 0x0502, each once, carrying it through its task (R143, R277); a prefetch entry of the list
fails with it (R174). -/
def Mach.lossCmds (m : Mach) : List Nat → Mach
  | [] => m
  | id :: ids =>
    match m.cmdOf id with
    | some c => (if c.phase = .ended then m else m.finish c 0x0502 0 0 false).lossCmds ids
    | none =>
      { m with js := { m.js with pf := m.js.pf.map (fun (e : PfEnt) => if e.id = id then { e with status := some 0x0502 } else e) } }.lossCmds ids

/-- The JOB_FAILED records of a loss: one for each job, with the core of its first failed command. -/
def Mach.lossJobs (m : Mach) : List Cmd → List Nat → Mach
  | [], _ => m
  | c :: cs, seen =>
    if seen.contains c.job then m.lossJobs cs seen
    else (m.postEvent c.job 0x06 0x0502 c.ring c.core 0 0).lossJobs cs (c.job :: seen)

/-- A landward loss of a port (R276, R277): disarmed, its writes dropped, its reads poisoned, the commands and operations
behind them failed, its position absent, its ownership gone and its SPDM connection ended. DEDUCED: log entry 35. -/
def Mach.loss (m : Mach) (p cause : Nat) : Mach :=
  let m1 := ((m.fset (Reg.LW_EPOCH_ARMED p) 0).fset (Reg.LW_EPOCH_LOST p) 1).fset (Reg.LW_EPOCH_CAUSE p) cause
  let m2 := (m1.fadd (Reg.LW_CNT2_LOSSES p) 1).fset (Reg.LW_LINK_IDE p) 0
  let m3 := if cause = 5 then m2 else ((m2.fset (Reg.LW_LINK_LANES p) 0).fset (Reg.LW_LINK_RATE p) 0).linkTo p linkDownCode
  let gone := m.lw.writes.filter (fun w => w.port == p)
  let reset := decide (3 ≤ cause)
  let m4 := m3.setLw { m3.lw with
    writes := m3.lw.writes.filter (fun w => w.port != p)
    lossAt := sset none p (some m3.ns) m3.lw.lossAt
    fence := m3.lw.fence.map (fun (f : FenceRd) =>
      if f.left.any (fun x => x.1 == p) || f.issued.contains p then
        { f with
          left := f.left.filter (fun x => x.1 != p)
          issued := f.issued.filter (fun q => q != p)
          lost := p :: f.lost }
      else f)
    stalled := m3.lw.stalled.filter (fun x => x.1 != p)
    msixOpen := if reset then serase (fun k => k / 256 == p) m3.lw.msixOpen else m3.lw.msixOpen
    msixPend := if reset then serase (fun k => k / 256 == p) m3.lw.msixPend else m3.lw.msixPend
    fnMask := if reset then sset false p false m3.lw.fnMask else m3.lw.fnMask }
  let m4b := { m4 with lh := { m4.lh with spdm := sset none p none m4.lh.spdm } }
  let m5 := ((m4b.fadd (Reg.LW_CNT_DROPPED p) gone.length).goAbsent (13 + p)).ownerLost (2 + p)
  let m6 := gone.foldl (fun a w => a.accessDone w.cmd true 0x0502) m5
  let ids := (gone.filterMap (fun w => w.cmd.map (fun (c : AccRef) => c.id)) ++
    (m.lw.stalled.filter (fun x => x.1 == p)).map Prod.snd).eraseDups
  let cmds := m6.js.cmds.filter (fun c => ids.contains c.id && c.phase != .ended)
  ((((m6.lwWaitsLost p).lossMoves p).lossCmds ids).lossJobs cmds []).logE 0x0E 0x0502 p noJob 0

/-- Widths and rates that training may settle on (R263). -/
def lwLegal (lanes rate : Nat) : Bool := (lanes == 16 || lanes == 8 || lanes == 4) && (1 ≤ rate && rate ≤ 4)

/-- Issue the fence-line reads whose earlier writes have all reached their home, over ports that are not in Recovery (R272, R275): each a
RdCurr of its port's LW_FLINE. -/
def Mach.fenceGo (m : Mach) : Mach :=
  let ready := fun (x : Nat × Nat) => x.2 == 0 && !m.recovering x.1
  let ports := (m.lw.fence.map (fun (f : FenceRd) => (f.left.filter ready).map Prod.fst)).flatten
  let m1 := m.setLw { m.lw with
    fence := m.lw.fence.map (fun (f : FenceRd) =>
      { f with
        left := f.left.filter (fun x => !ready x)
        issued := f.issued ++ (f.left.filter ready).map Prod.fst }) }
  ports.foldl (fun a p => a.emit (.landward p [2, a.fget (Reg.LW_FLINE_LINE p) * 64] [])) m1

/-- A link reaches L0 at a width and rate. -/
def Mach.linkUp (m : Mach) (p lanes rate : Nat) : Mach :=
  ((m.linkTo p linkL0).fset (Reg.LW_LINK_LANES p) lanes).fset (Reg.LW_LINK_RATE p) rate

/-- RECOVERY_ENTRY (R275, R281). -/
def execRecoveryEntry (p : Fin 2) (s : State) : Host.Outcome State Fault Refusal :=
  s.act (fun m =>
    if m.fget (Reg.LW_LINK_LINK p.val) = linkL0 then (m.linkTo p.val linkRecovery).fadd (Reg.LW_CNT2_RETRAINS p.val) 1 else m)

/-- RECOVERY_EXIT (R263, R275, R281): L0 at the width and rate the retraining settled on; what waited goes on. -/
def execRecoveryExit (p : Fin 2) (lanes : BitVec 5) (rate : BitVec 3) (s : State) : Host.Outcome State Fault Refusal :=
  s.act (fun m =>
    if m.recovering p.val ∧ lwLegal lanes.toNat rate.toNat then
      let m1 := m.linkUp p.val lanes.toNat rate.toNat
      (m1.setLw { m1.lw with stalled := m1.lw.stalled.filter (fun x => x.1 != p.val) }).lwRetry.fenceGo
    else m)

/-- RECOVERY_LIMIT_EXPIRY (R275, R276): CAUSE 2. -/
def execRecoveryLimitExpiry (p : Fin 2) (s : State) : Host.Outcome State Fault Refusal :=
  s.act (fun m => if m.recovering p.val then m.loss p.val 2 else m)

/-- Whether a link is in L0 or Recovery. -/
def Mach.linkAlive (m : Mach) (p : Nat) : Bool := m.fget (Reg.LW_LINK_LINK p) == linkL0 || m.recovering p

/-- LINK_DOWN (R276): CAUSE 1. -/
def execLinkDown (p : Fin 2) (s : State) : Host.Outcome State Fault Refusal :=
  s.act (fun m => if m.linkAlive p.val then m.loss p.val 1 else m)

/-- PERST_ASSERT (R276): CAUSE 3. -/
def execPerstAssert (p : Fin 2) (s : State) : Host.Outcome State Fault Refusal := s.act (fun m => m.loss p.val 3)

/-- HOT_RESET (R276): CAUSE 4; it arrives over a link that is up. -/
def execHotReset (p : Fin 2) (s : State) : Host.Outcome State Fault Refusal :=
  s.act (fun m => if m.linkAlive p.val then m.loss p.val 4 else m)

/-- FUNCTION_LEVEL_RESET (R276): CAUSE 5; the link stays up. -/
def execFunctionLevelReset (p : Fin 2) (s : State) : Host.Outcome State Fault Refusal :=
  s.act (fun m => if m.linkAlive p.val then m.loss p.val 5 else m)

/-- LANDWARD_LINK_L0 (R263, R267, R281): a port released from Detect finishes training. -/
def execLandwardLinkL0 (p : Fin 2) (lanes : BitVec 5) (rate : BitVec 3) (s : State) : Host.Outcome State Fault Refusal :=
  s.act (fun m =>
    if m.lw.released && !m.linkAlive p.val && lwLegal lanes.toNat rate.toNat then m.linkUp p.val lanes.toNat rate.toNat
    else m)

/-! Arming (R280) -/

/-- The checks of an arming write, in order. -/
def Mach.armCheck (m : Mach) (p epoch : Nat) : Nat :=
  let recent := match sget none p m.lw.lossAt with
    | some t => decide (m.ns < t + 2000)
    | none => false
  if epoch = 0 then 0x0203
  else if m.fget (Reg.LW_LINK_LINK p) ≠ linkL0 then 0x0101
  else if m.armed p || recent then 0x0101
  else if epoch ≤ m.fget (Reg.LW_EPOCH_EPOCH p) then 0x0101
  else if m.flag Reg.LW_CFG_IDE_REQUIRED ∧ !m.flag (Reg.LW_LINK_IDE p) then 0x0101
  else 0

/-- Arm a port, or record why not. -/
def Mach.arm (m : Mach) (p epoch : Nat) : Mach :=
  let st := m.armCheck p epoch
  let m1 := m.fset (Reg.LW_EPOCH_STATUS p) st
  if st ≠ 0 then m1.logE 0x0E st p noJob epoch
  else
    let m2 := ((m1.fset (Reg.LW_EPOCH_ARMED p) 1).fset (Reg.LW_EPOCH_LOST p) 0).fset (Reg.LW_EPOCH_EPOCH p) epoch
    m2.comeBack (13 + p)

/-- EPOCH_ARM (R280, R281): effective through the port's own BAR0 alone. -/
def execEpochArm (a : Agent) (p : Fin 2) (epoch : BitVec 32) (s : State) : Host.Outcome State Fault Refusal :=
  s.act (fun m => if a = .host p then m.arm p.val epoch.toNat else m.logE 0x01 0 p.val noJob (Reg.LW_ARM p.val))

/-! The fence read (R272) -/

/-- FENCE_READ (R272): it notes, for each armed port whose fence line is enabled, the writes not yet at their home; a port with none is
read at once. -/
def execFenceRead (a : Agent) (s : State) : Host.Outcome State Fault Refusal :=
  s.act (fun m0 => m0.byAgent a Reg.LW_FENCE (fun m =>
    let ports := (List.range 2).filter (fun p => m.armed p && m.flag (Reg.LW_FLINE_EN p))
    let left := ports.map (fun p => (p, (m.lw.writes.filter (fun w => w.port == p)).length))
    (m.setLw { m.lw with fence := m.lw.fence ++ [⟨left, [], []⟩] }).fenceGo))

/-- FENCE_READ_DONE (R272): the oldest fence read returns once every fence-line read of it has returned or is lost. -/
def execFenceReadDone (s : State) : Host.Outcome State Fault Refusal :=
  s.act (fun m =>
    match m.lw.fence with
    | [] => m
    | f :: rest =>
      if !f.left.isEmpty || f.issued.any m.recovering then m
      else
        let bit := fun (b : Bool) => if b then 1 else 0
        let did := fun (p : Nat) => bit (f.issued.contains p)
        let lost := fun (p : Nat) => bit (f.lost.contains p || m.flag (Reg.LW_EPOCH_LOST p))
        let v := did 0 + 2 * did 1 + 4 * lost 0 + 8 * lost 1
        let m1 := (m.setLw { m.lw with fence := rest }).rset Reg.LW_FENCE (BitVec.ofNat 64 v)
        m1.emit (.regData (BitVec.ofNat 64 v)))

/-! Routes (R269) -/

/-- ROUTE_CHANGE (R258, R269, R283): MODE 11 is ignored; accesses issued from now on wait for those issued before. -/
def execRouteChange (a : Agent) (mode : BitVec 2) (s : State) : Host.Outcome State Fault Refusal :=
  s.act (fun m => m.owned a Reg.LW_ROUTE (fun x =>
    if mode = 3#2 then x
    else
      let y := x.fset Reg.LW_ROUTE_MODE mode.toNat
      if x.lw.hold ∨ !x.lw.writes.isEmpty then y.setLw { y.lw with hold := true }
      else y.setLw { y.lw with mode := mode.toNat }))

/-- Route writes that were held (R269, R278, R279). -/
def Mach.routeHeld (m : Mach) : List LwWrite → Mach
  | [] => m
  | w :: ws =>
    let p := m.lwPort w.pa
    if m.armed p then
      (m.setLw { m.lw with
        writes := m.lw.writes ++ [{ w with
          port := p
          epoch := m.fget (Reg.LW_EPOCH_EPOCH p) }] }).routeHeld ws
    else ((m.fadd (Reg.LW_CNT_REFUSED p) 1).accessDone w.cmd true 0x0501).routeHeld ws

/-- ROUTE_CHANGE_DONE (R269): no access issued under the old MODE is outstanding, so those held next proceed. -/
def execRouteChangeDone (s : State) : Host.Outcome State Fault Refusal :=
  s.act (fun m =>
    if !m.lw.hold || m.lw.writes.any (fun w => w.msix.isNone) then m
    else
      let next := match m.lw.heldWrites with
        | [] => m.fget Reg.LW_ROUTE_MODE
        | w :: _ => w.port
      let go := m.lw.heldWrites.takeWhile (fun w => w.port == next)
      let rest := m.lw.heldWrites.dropWhile (fun w => w.port == next)
      let m1 := m.setLw { m.lw with
        mode := next
        heldWrites := rest
        hold := !rest.isEmpty || next != m.fget Reg.LW_ROUTE_MODE }
      ((m1.fset Reg.LW_ROUTE_BUSY (if rest.isEmpty then 0 else 1)).routeHeld go).lwRetry)

/-! Host requests and acknowledgements -/

/-- Module physical address of a DPA (R268). -/
def dpaToPa (dpa : Nat) : Nat := if dpa < 0x8000000000 then dpa else shelfBase + (dpa - 0x8000000000)

/-- CXL_MEM_REQUEST (R268, R279): a read to share, or a write, at the home, under the key of its window. -/
def execCxlMemRequest (p : Fin 2) (dpa : BitVec 41) (w : Option (List Byte)) (s : State) : Host.Outcome State Fault Refusal :=
  s.act (fun m =>
    let x := 13 + p.val
    let pa := dpaToPa dpa.toNat
    if m.fget (Reg.LW_LINK_LINK p.val) ≠ linkL0 then m
    else if !m.armed p.val then m.answerPoison (pa / 64) (.rds x)
    else
      match w with
      | none => m.request (pa / 64) (.rds x)
      | some bs => m.ncWrite (some x) none (m.hostKey pa) pa bs)

/-- What the host finds in configuration space (R265): vendor, device, class and subsystem; the size of each of the three 64-bit base
address registers, 0 where it is not implemented; in BAR2 the places of the component registers, the MSI-X table, its entries and its
pending-bit array; and the fields of the CXL device DVSEC: Cache_Capable, IO_Capable, Mem_Capable, HDM_Count and the cache size. -/
def Mach.configIdentity (m : Mach) : List Nat :=
  [0x1FD7, 0x4A51, 0x120000, 0x1FD7, if m.flag Reg.BW_ID_FITTED then 0x0C else 0x0B] ++
  [2 ^ 30, 131072, 0] ++ [0, 0x10000, 192, 0x18000] ++ [1, 1, 1, 1, 64 * 2 ^ 20]

/-- What the CDAT table reports (R267, R268): of Stack and of Shelf the first device physical address, the length and the read latency in
nanoseconds, then the rate in GB/s of each direction. -/
def cdat : List Nat := [0, 0x8000000000, 210] ++ [0x8000000000, 0x18000000000, 250] ++ [118]

/-- CONFIG_REQUEST (R265, R267): the function's identity, and the CDAT table behind its DOE, or Configuration Request Retry Status
before Harbour is ready. -/
def execConfigRequest (p : Fin 2) (s : State) : Host.Outcome State Fault Refusal :=
  s.act (fun m =>
    if m.lw.released then m.emit (.landward p.val (0 :: m.configIdentity ++ cdat) [])
    else m.emit (.landward p.val [1] []))

/-- Drop the first write of a port from a list. -/
def dropFirst (p : Nat) : List LwWrite → List LwWrite
  | [] => []
  | w :: ws => if w.port = p then ws else w :: dropFirst p ws

/-- A port's oldest write leaves it: every fence read that noted it waits for one write fewer (R272). DEDUCED: log entry 35. -/
def Mach.lwHome (m : Mach) (p : Nat) : Mach :=
  m.setLw { m.lw with
    writes := dropFirst p m.lw.writes
    fence := m.lw.fence.map (fun (f : FenceRd) => { f with
      left := f.left.map (fun x => if x.1 = p then (x.1, x.2 - 1) else x) }) }

/-- LANDWARD_WRITE_ACK (R270, R278): a port's oldest write has reached its home. -/
def execLandwardWriteAck (p : Fin 2) (s : State) : Host.Outcome State Fault Refusal :=
  s.act (fun m =>
    match m.lw.writes.find? (fun w => w.port == p.val) with
    | none => m
    | some w =>
      if m.fget (Reg.LW_LINK_LINK p.val) ≠ linkL0 ∨ !m.armed p.val ∨ w.epoch ≠ m.fget (Reg.LW_EPOCH_EPOCH p.val) then m
      else
        let m1 := (m.lwHome p.val).fenceGo
        match w.msix with
        | some v => m1.emit (.msix p.val v)
        | none =>
          let r := m1.homeWrite w.pa 0 w.w
          (r.1.accessDone w.cmd r.2 0x0304).lwRetry)

/-- MSIX_UNMASK (R274): of one vector, or of the function; what was pending and may go is sent. -/
def execMsixUnmask (p : Fin 2) (vector : Option (Fin 192)) (s : State) : Host.Outcome State Fault Refusal :=
  s.act (fun m =>
    let m1 := match vector with
      | some v => m.setLw { m.lw with msixOpen := sset false (p.val * 256 + v.val) true m.lw.msixOpen }
      | none => m.setLw { m.lw with fnMask := sset false p.val false m.lw.fnMask }
    let ready := (m1.lw.msixPend.map Prod.fst).filter (fun k => k / 256 == p.val && sget false k m1.lw.msixOpen &&
      !sget false p.val m1.lw.fnMask)
    ready.foldl (fun a k =>
      (a.setLw { a.lw with msixPend := sset false k false a.lw.msixPend }).msixSend p.val (k % 256)) m1)

end Sys2Proof.Machine
end

