-- ==== Sys2Proof/Machine/Operands.lean ====
section
/-!
DEFINITION. Operand forms of the engines: memory formats (R59, R85), element positions, pool and memory sources (R54,
R107), ranges and their overlap (R67, R90), MX scales, conversions into and out of lanes, lane operations (R93), and the
encoding of a vector instruction (R92).
-/

namespace Sys2Proof.Machine

/-! Memory formats -/

/-- Element format of a floating-point memory format code (R59). -/
def memFmt (code : Nat) : Fmt :=
  if code = 0 ∨ code = 2 then .e4m3 else if code = 1 ∨ code = 3 then .e5m2 else if code = 4 then .e2m1
  else if code = 5 then .bf16 else if code = 6 then .fp16 else .fp32

def isMx (code : Nat) : Bool := code = 2 || code = 3 || code = 4
def isIntFmt (code : Nat) : Bool := 8 ≤ code && code ≤ 11

/-- Bits of an element in memory. -/
def memBits (code : Nat) : Nat :=
  if code = 4 then 4 else if code ≤ 3 ∨ code = 10 ∨ code = 11 then 8 else if code = 5 ∨ code = 6 ∨ code = 9 then 16 else 32

/-- Exact value of an integer element. -/
def intElem (code v : Nat) : Int :=
  if code = 8 then sext 32 v else if code = 9 then sext 16 v else if code = 10 then sext 8 v else ((v % 256 : Nat) : Int)

/-- An integer element saturated at the range of its format (R85). -/
def intSat (code : Nat) (i : Int) : Nat :=
  if code = 8 then wrap 32 (max (-2147483648) (min 2147483647 i))
  else if code = 9 then wrap 16 (max (-32768) (min 32767 i))
  else if code = 10 then wrap 8 (max (-128) (min 127 i))
  else wrap 8 (max 0 (min 255 i))

/-- Byte address of element `pos` of an array, and whether it sits in the high half of its byte (R27). -/
def elemAddr (code base : Nat) (pos : Int) : Nat × Bool :=
  if code = 4 then (((base : Int) + pos / 2).toNat, pos % 2 == 1)
  else (((base : Int) + pos * (memBits code / 8 : Nat)).toNat, false)

/-- Bytes an element occupies, at least one. -/
def elemBytes (code : Nat) : Nat := if code = 4 then 1 else memBits code / 8

/-! Sources -/

/-- Bytes of a pool of a core for a job, from an offset in its window (R54, R107). Source 0 is the core pool, 1 the
cluster pool. DESIGN CHOICE: log entry 7. -/
def Mach.poolBytes (m : Mach) (j : Job) (tgt src off n : Nat) : List Byte :=
  (List.range n).map (fun i =>
    if src = 0 then sget 0 (tgt * 2 ^ 22 + j.cpBase + off + i) m.mem.corePool
    else sget 0 ((tgt / 48 * 6 + tgt % 48 / 8) * 2 ^ 24 + j.kpBase + off + i) m.mem.clusterPool)

/-- Store bytes in a pool. -/
def Mach.poolPut (m : Mach) (j : Job) (tgt src off : Nat) : List Byte → Mach
  | [] => m
  | b :: bs =>
    let m1 := if src = 0 then
        { m with mem := { m.mem with corePool := sset 0 (tgt * 2 ^ 22 + j.cpBase + off) b m.mem.corePool } }
      else { m with mem := { m.mem with
        clusterPool := sset 0 ((tgt / 48 * 6 + tgt % 48 / 8) * 2 ^ 24 + j.kpBase + off) b m.mem.clusterPool } }
    m1.poolPut j tgt src (off + 1) bs

/-- Read bytes of a source for a command: 0 and 1 a pool, 2 memory by virtual address. -/
def Mach.srcRead (m : Mach) (j : Job) (c : Cmd) (src addr n : Nat) : Mach × Except XStop (List Byte) :=
  if src = 2 then m.engRead j c.job c.tgt (addr % 2 ^ 57) n else (m, .ok (m.poolBytes j c.tgt src addr n))

/-- Join writes that continue one another. -/
def mergeItems : List WItem → List WItem
  | [] => []
  | w :: ws =>
    match mergeItems ws with
    | [] => [w]
    | v :: vs => if w.src = v.src ∧ w.addr + w.data.length = v.addr then ⟨w.src, w.addr, w.data ++ v.data⟩ :: vs else w :: v :: vs

/-- Translate the memory writes of a list for a command, none of them made yet; the first that fails stops it. DEDUCED: log entry 23. -/
def Mach.tryItems (m : Mach) (j : Job) (c : Cmd) : List WItem → Mach × Except XStop Unit
  | [] => (m, .ok ())
  | w :: ws =>
    if w.src = 2 then
      let t := m.xlateRange j c.tgt (w.addr % 2 ^ 57) w.data.length .write
      (match t.2 with
       | .ok ps =>
         (match ps.find? (fun p => decide (tierOf p.pa = .host) && t.1.recovering (t.1.lwPort p.pa)) with
          | some p => (t.1, .error (.landward (t.1.lwPort p.pa)))
          | none => t.1.tryItems j c ws)
       | .error e => (t.1, .error e))
    else m.tryItems j c ws

/-- Make the writes of a list; a write refused on its way gives the command its status (R279). -/
def Mach.makeItems (m : Mach) (j : Job) (c : Cmd) : List WItem → Mach × Option XStop
  | [] => (m, none)
  | w :: ws =>
    if w.src = 2 then
      let r := m.engWrite j c.tgt c.id (w.addr % 2 ^ 57) w.data
      let rest := r.1.makeItems j c ws
      (rest.1, match r.2 with
        | .error e => some e
        | .ok _ => rest.2)
    else (m.poolPut j c.tgt w.src w.addr w.data).makeItems j c ws

/-- All the writes of a pass, chunk or row: none of them when one would fault (R76, R99). -/
def Mach.putItems (m : Mach) (j : Job) (c : Cmd) (ws : List WItem) : Mach × Except XStop Unit :=
  let items := mergeItems ws
  let t := m.tryItems j c items
  match t.2 with
  | .error e => (t.1, .error e)
  | .ok _ =>
    let r := t.1.makeItems j c items
    (r.1, match r.2 with
      | some e => .error e
      | none => .ok ())

/-- Read one element's bits from a source. -/
def Mach.readElem (m : Mach) (j : Job) (c : Cmd) (src code base : Nat) (pos : Int) : Mach × Except XStop Nat :=
  let a := elemAddr code base pos
  let r := m.srcRead j c src a.1 (elemBytes code)
  match r.2 with
  | .ok bs =>
    let v := leNat bs
    (r.1, .ok (if code = 4 then (if a.2 then v / 16 else v % 16) else v))
  | .error e => (r.1, .error e)

/-- A read of the data mover in naturally aligned 256-byte transactions (R68, R121): the whole of each is read, and what is not asked for
is discarded. DEDUCED: log entry 63. -/
def Mach.txRead (m : Mach) (j : Job) (c : Cmd) (src addr n : Nat) : Mach × Except XStop (List Byte) :=
  if src = 2 then
    let lo := addr / 256 * 256
    let r := m.srcRead j c 2 lo ((addr + n + 255) / 256 * 256 - lo)
    (r.1, match r.2 with
      | .ok bs => .ok ((bs.drop (addr - lo)).take n)
      | .error x => .error x)
  else m.srcRead j c src addr n

/-- Read one element's bits in a transaction. -/
def Mach.txElem (m : Mach) (j : Job) (c : Cmd) (src code base : Nat) (pos : Int) : Mach × Except XStop Nat :=
  let a := elemAddr code base pos
  let r := m.txRead j c src a.1 (elemBytes code)
  match r.2 with
  | .ok bs =>
    let v := leNat bs
    (r.1, .ok (if code = 4 then (if a.2 then v / 16 else v % 16) else v))
  | .error e => (r.1, .error e)

/-- Run a reader over a list of places, in order. -/
def Mach.readAll {α β : Type} (m : Mach) (f : Mach → α → Mach × Except XStop β) : List α → Mach × Except XStop (List β)
  | [] => (m, .ok [])
  | a :: as =>
    let r := f m a
    match r.2 with
    | .error e => (r.1, .error e)
    | .ok b =>
      let rest := r.1.readAll f as
      match rest.2 with
      | .ok bs => (rest.1, .ok (b :: bs))
      | .error e => (rest.1, .error e)

/-- An element to write: its array's base, its position, and its bits. -/
structure EItem where
  base : Nat
  pos : Int
  val : Nat
  deriving DecidableEq, Repr

/-- The bytes of MXFP4 elements by address, low and high half (R27). DEDUCED: log entry 24. -/
def nibbles (es : List EItem) : SMap (Option Nat × Option Nat) :=
  es.foldl (fun a e =>
    let p := elemAddr 4 e.base e.pos
    let old := sget (none, none) p.1 a
    sset (none, none) p.1 (if p.2 then (old.1, some (e.val % 16)) else (some (e.val % 16), old.2)) a) []

/-- The writes that place elements of a format. A byte of which only one MXFP4 element is written keeps its other half. -/
def Mach.packItems (m : Mach) (j : Job) (c : Cmd) (src code : Nat) (es : List EItem) : Mach × Except XStop (List WItem) :=
  if code = 4 then
    m.readAll (fun a (e : Nat × Option Nat × Option Nat) =>
      match e.2 with
      | (some lo, some hi) => (a, .ok ⟨src, e.1, [BitVec.ofNat 8 (lo + 16 * hi)]⟩)
      | (lo, hi) =>
        let r := a.srcRead j c src e.1 1
        (r.1, match r.2 with
          | .ok bs =>
            let old := leNat bs
            .ok ⟨src, e.1, [BitVec.ofNat 8 (lo.getD (old % 16) + 16 * hi.getD (old / 16))]⟩
          | .error x => .error x)) (nibbles es)
  else (m, .ok (es.map (fun e => ⟨src, (elemAddr code e.base e.pos).1, leBytes (elemBytes code) e.val⟩)))

/-! Ranges -/

/-- A range of bytes in a source. -/
structure Rng where
  src : Nat
  lo : Int
  hi : Int
  deriving DecidableEq, Repr

def Rng.meets (a b : Rng) : Bool := a.src = b.src && decide (a.lo < b.hi) && decide (b.lo < a.hi)

/-- Whether a pool range stays in its job's window (R107); memory ranges are checked as they are translated. -/
def Rng.inWindow (r : Rng) (j : Job) : Bool :=
  if r.src = 0 then decide (0 ≤ r.lo) && decide (r.hi ≤ (j.cpSize : Int))
  else if r.src = 1 then decide (0 ≤ r.lo) && decide (r.hi ≤ (j.kpSize : Int))
  else decide (0 ≤ r.lo) && decide (r.hi ≤ 2 ^ 57)

/-- Whether two ranges of a list meet. -/
def anyPair : List Rng → Bool
  | [] => false
  | r :: rest => rest.any (fun x => r.meets x) || anyPair rest

/-- Whether any range of one list meets any of another. -/
def anyMeet (as bs : List Rng) : Bool := as.any (fun a => bs.any (fun b => a.meets b))

/-! Lanes (R79, R85, R93) -/

/-- Width of a lane format. -/
def laneW (l : Nat) : Nat := if l % 2 = 0 then 32 else 16
/-- Whether a lane format is floating point. -/
def laneF (l : Nat) : Bool := l < 2
/-- Element format of a floating-point lane. -/
def laneFmt (l : Nat) : Fmt := if l = 0 then .fp32 else .bf16

def laneNum (l v : Nat) : Num := (laneFmt l).decode v
/-- A value rounded to a lane by RNE (R31). -/
def laneOut (l : Nat) (v : Num) : Nat := ((laneFmt l).encode .rne false v).1

/-- A memory element entering a lane (R85): rounded by RNE with SAT = 0, or extended. -/
def toLane (l code : Nat) (v : Num) (bits : Nat) : Nat :=
  if laneF l then laneOut l v else wrap (laneW l) (intElem code bits)

/-- A lane value as an exact value. -/
def laneVal (l v : Nat) : Num := if laneF l then laneNum l v else Num.ofInt (sext (laneW l) v)

/-- The bits a lane value takes in a plain memory format, and whether R42 counts it. -/
def fromLane (l code : Nat) (rnd : Rnd) (sat : Bool) (v : Nat) : Nat × Bool :=
  if isIntFmt code then (intSat code (sext (laneW l) v), false)
  else (memFmt code).encode rnd sat (laneNum l v)

/-- All ones of a lane's width, or zero. -/
def laneBool (l : Nat) (b : Bool) : Nat := if b then 2 ^ laneW l - 1 else 0

/-- Whether a lane result is a counted one: NaN or infinite. -/
def laneBad (l v : Nat) : Bool := laneF l && (laneNum l v).nonFinite

/-- The value a code of a format's magnitudes stands for; the infinity's, one binade past the largest finite one's. -/
def Fmt.codeVal (f : Fmt) (c : Nat) : Num := if c ≤ f.maxFin then f.decode c else .fin false (2 ^ (f.mb + 1)) (f.eLow + (c / 2 ^ f.mb : Nat) - 2)

/-- Whether a code lies at most `k` ulp from an exact magnitude `m × 2^e`, an ulp being the spacing of the format's values there. -/
def Fmt.within (f : Fmt) (k m : Nat) (e : Int) (c : Nat) : Bool :=
  let ulp := max ((Nat.log2 m : Int) + e - (f.mb : Int)) f.eLow
  !(Num.lt (.fin false k ulp) (Num.add (f.codeVal c) (.fin true m e)).abs)

/-- A result at most `k` ulp from the exact value `t` (R31), the one the part's own fixed algorithm gives (R32); past the largest finite
value stands the infinity. DEDUCED: log entry 10. -/
def nearCode (k op l a : Nat) (t : Num) : Nat :=
  let f := laneFmt l
  match t with
  | .fin s m e =>
    let c := min (f.roundMag .rtz m e) f.maxFin
    let near := ((List.range (3 * k + 3)).map (fun i => c + i - (2 * k + 1))).eraseDups.filter (fun d => decide (d ≤ f.maxFin + 1) && f.within k m e d)
    f.sign s (near.getD (Config.funcUlp op l a % near.length) c)
  | v => laneOut l v

/-- Bits of a lane, a floating-point NaN among them the canonical one (R25, R93). -/
def laneCanon (l v : Nat) : Nat := if laneF l && (laneNum l (v % 2 ^ laneW l)).isNan then (laneFmt l).qnan else v % 2 ^ laneW l

/-- A free lane value `v`. DESIGN CHOICE: log entry 9. -/
def laneFree (l v : Nat) : Nat := laneCanon l v

/-- Division (R31, R93). The manual states no quotient by zero and none of or by an infinity. DESIGN CHOICE: log entry 9. -/
def laneDiv (l a b : Nat) : Nat :=
  match laneNum l a, laneNum l b with
  | .nan, _ => (laneFmt l).qnan
  | _, .nan => (laneFmt l).qnan
  | .fin s m e, .fin t n g =>
    if n = 0 then laneFree l (Config.laneOpen 6 l a b) else laneOut l (Num.quot (s != t) m e n g)
  | _, _ => laneFree l (Config.laneOpen 6 l a b)

/-- Square root. The manual states none of a negative number or of an infinity; of −0 it is a zero whose sign the manual does not state.
DESIGN CHOICE: log entry 9. -/
def laneSqrt (l a : Nat) : Nat :=
  match laneNum l a with
  | .nan => (laneFmt l).qnan
  | .inf _ => laneFree l (Config.laneOpen 7 l a 0)
  | .fin s m e =>
    if m = 0 then laneOut l (.fin (s && Config.laneOpen 7 l a 0 % 2 == 1) 0 0)
    else if s then laneFree l (Config.laneOpen 7 l a 0)
    else laneOut l (Num.root m e)

/-- Reciprocal. The manual states none of zero or of an infinity. DESIGN CHOICE: log entry 9. -/
def laneRcp (l a : Nat) : Nat :=
  match laneNum l a with
  | .nan => (laneFmt l).qnan
  | .inf _ => laneFree l (Config.laneOpen 8 l a 0)
  | .fin s m e => if m = 0 then laneFree l (Config.laneOpen 8 l a 0) else nearCode 1 8 l a (Num.quot s 1 0 m e)

/-- Reciprocal square root. The manual states none of zero, of a negative number or of an infinity. DESIGN CHOICE: log entry 9. -/
def laneRsq (l a : Nat) : Nat :=
  match laneNum l a with
  | .nan => (laneFmt l).qnan
  | .inf _ => laneFree l (Config.laneOpen 9 l a 0)
  | .fin s m e =>
    if s ∨ m = 0 then laneFree l (Config.laneOpen 9 l a 0)
    else
      match Num.quot false 1 0 m e with
      | .fin _ q g => nearCode 1 9 l a (Num.root q g)
      | v => laneOut l v

/-- A function with an ulp bound (R31, R32, R93): a NaN gives a NaN, and a result stands within the bound; the manual states none
of an infinity, nor a logarithm of zero or of a negative number. -/
def laneFunc (op l a : Nat) : Nat :=
  match laneNum l a with
  | .nan => (laneFmt l).qnan
  | .inf _ => laneFree l (Config.funcUlp op l a)
  | .fin s m e =>
    match funcValue op s m e with
    | some t => nearCode (if op = 0x0A ∨ op = 0x0B then 1 else 2) op l a t
    | none => laneFree l (Config.funcUlp op l a)

/-- The element-wise operation of an opcode (R93), on lane bits; `imm` serves VIOTA with the element's index. -/
def laneOp (op l a b c : Nat) : Nat :=
  let w := laneW l
  let x := laneNum l a
  let y := laneNum l b
  let z := laneNum l c
  let i := sext w a
  let k := sext w b
  match op with
  | 0x01 => laneOut l (Num.add x y)
  | 0x02 => laneOut l (Num.add x y.negate)
  | 0x03 => laneOut l (Num.mul x y)
  | 0x04 => laneOut l (Num.add (Num.mul x y) z)
  | 0x05 => laneOut l (Num.add (Num.mul x y).negate z)
  | 0x06 => laneDiv l a b
  | 0x07 => laneSqrt l a
  | 0x08 => laneRcp l a
  | 0x09 => laneRsq l a
  | 0x0A | 0x0B | 0x0C | 0x0D | 0x0E | 0x0F | 0x10 => laneFunc op l a
  | 0x11 => laneOut l (Num.minOf x y)
  | 0x12 => laneOut l (Num.maxOf x y)
  | 0x13 => laneOut l x.abs
  | 0x14 => laneOut l x.negate
  | 0x18 => laneBool l (x.eqv y)
  | 0x19 => laneBool l (x.lt y)
  | 0x1A => laneBool l (x.lt y || x.eqv y)
  | 0x1B => laneBool l x.nonFinite
  | 0x1C => laneCanon l (if a % 2 ^ w ≠ 0 then b else c)
  | 0x20 => wrap w (i + k)
  | 0x21 => wrap w (i - k)
  | 0x22 => wrap w (i * k)
  | 0x23 => (a % 2 ^ w).land (b % 2 ^ w)
  | 0x24 => (a % 2 ^ w).lor (b % 2 ^ w)
  | 0x25 => (a % 2 ^ w).xor (b % 2 ^ w)
  | 0x26 => a % 2 ^ w * 2 ^ (b % w) % 2 ^ w
  | 0x27 => a % 2 ^ w / 2 ^ (b % w)
  | 0x28 => wrap w (i / ((2 ^ (b % w) : Nat) : Int))
  | 0x29 => wrap w (min i k)
  | 0x2A => wrap w (max i k)
  | _ => a % 2 ^ w

/-- VCVT (R93): to another lane format; an integer destination saturates, and NaN gives 0. -/
def laneCvt (l l2 : Nat) (rnd : Rnd) (sat : Bool) (a : Nat) : Nat :=
  if laneF l2 then ((laneFmt l2).encode rnd sat (laneVal l a)).1
  else
    let w := laneW l2
    let lo : Int := -((2 ^ (w - 1) : Nat) : Int)
    let hi : Int := ((2 ^ (w - 1) : Nat) : Int) - 1
    match laneVal l a with
    | .nan => 0
    | .inf s => wrap w (if s then lo else hi)
    | v => wrap w (max lo (min hi (v.toInt rnd)))

/-- Combine two lane values in a reduction: a sum, or a maximum (R49). -/
def laneCombine (isMax : Bool) (l a b : Nat) : Nat := if isMax then laneOp 0x12 l a b 0 else laneOp 0x01 l a b 0

/-- The filler of a partial chunk, which is also the start of an accumulator: +0, or −infinity (R49). DEDUCED: log entry 25. -/
def laneStart (isMax : Bool) (l : Nat) : Nat := if isMax then laneOut l (.inf true) else 0

/-- Halve a chunk: element i with element i + n/2, down to one; the first argument bounds the halvings. -/
def foldChunk (isMax : Bool) (l : Nat) : Nat → List Nat → Nat
  | 0, vs => vs.headD (laneStart isMax l)
  | n + 1, vs =>
    let h := vs.length / 2
    if h = 0 then vs.headD (laneStart isMax l)
    else foldChunk isMax l n (List.zipWith (laneCombine isMax l) (vs.take h) (vs.drop h))

/-- Reduce values in the order of R49 onto an accumulator; the first argument bounds the chunks of 256. -/
def reduceLanes (isMax : Bool) (l : Nat) : Nat → Nat → List Nat → Nat
  | 0, acc, _ => acc
  | n + 1, acc, vs =>
    if vs.isEmpty then acc
    else
      let chunk := vs.take 256 ++ List.replicate (256 - (vs.take 256).length) (laneStart isMax l)
      reduceLanes isMax l n (laneCombine isMax l acc (foldChunk isMax l 8 chunk)) (vs.drop 256)

/-! The vector instruction's encoding (R92) -/

/-- The two words of an instruction with an opcode. -/
def encodeVInst (op : Nat) (i : VInst) : Word × Word :=
  (BitVec.ofNat 64 (op % 256 + i.fmt.toNat * 2 ^ 8 + i.vd.toNat * 2 ^ 10 + i.va.toNat * 2 ^ 15 + i.vb.toNat * 2 ^ 20 +
      i.vc.toNat * 2 ^ 25 + i.cntm1.toNat * 2 ^ 30 + i.sb.toNat * 2 ^ 42 + i.cnt.toNat * 2 ^ 43 + i.rnd.toNat * 2 ^ 44 +
      i.sat.toNat * 2 ^ 46 + i.fmt2.toNat * 2 ^ 47 + i.slot.toNat * 2 ^ 51),
   BitVec.ofNat 64 (i.imm.toNat + i.stride.toNat * 2 ^ 32 + 2 ^ 60))

/-- The opcode and fields of two words; none for a nonzero reserved bit or a version other than 1. -/
def decodeVInst (w0 w1 : Word) : Option (Nat × VInst) :=
  if bits w0 54 10 ≠ 0 ∨ bits w1 56 4 ≠ 0 ∨ bits w1 60 4 ≠ 1 then none
  else some (bits w0 0 8, {
    fmt := BitVec.ofNat 2 (bits w0 8 2), vd := BitVec.ofNat 5 (bits w0 10 5), va := BitVec.ofNat 5 (bits w0 15 5)
    vb := BitVec.ofNat 5 (bits w0 20 5), vc := BitVec.ofNat 5 (bits w0 25 5), cntm1 := BitVec.ofNat 12 (bits w0 30 12)
    sb := BitVec.ofNat 1 (bits w0 42 1), cnt := BitVec.ofNat 1 (bits w0 43 1), rnd := BitVec.ofNat 2 (bits w0 44 2)
    sat := BitVec.ofNat 1 (bits w0 46 1), fmt2 := BitVec.ofNat 4 (bits w0 47 4), slot := BitVec.ofNat 3 (bits w0 51 3)
    imm := BitVec.ofNat 32 (bits w1 0 32), stride := BitVec.ofNat 24 (bits w1 32 24) })

end Sys2Proof.Machine
end

