-- ==== Sys2Proof/Machine/Matrix.lean ====
section
/-!
DEFINITION. The matrix engine and the matrix-vector unit (R36 to R42, R52 to R78): the matrix descriptor and its checks,
the fold into passes, the exact groups and the accumulation order, the drain and the accumulator save area.
-/

namespace Sys2Proof.Machine

/-! The matrix descriptor (R58, R59) -/

/-- An operand A or B as its words name it. -/
structure MxOp where
  fmt : Nat
  base : Nat
  src : Nat
  layout : Nat
  stride : Nat
  scdim : Nat
  scstride : Nat
  scale : Nat
  scsrc : Nat
  deriving DecidableEq, Repr

/-- Operand A, or B of words 5 to 7. -/
def Cmd.mxOp (c : Cmd) (second : Bool) : MxOp :=
  let w := if second then 5 else 2
  { fmt := bits (wd c.body 0) (if second then 12 else 8) 4
    base := bits (wd c.body w) 0 57
    src := bits (wd c.body w) 57 2
    layout := bits (wd c.body w) 59 1
    stride := bits (wd c.body (w + 1)) 0 24
    scdim := bits (wd c.body (w + 1)) 24 1
    scstride := bits (wd c.body (w + 1)) 25 23
    scale := bits (wd c.body (w + 2)) 0 57
    scsrc := bits (wd c.body (w + 2)) 57 2 }

def Cmd.mxKind (c : Cmd) : Nat := bits (wd c.body 0) 0 2
def Cmd.mxG (c : Cmd) : Nat := 4 * 2 ^ bits (wd c.body 0) 2 2
def Cmd.mxNarrow (c : Cmd) : Bool := bits (wd c.body 0) 4 2 == 1
def Cmd.mxInit (c : Cmd) : Nat := bits (wd c.body 0) 6 2
def Cmd.mxD (c : Cmd) : Nat := bits (wd c.body 0) 16 4
def Cmd.mxNone (c : Cmd) : Bool := c.mxD == 15
def Cmd.mxConv (c : Cmd) : Bool := c.mxKind == 1
def Cmd.mxM (c : Cmd) : Nat :=
  if c.mxKind = 2 then bits (wd c.body 1) 0 7 + 1 else (bits (wd c.body 1) 0 7 + 1) * 8
def Cmd.mxN (c : Cmd) : Nat := (bits (wd c.body 1) 7 7 + 1) * 8
def Cmd.mxK (c : Cmd) : Nat := (bits (wd c.body 1) 14 14 + 1) * 4
/-- Layout of D, its stride, and the dimension its MX blocks lie along: 0 along N, 1 along M. -/
def Cmd.mxDlay (c : Cmd) : Nat := bits (wd c.body 0) 27 2
def Cmd.mxDstride (c : Cmd) : Nat := bits (wd c.body 11) 0 24
def Cmd.mxDdim (c : Cmd) : Nat := bits (wd c.body 0) 26 1
/-- Source and address of the save area (R65). -/
def Cmd.mxSave (c : Cmd) : Nat := bits (wd c.body 15) 0 57
def Cmd.mxSaveSrc (c : Cmd) : Nat := bits (wd c.body 15) 57 2
/-- Convolution geometry (R70): C, KW, KH, SW, AROWSTRIDE. -/
def Cmd.cvC (c : Cmd) : Nat := (bits (wd c.body 8) 0 14 + 1) * 4
def Cmd.cvKW (c : Cmd) : Nat := bits (wd c.body 8) 14 4 + 1
def Cmd.cvKH (c : Cmd) : Nat := bits (wd c.body 8) 18 4 + 1
def Cmd.cvSW (c : Cmd) : Nat := bits (wd c.body 8) 22 1 + 1
def Cmd.cvRow (c : Cmd) : Nat := bits (wd c.body 9) 0 24
/-- Accumulator format, and bytes of an accumulator in memory. -/
def Cmd.mxAcc (c : Cmd) : Fmt := if c.mxNarrow then .fp16 else .fp32
def Cmd.mxAccB (c : Cmd) : Nat := if c.mxNarrow then 2 else 4

def ceilDiv (a b : Nat) : Nat := (a + b - 1) / b

/-- Elements in 16 bytes of a format (R55). -/
def fedE (code : Nat) : Nat := 128 / memBits code

/-- Elements per visit (R52). -/
def mxKp (code : Nat) (narrow : Bool) : Nat := if code = 4 then 32 else if code ≤ 3 then (if narrow then 32 else 16) else 8

/-- Fed order (R55): base address and position within 16 bytes of element (r, k), bands of rows `r`. -/
def fedPlace (code base stride r k : Nat) : Nat × Int :=
  (base + r / 32 * stride + k / fedE code * 512 + r % 32 * 16, ((k % fedE code : Nat) : Int))

/-- Scale address in fed order (R55) for element (r, k) of `kAll` along k. -/
def fedScale (dim base kAll r k : Nat) : Nat :=
  if dim = 0 then base + r / 32 * ceilDiv kAll 32 * 32 + k / 32 * 32 + r % 32 else base + r / 32 * kAll + k

/-- Scale address in rows of blocks (R69). -/
def rowScale (dim base stride r k : Nat) : Nat :=
  if dim = 0 then base + r * stride + k / 32 else base + r / 32 * stride + k

/-- Scale address of a memory operand in a layout: the rows of blocks follow the operand's rows as stored, along k when it is K-inner and
along r when it is K-outer (R69). DEDUCED: log entry 24. -/
def laidScale (layout dim base stride r k : Nat) : Nat :=
  if layout = 0 then rowScale dim base stride r k else rowScale (1 - dim) base stride k r

/-- Input pixel of A(m, k) in a convolution: tap row, pixel of that row, channel (R70). -/
def Cmd.cvPixel (c : Cmd) (m k : Nat) : Nat × Nat × Nat :=
  (k / c.cvC / c.cvKW, m * c.cvSW + k / c.cvC % c.cvKW, k % c.cvC)

/-- Base and position of element (r, k) of an operand, `r` its row of A or column of B. -/
def Cmd.mxPlace (c : Cmd) (o : MxOp) (second : Bool) (r k : Nat) : Nat × Int :=
  if c.mxConv && !second then
    let p := c.cvPixel r k
    (o.base + p.1 * c.cvRow + p.2.1 * o.stride, ((p.2.2 : Nat) : Int))
  else if o.src < 2 then fedPlace o.fmt o.base o.stride r k
  else if o.layout = 0 then (o.base + r * o.stride, ((k : Nat) : Int))
  else (o.base + k * o.stride, ((r : Nat) : Int))

/-- Bytes between the scales of one pixel and the next of a convolution's A (DEDUCED: R70 states no scale layout). DEDUCED: log entry 24. -/
def Cmd.cvScaleRow (c : Cmd) (o : MxOp) : Nat := if o.src = 2 then o.scstride else ceilDiv c.cvC 32

/-- Address of the scale of element (r, k) of an operand. R55 states the layout for a pool operand, and R69 the one for a memory-source
scale array; where the scale array's source is not its operand's, the operand's source decides. DEDUCED: log entry 24. -/
def Cmd.mxScaleAddr (c : Cmd) (o : MxOp) (second : Bool) (r k : Nat) : Nat :=
  if c.mxConv && !second then
    let p := c.cvPixel r k
    o.scale + (p.1 * (c.cvRow / o.stride) + p.2.1) * c.cvScaleRow o + p.2.2 / 32
  else if o.src < 2 then fedScale o.scdim o.scale c.mxK r k
  else laidScale o.layout o.scdim o.scale o.scstride r k

/-! The ranges of a command (R61, R67) -/

def mkRng (src lo n : Nat) : Rng := ⟨src, (lo : Int), ((lo + n : Nat) : Int)⟩

/-- Bytes of `n` elements of a format. -/
def elemsBytes (code n : Nat) : Nat := ceilDiv (n * memBits code) 8

/-- Bytes an operand of `rows` rows and K elements spans in fed order. -/
def fedSpan (code stride rows k : Nat) : Nat := (ceilDiv rows 32 - 1) * stride + ceilDiv k (fedE code) * 512

/-- Bytes of a fed scale array. -/
def fedScaleSpan (dim rows k : Nat) : Nat := ceilDiv rows 32 * (if dim = 0 then ceilDiv k 32 * 32 else k)

/-- Bytes of a scale array in rows of blocks. -/
def rowScaleSpan (dim stride rows k : Nat) : Nat :=
  if dim = 0 then (rows - 1) * stride + ceilDiv k 32 else (ceilDiv rows 32 - 1) * stride + k

/-- The range of an operand's elements. -/
def Cmd.mxRange (c : Cmd) (o : MxOp) (second : Bool) : Rng :=
  let rows := if second then c.mxN else c.mxM
  mkRng o.src o.base (
    if c.mxConv && !second then
      (c.cvKH - 1) * c.cvRow + ((c.mxM - 1) * c.cvSW + c.cvKW - 1) * o.stride + elemsBytes o.fmt c.cvC
    else if o.src < 2 then fedSpan o.fmt o.stride rows c.mxK
    else if o.layout = 0 then (rows - 1) * o.stride + elemsBytes o.fmt c.mxK
    else (c.mxK - 1) * o.stride + elemsBytes o.fmt rows)

/-- The range of an operand's scales. -/
def Cmd.mxScaleRange (c : Cmd) (o : MxOp) (second : Bool) : Rng :=
  let rows := if second then c.mxN else c.mxM
  mkRng o.scsrc o.scale (
    if c.mxConv && !second then
      ((c.cvKH - 1) * (c.cvRow / o.stride) + (c.mxM - 1) * c.cvSW + c.cvKW - 1) * c.cvScaleRow o + ceilDiv c.cvC 32
    else if o.src < 2 then fedScaleSpan o.scdim rows c.mxK
    else if o.layout = 0 then rowScaleSpan o.scdim o.scstride rows c.mxK
    else rowScaleSpan (1 - o.scdim) o.scstride c.mxK rows)

/-- Range of C0 (R37), read in the accumulator format. -/
def Cmd.mxCRange (c : Cmd) : Rng :=
  let outer := if bits (wd c.body 8) 59 1 = 0 then c.mxM else c.mxN
  let inner := if bits (wd c.body 8) 59 1 = 0 then c.mxN else c.mxM
  mkRng (bits (wd c.body 8) 57 2) (bits (wd c.body 8) 0 57)
    ((outer - 1) * bits (wd c.body 9) 0 24 + inner * c.mxAccB)

/-- Rows and k of D as a fed operand of a later command: as A, or as B (R59). -/
def Cmd.mxDfed (c : Cmd) : Nat × Nat := if c.mxDlay = 2 then (c.mxM, c.mxN) else (c.mxN, c.mxM)

/-- Dimension of D's scales as a fed operand. -/
def Cmd.mxDfedDim (c : Cmd) : Nat := if c.mxDlay = 2 then c.mxDdim else 1 - c.mxDdim

/-- Range of D. -/
def Cmd.mxDRange (c : Cmd) : Rng :=
  let n := if 2 ≤ c.mxDlay then fedSpan c.mxD c.mxDstride c.mxDfed.1 c.mxDfed.2
    else if c.mxDlay = 0 then (c.mxM - 1) * c.mxDstride + elemsBytes c.mxD c.mxN
    else (c.mxN - 1) * c.mxDstride + elemsBytes c.mxD c.mxM
  mkRng (bits (wd c.body 10) 57 2) (bits (wd c.body 10) 0 57) n

/-- Range of D's scales. -/
def Cmd.mxDScaleRange (c : Cmd) : Rng :=
  mkRng (bits (wd c.body 12) 57 2) (bits (wd c.body 12) 0 57) (
    if 2 ≤ c.mxDlay then fedScaleSpan c.mxDfedDim c.mxDfed.1 c.mxDfed.2
    else rowScaleSpan c.mxDdim (bits (wd c.body 11) 44 20) c.mxM c.mxN)

/-- Range of the save area (R65). -/
def Cmd.mxSaveRange (c : Cmd) : Rng := mkRng c.mxSaveSrc c.mxSave (0x40 + c.mxM * c.mxN * c.mxAccB)

/-! The checks of R61 -/

/-- Bits of each body word that the descriptor lists and this command uses (R9, R58, R59). -/
def Cmd.mxUsed (c : Cmd) (i : Nat) : List (Nat × Nat) :=
  let mx := isMx c.mxD
  let sv := c.mxInit == 2 || c.mxNone
  let opW := fun (w : Nat) (second : Bool) =>
    let o := c.mxOp second
    if i = w then [(0, 60)]
    else if i = w + 1 then (if isMx o.fmt then (if o.src < 2 then [(0, 25)] else [(0, 48)]) else [(0, 24)])
    else (if isMx o.fmt then [(0, 59)] else [])
  if i = 0 then
    [(0, 20), (25, 1)] ++ (if c.mxNone then [] else [(20, 5), (27, 2)]) ++ (if mx then [(26, 1)] else [])
  else if i = 1 then [(0, 28)]
  else if i < 5 then opW 2 false
  else if i < 8 then opW 5 true
  else if i = 8 then (if c.mxConv then [(0, 23)] else if c.mxInit = 1 then [(0, 60)] else [])
  else if i = 9 then (if c.mxConv || c.mxInit == 1 then [(0, 24)] else [])
  else if i = 10 then (if c.mxNone then [] else [(0, 59)])
  else if i = 11 then (if c.mxNone then [] else [(0, 44)] ++ (if mx && decide (c.mxDlay < 2) then [(44, 20)] else []))
  else if i = 12 then (if mx then [(0, 59)] else [])
  else if i = 13 then (if bits (wd c.body 0) 20 2 = 2 && !c.mxNone then [(0, 32)] else []) ++ (if sv then [(32, 32)] else [])
  else if i = 14 then (if c.mxNone then [] else [(0, 60)])
  else [(60, 4)] ++ (if sv then [(0, 59)] else [])

/-- Whether a reserved code stands in a field the command uses. -/
def Cmd.mxCodes (c : Cmd) : Bool :=
  let f := fun (v : Nat) => decide (8 ≤ v) && decide (v ≤ 14)
  let a := c.mxOp false
  let b := c.mxOp true
  bits (wd c.body 0) 2 2 == 3 || bits (wd c.body 0) 4 2 ≥ 2 || c.mxInit == 3 || f a.fmt || f b.fmt || f c.mxD ||
    bits (wd c.body 0) 20 2 == 3 || a.src == 3 || b.src == 3 || (isMx a.fmt && a.scsrc == 3) ||
    (isMx b.fmt && b.scsrc == 3) || (c.mxInit == 1 && !c.mxConv && bits (wd c.body 8) 57 2 == 3) ||
    (!c.mxNone && bits (wd c.body 10) 57 2 == 3) || (isMx c.mxD && bits (wd c.body 12) 57 2 == 3) ||
    ((c.mxInit == 2 || c.mxNone) && c.mxSaveSrc == 3)

/-- Whether the formats form a pair of R60 that the accumulator allows (R39, R61). -/
def Cmd.mxPair (c : Cmd) : Bool :=
  let a := (c.mxOp false).fmt
  let b := (c.mxOp true).fmt
  ((a ≤ 3 && b ≤ 3) || (a == b && 4 ≤ a && a ≤ 6)) && (!c.mxNarrow || (a ≤ 3 && c.mxKind != 2))

/-- Modes that R61, R70 and R72 exclude. -/
def Cmd.mxModes (c : Cmd) : Bool :=
  let a := c.mxOp false
  let b := c.mxOp true
  let poolLay := (decide (a.src < 2) && !c.mxConv && a.layout == 1) || (decide (b.src < 2) && b.layout == 1)
  let dl := (2 ≤ c.mxDlay && (c.mxD == 7 || c.mxNone))
  let cv := c.mxConv && (c.mxInit == 1 || a.layout == 1 || (isMx a.fmt && a.scdim == 1))
  let mv := c.mxKind == 2 && (c.mxInit == 2 || c.mxNone || a.layout == 1)
  !(poolLay || dl || cv || mv)

/-- Pass shape (R62). -/
def passShape (m n : Nat) : Nat × Nat := if m ≤ 32 then (32, 128) else if n ≤ 32 then (128, 32) else (64, 64)

/-- Extents and divisibility (R58, R61, R64, R70 to R72). -/
def Cmd.mxShapes (c : Cmd) : Bool :=
  let a := c.mxOp false
  let k := c.mxK
  let dOrg := if c.mxDdim = 0 then bits (wd c.body 14) 20 20 else bits (wd c.body 14) 0 20
  let dExt := if c.mxDdim = 0 then c.mxN else c.mxM
  let dAll := if c.mxDdim = 0 then bits (wd c.body 14) 40 20 else bits (wd c.body 11) 24 20
  let mx := !isMx c.mxD || (dOrg % 32 == 0 && (dExt % 32 == 0 || dOrg + dExt == dAll))
  let bands := min ((passShape c.mxM c.mxN).1 / 32) (ceilDiv c.mxM 32)
  let window := elemsBytes a.fmt ((31 * c.cvSW + c.cvKW) * c.cvC)
  let cv := !c.mxConv || (c.cvC % c.mxG == 0 && c.cvC % mxKp a.fmt c.mxNarrow == 0 && k == c.cvKH * c.cvKW * c.cvC &&
    (!isMx a.fmt || c.cvC % 32 == 0) && bands * window ≤ 131072)
  let mv := c.mxKind != 2 || (c.mxM ≤ 8 && elemsBytes a.fmt (c.mxM * k) ≤ 131072)
  k % c.mxG == 0 && mx && cv && mv

/-- Alignment of a pool operand or of a fed destination (R55, R61). -/
def fedAligned (code base stride k : Nat) : Bool :=
  base % 512 == 0 && stride % 512 == 0 && decide (ceilDiv k (fedE code) * 512 ≤ stride)

/-- The ranges a command reads, and those it writes. -/
def Cmd.mxReads (c : Cmd) : List Rng :=
  let a := c.mxOp false
  let b := c.mxOp true
  [c.mxRange a false, c.mxRange b true] ++ (if isMx a.fmt then [c.mxScaleRange a false] else []) ++
    (if isMx b.fmt then [c.mxScaleRange b true] else []) ++ (if c.mxInit = 1 then [c.mxCRange] else []) ++
    (if c.mxInit = 2 then [c.mxSaveRange] else [])

def Cmd.mxWrites (c : Cmd) : List Rng :=
  if c.mxNone then [c.mxSaveRange] else c.mxDRange :: (if isMx c.mxD then [c.mxDScaleRange] else [])

/-- Whether a range stays in its job's window and off the stream buffer (R56, R61, R107). -/
def Rng.legal (r : Rng) (j : Job) : Bool :=
  r.inWindow j && (r.src != 0 || decide (r.hi + (j.cpBase : Int) ≤ 0x3C0000))

/-- Ranges and alignment. -/
def Cmd.mxAligned (c : Cmd) (j : Job) : Bool :=
  let a := c.mxOp false
  let b := c.mxOp true
  (c.mxReads ++ c.mxWrites).all (fun r => r.legal j) &&
    (c.mxConv || 2 ≤ a.src || fedAligned a.fmt a.base a.stride c.mxK) &&
    (2 ≤ b.src || fedAligned b.fmt b.base b.stride c.mxK) &&
    (!isMx a.fmt || 2 ≤ a.src || a.scale % 32 == 0) && (!isMx b.fmt || 2 ≤ b.src || b.scale % 32 == 0) &&
    (c.mxNone || c.mxDlay < 2 ||
      (fedAligned c.mxD (bits (wd c.body 10) 0 57) c.mxDstride c.mxDfed.2 &&
        (!isMx c.mxD || bits (wd c.body 12) 0 57 % 32 == 0)))

/-- Whether D lies exactly on C0 (R67). -/
def Cmd.mxDonC (c : Cmd) : Bool :=
  c.mxInit == 1 && !c.mxNone && bits (wd c.body 8) 0 59 == bits (wd c.body 10) 0 59 &&
    bits (wd c.body 9) 0 24 == c.mxDstride && bits (wd c.body 8) 59 1 == c.mxDlay &&
    c.mxD == (if c.mxNarrow then 6 else 7)

/-- Whether a forbidden overlap is among the ranges (R67): any two of them, those read with those read too, but D on C0 and SAVE rewritten
in place. DEDUCED: log entry 22. -/
def Cmd.mxOverlap (c : Cmd) : Bool :=
  let a := c.mxOp false
  let b := c.mxOp true
  let ops := [c.mxRange a false, c.mxRange b true] ++ (if isMx a.fmt then [c.mxScaleRange a false] else []) ++
    (if isMx b.fmt then [c.mxScaleRange b true] else [])
  let start := if c.mxInit = 1 then [c.mxCRange] else if c.mxInit = 2 then [c.mxSaveRange] else []
  anyPair ops || anyMeet ops (start ++ c.mxWrites) || anyPair c.mxWrites ||
    (!c.mxDonC && !(c.mxInit == 2 && c.mxNone) && anyMeet start c.mxWrites)

/-- The checks of R61 at the queue head of an engine: version, codes, reserved and unused fields, pairs and modes,
extents, ranges, overlaps. A kind the queue's engine does not run names the wrong engine. DEDUCED: log entry 21. -/
def mxCheck (m : Mach) (c : Cmd) : Option Nat :=
  match m.job? c.job with
  | none => none
  | some j =>
    if bits (wd c.body 15) 60 4 ≠ 1 then some 0x0202
    else if c.mxKind = 3 || c.mxCodes then some 0x0203
    else if (c.mxKind == 2) != (c.eng == 2) then some 0x0208
    else if (List.range 16).any (fun i => reservedSet (wd c.body i) (c.mxUsed i)) then some 0x0201
    else if !c.mxPair || !c.mxModes then some 0x0205
    else if !c.mxShapes then some 0x0204
    else if !c.mxAligned j then some 0x0206
    else if c.mxOverlap then some 0x0207
    else none

/-! The save area's header (R65, R66) -/

/-- Word 0 of a header that matches a command, VALID set. -/
def Cmd.mxHeader (c : Cmd) : Nat :=
  bits (wd c.body 13) 32 32 + c.job * 2 ^ 32 + bits (wd c.body 0) 2 2 * 2 ^ 38 + bits (wd c.body 0) 4 2 * 2 ^ 40 +
    bits (wd c.body 1) 0 7 * 2 ^ 42 + bits (wd c.body 1) 7 7 * 2 ^ 49 + 2 ^ 56

/-- Write the last byte of a header's word 0, which holds VALID and nothing else. -/
def Mach.mxValid (m : Mach) (j : Job) (c : Cmd) (v : Nat) : Mach × Except XStop Unit :=
  m.putItems j c [⟨c.mxSaveSrc, c.mxSave + 7, [BitVec.ofNat 8 v]⟩]

/-- Write a whole header with VALID set. -/
def Mach.mxSeal (m : Mach) (j : Job) (c : Cmd) : Mach × Except XStop Unit :=
  m.putItems j c [⟨c.mxSaveSrc, c.mxSave, leBytes 8 c.mxHeader ++ List.replicate 55 0 ++ [0x10]⟩]

/-! Passes (R62, R63) -/

/-- The corner, within a pass, of the outputs that slot `s` of the cells owns (R62). -/
def slotOrigin (sh : Nat × Nat) (s : Nat) : Nat × Nat :=
  if sh = (64, 64) then (32 * (s % 2), 32 * (s / 2)) else if sh = (32, 128) then (0, 32 * s) else (32 * s, 0)

/-- The slot and cell that own the output at a place within a pass (R62). -/
def slotOf (sh : Nat × Nat) (r n : Nat) : Nat × Nat :=
  (((List.range 4).find? (fun s => slotOrigin sh s == (r / 32 * 32, n / 32 * 32))).getD 0, r % 32 * 32 + n % 32)

/-- Outputs of pass `p`: first row, rows, first column, columns. The matrix-vector unit takes 16 outputs at a time, or the
32 of an MX block along N. -/
def Cmd.mxTile (c : Cmd) (p : Nat) : Nat × Nat × Nat × Nat :=
  if c.mxKind = 2 then
    let w := if isMx c.mxD && c.mxDdim == 0 then 32 else 16
    (0, c.mxM, p * w, min w (c.mxN - p * w))
  else
    let sh := passShape c.mxM c.mxN
    let mb := p % ceilDiv c.mxM sh.1
    let nb := p / ceilDiv c.mxM sh.1
    (mb * sh.1, min sh.1 (c.mxM - mb * sh.1), nb * sh.2, min sh.2 (c.mxN - nb * sh.2))

/-- Passes of a command. -/
def Cmd.mxPasses (c : Cmd) : Nat :=
  if c.mxKind = 2 then ceilDiv c.mxN (if isMx c.mxD && c.mxDdim == 0 then 32 else 16)
  else
    let sh := passShape c.mxM c.mxN
    ceilDiv c.mxM sh.1 * ceilDiv c.mxN sh.2

/-- Whether an operand passes through the stream buffer: it comes from memory, or is the weights of MV (R56, R72). -/
def Cmd.mxStaged (c : Cmd) (second : Bool) : Bool :=
  if c.mxKind = 2 then second else decide ((c.mxOp second).src = 2)

/-- Element (r, k) of an operand enters the stream buffer of its core, in fed order, as the engine consumes it (R56, R68): A in the lower
half, B in the upper, each going round. DESIGN CHOICE: log entry 66. -/
def Mach.mxToBuffer (m : Mach) (c : Cmd) (second : Bool) (r k v : Nat) : Mach :=
  let o := c.mxOp second
  let p := fedPlace o.fmt 0 (ceilDiv c.mxK (fedE o.fmt) * 512) r k
  let a := elemAddr o.fmt p.1 p.2
  let at_ := c.tgt * 2 ^ 22 + 0x3C0000 + (if second then 0x20000 else 0) + a.1 % 0x20000
  let put := fun (x : Mach) (i : Nat) (b : Byte) => { x with mem := { x.mem with corePool := sset 0 (at_ + i) b x.mem.corePool } }
  if o.fmt = 4 then
    let old := (sget (0 : Byte) at_ m.mem.corePool).toNat
    put m 0 (BitVec.ofNat 8 (if a.2 then old % 16 + v * 16 else old / 16 * 16 + v))
  else (leBytes (elemBytes o.fmt) v).zipIdx.foldl (fun x b => put x b.2 b.1) m

/-- Value of element (r, k) of an operand, its block's scale applied (R28, R60). -/
def Mach.mxElemAt (m : Mach) (j : Job) (c : Cmd) (second : Bool) (r k : Nat) : Mach × Except XStop Num :=
  let o := c.mxOp second
  let p := c.mxPlace o second r k
  let e := m.txElem j c o.src o.fmt p.1 p.2
  match e.2 with
  | .error x => (e.1, .error x)
  | .ok v =>
    let m1 := if c.mxStaged second then e.1.mxToBuffer c second r k v else e.1
    if isMx o.fmt then
      let s := m1.srcRead j c o.scsrc (c.mxScaleAddr o second r k) 1
      (s.1, match s.2 with
        | .ok bs => .ok (mxValue (memFmt o.fmt) (leNat bs) v)
        | .error x => .error x)
    else (m1, .ok ((memFmt o.fmt).decode v))

/-- Rows of an operand, each over the whole of K. -/
def Mach.mxRows (m : Mach) (j : Job) (c : Cmd) (second : Bool) (rows : List Nat) : Mach × Except XStop (List (List Num)) :=
  m.readAll (fun a r => a.readAll (fun b k => b.mxElemAt j c second r k) (List.range c.mxK)) rows

/-- Initial value of output (r, n) (R37, R65). -/
def Mach.mxStart (m : Mach) (j : Job) (c : Cmd) (p : Nat × Nat) : Mach × Except XStop Num :=
  let rd := fun (src addr : Nat) =>
    let x := m.srcRead j c src addr c.mxAccB
    (x.1, match x.2 with
      | .ok bs => Except.ok (c.mxAcc.decode (leNat bs))
      | .error e => .error e)
  if c.mxInit = 1 then
    let s := bits (wd c.body 9) 0 24
    rd (bits (wd c.body 8) 57 2) (bits (wd c.body 8) 0 57 +
      (if bits (wd c.body 8) 59 1 = 0 then p.1 * s + p.2 * c.mxAccB else p.2 * s + p.1 * c.mxAccB))
  else if c.mxInit = 2 then rd c.mxSaveSrc (c.mxSave + 0x40 + (p.1 * c.mxN + p.2) * c.mxAccB)
  else (m, .ok (.fin false 0 0))

/-- Products added to an accumulator (R36, R39): exact group sums, each rounded once to the accumulator format, added in
ascending order with rounding. The number bounds the groups. -/
def addGroups (f : Fmt) (g : Nat) : Nat → Num → List Num → Num
  | 0, acc, _ => acc
  | n + 1, acc, ps => if ps.isEmpty then acc else addGroups f g n (f.rne (Num.add acc (f.rne (Num.sum (ps.take g))))) (ps.drop g)

/-- Visit `v` of a slot with its products (R53): groups not above kp are added to the working register one after the other; of a larger
group the first visit's exact sum waits in the group register, and the second completes it. -/
def MxSlot.visit (f : Fmt) (g kp v : Nat) (s : MxSlot) (ps : List Num) : MxSlot :=
  if g ≤ kp then { s with working := addGroups f g kp s.working ps }
  else if v % 2 = 0 then { s with group := Num.sum ps }
  else
    { s with
      working := f.rne (Num.add s.working (f.rne (Num.add s.group (Num.sum ps))))
      group := .fin false 0 0 }

/-- All the visits of a slot in a pass, from visit `v` on; the first number bounds them. -/
def MxSlot.visits (f : Fmt) (g kp : Nat) : Nat → Nat → List Num → MxSlot → MxSlot
  | 0, _, _, s => s
  | n + 1, v, ps, s => if ps.isEmpty then s else MxSlot.visits f g kp n (v + 1) (ps.drop kp) (s.visit f g kp v (ps.take kp))

/-- A pass ends for a slot (R63): its working register moves to its shadow register. -/
def MxSlot.ended (s : MxSlot) : MxSlot := { s with shadow := s.working }

/-- An output of a pass: its row, column and accumulator. -/
structure MxOut where
  r : Nat
  n : Nat
  v : Num
  deriving DecidableEq, Repr

/-- What a slot's shadow register drains. -/
def MxSlot.out (s : MxSlot) : MxOut := ⟨s.r, s.n, s.shadow⟩

/-! The drain (R64) -/

/-- Where output (r, n) of D lies. DEDUCED: log entry 24. -/
def Cmd.mxDPlace (c : Cmd) (r n : Nat) : Nat × Int :=
  let base := bits (wd c.body 10) 0 57
  let s := c.mxDstride
  if c.mxDlay = 0 then (base + r * s, ((n : Nat) : Int))
  else if c.mxDlay = 1 then (base + n * s, ((r : Nat) : Int))
  else if c.mxDlay = 2 then fedPlace c.mxD base s r n
  else fedPlace c.mxD base s n r

/-- Where the scale of output (r, n) of D lies. -/
def Cmd.mxDScaleAt (c : Cmd) (r n : Nat) : Nat :=
  let base := bits (wd c.body 12) 0 57
  if c.mxDlay = 2 then fedScale c.mxDfedDim base c.mxN r n
  else if c.mxDlay = 3 then fedScale c.mxDfedDim base c.mxM n r
  else rowScale c.mxDdim base (bits (wd c.body 11) 44 20) r n

/-- Rounding of output (r, n): its draw has index (D_ROW0 + r) × D_WIDTH + D_COL0 + n. -/
def Cmd.mxRnd (c : Cmd) (j : Job) (r n : Nat) : Rnd :=
  rndOf (bits (wd c.body 0) 20 2) j.seed (bits (wd c.body 13) 0 32)
    ((bits (wd c.body 14) 0 20 + r) * bits (wd c.body 14) 40 20 + bits (wd c.body 14) 20 20 + n)

/-- Drain one output: its element to write, whether it is counted, and the scale of its block. `all` are the outputs of the
pass, which hold every element of the block. -/
def Cmd.mxDrain (c : Cmd) (j : Job) (all : List MxOut) (o : MxOut) : EItem × Bool × Option Nat :=
  let p := c.mxDPlace o.r o.n
  if isMx c.mxD then
    let f := memFmt c.mxD
    let blk := all.filter (fun q =>
      if c.mxDdim = 0 then q.r == o.r && q.n / 32 == o.n / 32 else q.n == o.n && q.r / 32 == o.r / 32)
    let sc := mxScale f (blk.map MxOut.v)
    (⟨p.1, p.2, mxElem f (c.mxRnd j o.r o.n) sc o.v⟩, sc == 255, some sc)
  else
    let e := (memFmt c.mxD).encode (c.mxRnd j o.r o.n) (bits (wd c.body 0) 22 1 == 1) o.v
    (⟨p.1, p.2, e.1⟩, e.2, none)

/-- The writes of a pass, and its counted outputs. -/
def Mach.mxWritesOf (m : Mach) (j : Job) (c : Cmd) (outs : List MxOut) : Mach × Except XStop (List WItem × Nat) :=
  if c.mxNone then
    (m, .ok (outs.map (fun o => ⟨c.mxSaveSrc, c.mxSave + 0x40 + (o.r * c.mxN + o.n) * c.mxAccB,
      leBytes c.mxAccB (c.mxAcc.encode .rne false o.v).1⟩), 0))
  else
    let ds := outs.map (fun o => (o, c.mxDrain j outs o))
    let w := m.packItems j c (bits (wd c.body 10) 57 2) c.mxD (ds.map (fun d => d.2.1))
    match w.2 with
    | .error e => (w.1, .error e)
    | .ok items =>
      let scales := ds.filterMap (fun d =>
        let first := if c.mxDdim = 0 then d.1.n % 32 == 0 else d.1.r % 32 == 0
        match d.2.2.2 with
        | some sc => if first then some (WItem.mk (bits (wd c.body 12) 57 2) (c.mxDScaleAt d.1.r d.1.n) [BitVec.ofNat 8 sc]) else none
        | none => none)
      (w.1, .ok (items ++ scales, (ds.filter (fun d => d.2.2.1)).length))

def Mach.setArray (m : Mach) (t : Nat) (a : Option MxArray) : Mach := { m with js := { m.js with arrays := sset none t a m.js.arrays } }

/-- Rows of A for a pass: those of the vector buffer for MV, loaded once a command (R72), or the operand's. -/
def Mach.mxLeft (m : Mach) (j : Job) (c : Cmd) (rows : List Nat) : Mach × Except XStop (List (List Num)) :=
  if c.mxKind ≠ 2 then m.mxRows j c false rows
  else
    match (sget none c.tgt m.js.vecs).filter (fun b => b.cmd == c.id) with
    | some b => (m, .ok b.rows)
    | none =>
      let r := m.mxRows j c false rows
      match r.2 with
      | .error x => (r.1, .error x)
      | .ok as => ({ r.1 with js := { r.1.js with vecs := sset none c.tgt (some ⟨c.id, as⟩) r.1.js.vecs } }, .ok as)

/-- Pass `c.prog` computes and ends (R53, R62, R63): its results stand in the shadow registers, and its products are counted. -/
def Mach.mxCompute (m : Mach) (j : Job) (c : Cmd) : Mach × Except XStop MxArray :=
  let t := c.mxTile c.prog
  let rows := (List.range t.2.1).map (fun i => t.1 + i)
  let cols := (List.range t.2.2.2).map (fun i => t.2.2.1 + i)
  let ra := m.mxLeft j c rows
  match ra.2 with
  | .error e => (ra.1, .error e)
  | .ok as =>
    let rb := ra.1.mxRows j c true cols
    match rb.2 with
    | .error e => (rb.1, .error e)
    | .ok bs =>
      let places := rows.flatMap (fun r => cols.map (fun n => (r, n)))
      let ri := rb.1.readAll (fun a p => a.mxStart j c p) places
      match ri.2 with
      | .error e => (ri.1, .error e)
      | .ok inits =>
        let pairs := as.flatMap (fun x => bs.map (fun y => (x, y)))
        let kp := if c.mxKind = 2 then 16 else mxKp (c.mxOp false).fmt c.mxNarrow
        let slots := List.zipWith (fun (p : (Nat × Nat) × Num) (xy : List Num × List Num) =>
          let own := slotOf (passShape c.mxM c.mxN) (p.1.1 - t.1) (p.1.2 - t.2.2.1)
          (MxSlot.visits c.mxAcc c.mxG kp c.mxK 0 (List.zipWith Num.mul xy.1 xy.2)
            ⟨p.1.1, p.1.2, own.2, own.1, p.2, .fin false 0 0, .fin false 0 0⟩).ended) (places.zip inits) pairs
        let prods := t.2.1 * t.2.2.2 * c.mxK
        let m1 := if c.mxKind = 2 then ri.1.fadd (Reg.RF_MV_PROD_COUNT (c.tgt / 48) (c.tgt % 48)) prods
          else ri.1.fadd (Reg.RF_MX_PROD_COUNT (c.tgt / 48) (c.tgt % 48)) prods
        (m1, .ok ⟨c.id, c.prog, slots⟩)

/-- Keep a command's progress. -/
def Mach.mxKeep (m : Mach) (c : Cmd) : Mach :=
  match m.cmdOf c.id with
  | some k => m.putCmd { k with
      prog := c.prog
      nf := c.nf }
  | none => m

/-- Drain a pass whose results stand in the shadow registers (R64, R76): none of its writes is made when one does not proceed. -/
def Mach.mxDrainPass (m : Mach) (j : Job) (c : Cmd) (a : MxArray) : Mach × Except XStop Cmd :=
  let ws := m.mxWritesOf j c (a.slots.map MxSlot.out)
  match ws.2 with
  | .error e => (ws.1, .error e)
  | .ok (items, counted) =>
    let w := ws.1.putItems j c items
    match w.2 with
    | .error e => (w.1, .error e)
    | .ok _ =>
      let c1 := { c with
        prog := c.prog + 1
        nf := if c.cls = 0 then c.nf else c.nf + counted }
      ((w.1.countNf c.tgt c.cls (if c.mxKind = 2 then 1 else 0) c.job c.step counted).mxKeep c1, .ok c1)

/-- The pass before, still in the shadow registers, drains, if there is one; a fault of its drain discards them (R76). -/
def Mach.mxDrainLast (m : Mach) (j : Job) (c : Cmd) : Mach × Except XStop Cmd :=
  match (sget none c.tgt m.js.arrays).filter (fun a => a.cmd == c.id && a.pass == c.prog && c.mxKind != 2) with
  | some a => (m.setArray c.tgt none).mxDrainPass j c a
  | none => (m, .ok c)

/-- The next pass of a command, once the one before has drained (R63): it computes, and drains at once when it is the last or a group of
the matrix-vector unit. -/
def Mach.mxPass (m : Mach) (j : Job) (c : Cmd) : Mach × Except XStop Cmd :=
  let p := m.mxCompute j c
  match p.2 with
  | .error e => (p.1, .error e)
  | .ok a =>
    if c.mxKind = 2 ∨ c.prog + 1 = c.mxPasses then p.1.mxDrainPass j c a else (p.1.setArray c.tgt (some a), .ok c)

/-- After the last pass (R65): a NONE command sets VALID with its header, a KEEP command that drained clears VALID. -/
def Mach.mxClose (m : Mach) (j : Job) (c : Cmd) : Mach :=
  let r := if c.mxNone then m.mxSeal j c else if c.mxInit = 2 then m.mxValid j c 0 else (m, .ok ())
  match r.2 with
  | .ok _ => r.1.putCmd { c with status := some 0 }
  | .error e => (r.1.putCmd c).stopCmd c e

/-! At the queue head -/

/-- Command is at the stage of its decode: 0 its KEEP header is to be read, 1 its save area's VALID is to be cleared,
2 its passes go. -/
def Cmd.mxStage (c : Cmd) : Nat := sget 0 0 c.run
def Cmd.atStage (c : Cmd) (n : Nat) : Cmd := { c with run := sset 0 0 n c.run }

/-- A fold plan is looked up as a command begins (R63): hits and misses are counted, and 16 plans are kept. -/
def Mach.mxPlan (m : Mach) (c : Cmd) : Mach :=
  let d := c.tgt / 48
  let k := c.tgt % 48
  let key := [c.mxKind, c.mxM, c.mxN, c.mxK, c.mxG, bits (wd c.body 0) 4 2, (c.mxOp false).fmt, (c.mxOp true).fmt, c.mxD]
  let mine := m.js.plans.filter (fun p => p.1 == c.tgt)
  let rest := m.js.plans.filter (fun p => p.1 != c.tgt)
  let hit := mine.any (fun p => p.2 == key)
  let kept := (mine.filter (fun p => p.2 != key)).take 15
  let m1 := { m with js := { m.js with plans := (c.tgt, key) :: kept ++ rest } }
  if hit then m1.fadd (Reg.RF_MX_PLAN_HITS d k) 1 else m1.fadd (Reg.RF_MX_PLAN_MISSES d k) 1

/-- The engine's state registers as a command begins (R78). -/
def Mach.mxBusy (m : Mach) (c : Cmd) : Mach :=
  let d := c.tgt / 48
  let k := c.tgt % 48
  if c.mxKind = 2 then (m.fset (Reg.RF_MV_STATE_BUSY d k) 1).fset (Reg.RF_MV_STATE_JOB d k) c.job
  else
    let sh := passShape c.mxM c.mxN
    let m1 := (m.fset (Reg.RF_MX_STATE_BUSY d k) 1).fset (Reg.RF_MX_STATE_JOB d k) c.job
    let m2 := (m1.fset (Reg.RF_MX_STATE_PASS d k) 0).fset (Reg.RF_MX_STATE_PASSES d k) c.mxPasses
    m2.fset (Reg.RF_MX_STATE_SHAPE d k) (if sh = (64, 64) then 0 else if sh = (32, 128) then 1 else 2)

/-- The rest of decode for a command that passed its checks (R65): a NONE command clears VALID, then passes may go. -/
def Mach.mxBegin (m : Mach) (j : Job) (c : Cmd) : Mach :=
  let r := if c.mxNone then m.mxValid j c 0 else (m, .ok ())
  match r.2 with
  | .ok _ =>
    let c2 := { c with phase := .running }.atStage 2
    let m1 := (r.1.putCmd c2).mxBusy c2
    if c.mxKind = 2 then m1 else m1.mxPlan c2
  | .error e =>
    let c1 := { c with phase := .running }.atStage 1
    (r.1.putCmd c1).stopCmd c1 e

/-- The checks at the head that depend on the state, with the KEEP header read at decode (R66, R141): the conditions
in the order of AUX, then COND (R46). -/
def Mach.mxDecode (m : Mach) (j : Job) (c : Cmd) : Mach :=
  match m.stateAux c false with
  | some 1 => m.finish c 0x0101 1 0 false
  | some 2 => m.finish c 0x0101 2 0 false
  | aux =>
    let late := fun (a : Mach) (k : Cmd) =>
      match aux with
      | some x => a.finish k 0x0101 x 0 false
      | none => if a.condSkips k then a.finish k 0 0 0 true else a.mxBegin j k
    if c.mxInit = 2 then
      let h := m.srcRead j c c.mxSaveSrc c.mxSave 8
      match h.2 with
      | .ok bs => if leNat bs % 2 ^ 57 = c.mxHeader then late h.1 c else h.1.finish c 0x0101 3 0 false
      | .error e =>
        let c1 := { c with phase := .running }
        (h.1.putCmd c1).stopCmd c1 e
    else late m c

/-- A matrix or matrix-vector command of a kind at its queue head, or one whose decode a fault interrupted. -/
def Mach.mxHead (m : Mach) (tgt eng : Nat) (mine : Nat → Bool) : Mach :=
  match m.queueHead tgt eng with
  | none => m
  | some c =>
    if !mine c.mxKind then m
    else
      match m.job? c.job with
      | none => m
      | some j =>
        if c.phase = .queued then
          (match mxCheck m c with
           | some st => m.finish c st 0 0 false
           | none => m.mxDecode j c)
        else if c.fault ≠ none ∨ c.status ≠ none then m
        else if c.mxStage = 0 then m.mxDecode j c
        else if c.mxStage = 1 then m.mxBegin j c
        else m

/-- A command's access stops it, with the progress kept so far. -/
def Mach.mxStop (m : Mach) (id : Nat) (e : XStop) : Mach :=
  match m.cmdOf id with
  | some c => m.stopCmd c e
  | none => m

/-- The end of a command whose every pass has drained. -/
def Mach.mxEnd (m : Mach) (j : Job) (id : Nat) : Mach :=
  match m.cmdOf id with
  | some c => if c.status = none then m.mxClose j c else m
  | none => m

/-- Run the next pass of a running command, the one before draining meanwhile, or its close. -/
def Mach.mxAdvance (m : Mach) (c : Cmd) : Mach :=
  match m.job? c.job with
  | none => m
  | some j =>
    if c.fault ≠ none ∨ c.status ≠ none ∨ c.mxStage ≠ 2 then m
    else
      let d := m.mxDrainLast j c
      match d.2 with
      | .error e => d.1.mxStop c.id e
      | .ok c1 =>
        if c1.mxPasses ≤ c1.prog then d.1.mxEnd j c.id
        else
          let r := d.1.mxPass j c1
          match r.2 with
          | .error e => r.1.mxStop c.id e
          | .ok c2 =>
            let m1 := if c.mxKind = 2 then r.1
              else r.1.fset (Reg.RF_MX_STATE_PASS (c.tgt / 48) (c.tgt % 48)) (min (c1.prog + 1) (c.mxPasses - 1))
            if c2.prog = c.mxPasses then m1.mxEnd j c.id else m1

/-- GEMM (R62). A reserved KIND, or that of the matrix-vector unit, at the matrix engine's head is met here too. -/
def execGemm (c : CoreId) (s : State) : Host.Outcome State Fault Refusal :=
  s.act (fun m => m.mxHead c.flat 1 (fun k => k != 1))

/-- CONV (R70). -/
def execConv (c : CoreId) (s : State) : Host.Outcome State Fault Refusal :=
  s.act (fun m => m.mxHead c.flat 1 (fun k => k == 1))

/-- All the groups of outputs of a matrix-vector command from the first not yet drained (R72, R76); the number bounds them. -/
def Mach.mvRun (m : Mach) (tgt : Nat) : Nat → Mach
  | 0 => m
  | n + 1 =>
    match m.running tgt 2 with
    | none => m
    | some c => if c.status ≠ none ∨ c.fault ≠ none then m else (m.mxAdvance c).mvRun tgt n

/-- MV (R72): begun at its head, or resumed there. -/
def execMv (c : CoreId) (s : State) : Host.Outcome State Fault Refusal :=
  s.act (fun m => (m.mxHead c.flat 2 (fun _ => true)).mvRun c.flat 66)

/-- A pass of the matrix engine ends and drains (R63, R64). -/
def execMatrixPass (c : CoreId) (s : State) : Host.Outcome State Fault Refusal :=
  s.act (fun m =>
    match m.running c.flat 1 with
    | some k => m.mxAdvance k
    | none => m)

/-- The counters of a core's matrix engine and matrix-vector unit (R78). -/
def Mach.mxClear (m : Mach) (t : Nat) : Mach :=
  let d := t / 48
  let c := t % 48
  [Reg.RF_MX_CYC_BUSY d c, Reg.RF_MX_CYC_HELD d c, Reg.RF_MX_PROD d c, Reg.RF_MX_PLAN d c, Reg.RF_MV_CYC_BUSY d c,
    Reg.RF_MV_CYC_HELD d c, Reg.RF_MV_PROD d c].foldl (fun a r => a.rset r 0) m

/-- CNT_CLR of RF_MX_CTRL (R78). -/
def execMxCntClr (a : Agent) (c : CoreId) (s : State) : Host.Outcome State Fault Refusal :=
  s.act (fun m0 => m0.byAgent a (Reg.RF_MX_CTRL c.die.val c.core.val) (fun m => m.mxClear c.flat))

/-- PLAN_FLUSH of RF_MX_CTRL (R78): at once when no command is in the engine, else once that command completes. -/
def execPlanFlush (a : Agent) (c : CoreId) (s : State) : Host.Outcome State Fault Refusal :=
  s.act (fun m0 => m0.byAgent a (Reg.RF_MX_CTRL c.die.val c.core.val) (fun m =>
    if m.flag (Reg.RF_MX_STATE_BUSY c.die.val c.core.val) then
      { m with js := { m.js with planFlush := c.flat :: m.js.planFlush.filter (fun t => t != c.flat) } }
    else { m with js := { m.js with plans := m.js.plans.filter (fun p => p.1 != c.flat) } }))

end Sys2Proof.Machine
end

