-- ==== Sys2Proof/Machine/Streams.lean ====
section
/-!
DEFINITION. Streams of the vector engine and the data mover (R83 to R86, R89, R90): the place of an element, reads in
rows, converted or raw writes with MX blocks along D0, and the ranges they span.
-/

namespace Sys2Proof.Machine

/-- A stream as its three descriptor words name it, its format given apart (R83, R121). -/
structure Stream where
  fmt : Nat
  base : Nat
  src : Nat
  bc0 : Bool
  s1 : Int
  s2 : Int
  scbase : Nat
  scsrc : Nat
  deriving DecidableEq, Repr

/-- The stream at words `w` to `w + 2` of a body. -/
def Cmd.stream (c : Cmd) (w fmt : Nat) : Stream :=
  { fmt := fmt
    base := bits (wd c.body w) 0 57
    src := bits (wd c.body w) 57 2
    bc0 := bits (wd c.body w) 59 1 == 1
    s1 := sext 28 (bits (wd c.body (w + 1)) 0 28)
    s2 := sext 28 (bits (wd c.body (w + 1)) 28 28)
    scbase := bits (wd c.body (w + 2)) 0 57
    scsrc := bits (wd c.body (w + 2)) 57 2 }

/-- Element position (R84). -/
def Stream.pos (st : Stream) (d0 d1 d2 : Nat) : Int := (if st.bc0 then 0 else (d0 : Int)) + d1 * st.s1 + d2 * st.s2

/-- Address of the scale of an element (R84). -/
def Stream.scaleAt (st : Stream) (d0 d1 d2 : Nat) : Nat :=
  ((st.scbase : Int) + (d1 * st.s1 + d2 * st.s2) / 32 + ((d0 / 32 : Nat) : Int)).toNat

/-- Least and greatest element positions over a shape. -/
def Stream.span (st : Stream) (d0 d1 d2 : Nat) : Int × Int :=
  let a := ((d1 - 1 : Nat) : Int) * st.s1
  let b := ((d2 - 1 : Nat) : Int) * st.s2
  (min 0 a + min 0 b, max 0 a + max 0 b + (if st.bc0 then 0 else ((d0 - 1 : Nat) : Int)))

/-- The bytes a stream spans, and those of its scales. -/
def Stream.ranges (st : Stream) (d0 d1 d2 : Nat) : List Rng :=
  let sp := st.span d0 d1 d2
  let w : Int := (memBits st.fmt : Nat)
  let els : Rng := ⟨st.src, st.base + sp.1 * w / 8, st.base + ((sp.2 + 1) * w + 7) / 8⟩
  let a := ((d1 - 1 : Nat) : Int) * st.s1 / 32
  let b := ((d2 - 1 : Nat) : Int) * st.s2 / 32
  let scs : Rng := ⟨st.scsrc, st.scbase + min 0 a + min 0 b,
    st.scbase + max 0 a + max 0 b + ((d0 - 1 : Nat) : Int) / 32 + 1⟩
  if isMx st.fmt then [els, scs] else [els]

/-- Whether an MX stream keeps the rule of R84. -/
def Stream.mxOk (st : Stream) : Bool := !isMx st.fmt || (!st.bc0 && st.s1 % 32 == 0 && st.s2 % 32 == 0)

/-- Whether a stream in a pool is aligned to its elements. -/
def Stream.aligned (st : Stream) : Bool := 2 ≤ st.src || st.base % elemBytes st.fmt == 0

/-- Whether a format code is reserved (R85). -/
def fmtReserved (code : Nat) : Bool := 12 ≤ code

/-- Whether two streams name the same places in the same way (R90). -/
def Stream.same (a b : Stream) : Bool := a == b

/-- Whether the ranges of two streams of a list meet, or one's elements its own scales. -/
def streamsPair (d0 d1 d2 : Nat) : List Stream → Bool
  | [] => false
  | s :: rest => anyPair (s.ranges d0 d1 d2) || rest.any (fun x => anyMeet (s.ranges d0 d1 d2) (x.ranges d0 d1 d2)) ||
      streamsPair d0 d1 d2 rest

/-- Whether any two ranges of the streams meet, but for the in-place update of an output identical to an input (R90). DEDUCED: log
entry 22. -/
def streamsMeet (reads writes : List Stream) (d0 d1 d2 : Nat) : Bool :=
  streamsPair d0 d1 d2 reads || streamsPair d0 d1 d2 writes ||
    writes.any (fun w => reads.any (fun r => !w.same r && anyMeet (w.ranges d0 d1 d2) (r.ranges d0 d1 d2)))

/-- An element read: its exact value, and its bits in its format. -/
structure RdEl where
  v : Num
  raw : Nat
  deriving DecidableEq, Repr

/-- Read one element of a stream. -/
def Mach.streamEl (m : Mach) (j : Job) (c : Cmd) (st : Stream) (d0 d1 d2 : Nat) : Mach × Except XStop RdEl :=
  let e := m.readElem j c st.src st.fmt st.base (st.pos d0 d1 d2)
  match e.2 with
  | .error x => (e.1, .error x)
  | .ok v =>
    if isMx st.fmt then
      let s := e.1.srcRead j c st.scsrc (st.scaleAt d0 d1 d2) 1
      (s.1, match s.2 with
        | .ok bs => .ok ⟨mxValue (memFmt st.fmt) (leNat bs) v, v⟩
        | .error x => .error x)
    else if isIntFmt st.fmt then (e.1, .ok ⟨Num.ofInt (intElem st.fmt v), v⟩)
    else (e.1, .ok ⟨(memFmt st.fmt).decode v, v⟩)

/-- Read `n` elements of a row from `d0`; a stream with BC0 reads its one element and repeats it. -/
def Mach.streamRow (m : Mach) (j : Job) (c : Cmd) (st : Stream) (d0 n d1 d2 : Nat) : Mach × Except XStop (List RdEl) :=
  if st.bc0 then
    let r := m.streamEl j c st d0 d1 d2
    (r.1, match r.2 with
      | .ok e => .ok (List.replicate n e)
      | .error x => .error x)
  else m.readAll (fun a i => a.streamEl j c st (d0 + i) d1 d2) (List.range n)

/-- A value to write: exact, or an integer for an integer format; and the rounding of its element. -/
structure WrEl where
  v : Num
  i : Int
  rnd : Rnd
  deriving DecidableEq, Repr

/-- The bits of a run of values in a format, a scale where the format has blocks, and how many R42 counts. -/
def encodeRun (code : Nat) (sat : Bool) (vs : List WrEl) : List Nat × Option Nat × Nat :=
  if isMx code then
    let f := memFmt code
    let sc := mxScale f (vs.map WrEl.v)
    (vs.map (fun w => mxElem f w.rnd sc w.v), some sc, if sc = 255 then vs.length else 0)
  else if isIntFmt code then (vs.map (fun w => intSat code w.i), none, 0)
  else
    let es := vs.map (fun w => (memFmt code).encode w.rnd sat w.v)
    (es.map Prod.fst, none, (es.filter Prod.snd).length)

/-- Cut a list into runs of 32; the number bounds them. -/
def runs32 {α : Type} : Nat → List α → List (List α)
  | 0, _ => []
  | n + 1, vs => if vs.isEmpty then [] else vs.take 32 :: runs32 n (vs.drop 32)

/-- The writes of values to a row of a stream from `d0`, a multiple of 32 for an MX stream, and how many are counted. -/
def Mach.streamPut (m : Mach) (j : Job) (c : Cmd) (st : Stream) (sat : Bool) (d0 d1 d2 : Nat) (vs : List WrEl) :
    Mach × Except XStop (List WItem × Nat) :=
  let rs := ((runs32 (vs.length / 32 + 1) vs).map (encodeRun st.fmt sat))
  let els := (rs.flatMap (fun r => r.1)).mapIdx (fun i v => EItem.mk st.base (st.pos (d0 + i) d1 d2) v)
  let p := m.packItems j c st.src st.fmt els
  match p.2 with
  | .error x => (p.1, .error x)
  | .ok items =>
    let scs := (rs.mapIdx (fun i r => match r.2.1 with
      | some sc => [WItem.mk st.scsrc (st.scaleAt (d0 + 32 * i) d1 d2) [BitVec.ofNat 8 sc]]
      | none => [])).flatten
    (p.1, .ok (items ++ scs, rs.foldl (fun n r => n + r.2.2) 0))

/-- The three extents of word 1 (R83, R121). -/
def Cmd.extents (c : Cmd) : Nat × Nat × Nat :=
  (bits (wd c.body 1) 0 24, bits (wd c.body 1) 24 20, bits (wd c.body 1) 44 20)

/-- Draw index of an element (R89). -/
def Cmd.srIndex (c : Cmd) (idx0 d0 d1 d2 : Nat) : Nat :=
  let e := c.extents
  idx0 + (d2 * e.2.1 + d1) * e.1 + d0

/-- Record counted elements of a command in its class and against its total. -/
def Mach.countFor (m : Mach) (c : Cmd) (eng n : Nat) : Mach × Cmd :=
  (m.countNf c.tgt c.cls eng c.job c.step n, { c with nf := if c.cls = 0 then c.nf else c.nf + n })

end Sys2Proof.Machine
end

