-- ==== Sys2Proof/Machine/DataMover.lean ====
section
/-!
DEFINITION. The data mover's commands (R121 to R123): COPY, STAGE and FILL. A command works in transactions: what one 256-byte block of
its source holds of a row, or a group of whole MX blocks, and the writes that follow from it, none across a 256-byte block. A fault
leaves its own transaction incomplete and no other (R123).
-/

namespace Sys2Proof.Machine

def Cmd.dmKind (c : Cmd) : Nat := bits (wd c.body 0) 0 2
def Cmd.dmS (c : Cmd) : Nat := bits (wd c.body 0) 8 4
def Cmd.dmD (c : Cmd) : Nat := bits (wd c.body 0) 12 4
def Cmd.dmRnd (c : Cmd) : Nat := bits (wd c.body 0) 5 2
def Cmd.dmSat (c : Cmd) : Bool := bits (wd c.body 0) 7 1 == 1
def Cmd.dmOuter (c : Cmd) : Bool := bits (wd c.body 0) 16 1 == 1
def Cmd.dmScdim (c : Cmd) : Nat := bits (wd c.body 0) 17 1
def Cmd.dmStage (c : Cmd) : Bool := c.dmKind == 1
def Cmd.dmFill (c : Cmd) : Bool := c.dmKind == 2
def Cmd.dmBand (c : Cmd) : Nat := bits (wd c.body 6) 0 24
/-- Whether a command converts: its formats differ (R122). -/
def Cmd.dmConverts (c : Cmd) : Bool := !c.dmFill && c.dmS != c.dmD

/-- Source and destination as streams. -/
def Cmd.dmSrc (c : Cmd) : Stream := c.stream 2 c.dmS
def Cmd.dmDst (c : Cmd) : Stream := { c.stream 5 c.dmD with bc0 := false }

/-- Bits of each word that the descriptor lists and the command uses (R9, R121). DEDUCED: log entry 26. -/
def Cmd.dmUsed (c : Cmd) (i : Nat) : List (Nat × Nat) :=
  let mxS := isMx c.dmS && !c.dmFill
  let mxD := isMx c.dmD && !c.dmFill
  let sr := c.dmRnd == 2
  if i = 0 then [(0, 5), (5, 3), (12, 4)] ++ (if c.dmFill && c.dmS != c.dmD then [] else [(8, 4)]) ++
    (if c.dmStage then [(16, 1)] ++ (if mxS || mxD then [(17, 1)] else []) else [])
  else if i = 1 then [(0, 64)]
  else if i = 2 then (if c.dmFill then [] else if c.dmStage then [(0, 59)] else [(0, 60)])
  else if i = 3 then (if c.dmFill then [] else if c.dmStage then [(0, 28)] else [(0, 56)])
  else if i = 4 then (if mxS then [(0, 59)] else [])
  else if i = 5 then [(0, 59)]
  else if i = 6 then (if c.dmStage then [(0, 24)] else [(0, 56)])
  else if i = 7 then (if mxD then [(0, 59)] else [])
  else if i = 8 then (if sr then [(0, 32)] else [])
  else if i = 9 then (if sr then [(0, 48)] else [])
  else if i = 10 then (if c.dmFill then [(0, memBits c.dmD)] else [])
  else if i = 15 then [(60, 4)]
  else []

/-- Element position of row `r`, k of STAGE's source: K-inner or K-outer. -/
def Cmd.dmStagePos (c : Cmd) (r k : Nat) : Int :=
  if c.dmOuter then (k : Int) * c.dmSrc.s1 + r else (r : Int) * c.dmSrc.s1 + k

/-- Address of the scale of STAGE's source element: rows of blocks along SCDIM (R69, R84; DEDUCED). DEDUCED: log entry 26. -/
def Cmd.dmStageScale (c : Cmd) (r k : Nat) : Nat :=
  let inner := if c.dmOuter then r else k
  let outer := if c.dmOuter then k else r
  if (c.dmScdim == 0) != c.dmOuter then ((c.dmSrc.scbase : Int) + (outer : Int) * c.dmSrc.s1 / 32 + ((inner / 32 : Nat) : Int)).toNat
  else ((c.dmSrc.scbase : Int) + ((outer / 32 : Nat) : Int) * c.dmSrc.s1 + inner).toNat

/-- The ranges STAGE reads. -/
def Cmd.dmStageReads (c : Cmd) : List Rng :=
  let s := c.dmSrc
  let e := c.extents
  let inner := if c.dmOuter then e.2.1 else e.1
  let outer := if c.dmOuter then e.1 else e.2.1
  let w : Int := (memBits c.dmS : Nat)
  let a := ((outer - 1 : Nat) : Int) * s.s1
  let els : Rng := ⟨s.src, s.base + min 0 a * w / 8, s.base + ((max 0 a + inner) * w + 7) / 8⟩
  let along := (c.dmScdim == 0) != c.dmOuter
  let b := if along then ((outer - 1 : Nat) : Int) * s.s1 / 32 else (((outer - 1) / 32 : Nat) : Int) * s.s1
  let n := if along then (inner - 1) / 32 + 1 else inner
  let scs : Rng := ⟨s.scsrc, s.scbase + min 0 b, s.scbase + max 0 b + n⟩
  if isMx c.dmS then [els, scs] else [els]

/-- The ranges STAGE writes: fed order, and its scales (R55). -/
def Cmd.dmStageWrites (c : Cmd) : List Rng :=
  let d := c.dmDst
  let e := c.extents
  mkRng d.src d.base (fedSpan c.dmD c.dmBand e.2.1 e.1) ::
    (if isMx c.dmD then [mkRng d.scsrc d.scbase (fedScaleSpan c.dmScdim e.2.1 e.1)] else [])

/-- The checks of a descriptor (R9, R10, R30, R84, R85, R89, R90, R121, R122). DEDUCED: log entry 21. -/
def dmCheck (m : Mach) (c : Cmd) : Option Nat :=
  match m.job? c.job with
  | none => none
  | some j =>
    let e := c.extents
    let s := c.dmSrc
    let d := c.dmDst
    let mxS := isMx c.dmS && !c.dmFill
    let mxD := isMx c.dmD && !c.dmFill
    let ints := isIntFmt c.dmS != isIntFmt c.dmD
    let reads := if c.dmFill then [] else if c.dmStage then c.dmStageReads else s.ranges e.1 e.2.1 e.2.2
    let writes := if c.dmStage then c.dmStageWrites else if c.dmFill then (d.ranges e.1 e.2.1 e.2.2).take 1
      else d.ranges e.1 e.2.1 e.2.2
    let aligned := (c.dmFill || s.aligned) && (if c.dmStage then
      fedAligned c.dmD d.base c.dmBand e.1 && (!mxD || d.scbase % 32 == 0) else d.aligned)
    if bits (wd c.body 15) 60 4 ≠ 1 then some 0x0202
    else if c.dmKind = 3 || c.dmRnd = 3 || fmtReserved c.dmD || (!c.dmFill && fmtReserved c.dmS) || d.src = 3 ||
        (!c.dmFill && s.src = 3) || (mxS && s.scsrc = 3) || (mxD && d.scsrc = 3) then some 0x0203
    else if (List.range 16).any (fun i => reservedSet (wd c.body i) (c.dmUsed i)) then some 0x0201
    else if (c.dmConverts && ints) || (c.dmRnd = 2 && (!c.dmConverts || isIntFmt c.dmD)) ||
        (c.dmStage && (6 < c.dmS || 6 < c.dmD)) then some 0x0205
    else if e.1 = 0 || e.2.1 = 0 || e.2.2 = 0 || (c.dmStage && e.2.2 ≠ 1) || (!c.dmFill && !c.dmStage && !(s.mxOk && d.mxOk)) ||
        (c.dmStage && mxS && ((c.dmScdim == 0) != c.dmOuter) && s.s1 % 32 ≠ 0) then some 0x0204
    else if !(reads ++ writes).all (fun r => r.legal j) || !aligned || (c.dmStage && (d.src = 2 || (mxD && d.scsrc = 2)))
      then some 0x0206
    else if (if c.dmStage then anyMeet reads writes else !c.dmFill && streamsMeet [s] [d] e.1 e.2.1 e.2.2) then some 0x0207
    else none

/-! Transactions (R120, R123) -/

/-- Whether a command's transactions are groups of whole MX blocks. -/
def Cmd.dmBlocks (c : Cmd) : Bool := isMx c.dmD || (!c.dmFill && !c.dmStage && isMx c.dmS)

/-- Rows of transactions: rows of a COPY or FILL; of a STAGE bands of 32 rows where they are groups of MX blocks, else its source's rows. -/
def Cmd.dmRows (c : Cmd) : Nat :=
  let e := c.extents
  if !c.dmStage then e.2.1 * e.2.2
  else if c.dmBlocks then ceilDiv e.2.1 32
  else if c.dmOuter then e.1 else e.2.1

/-- Elements of such a row. -/
def Cmd.dmAlong (c : Cmd) : Nat :=
  let e := c.extents
  if c.dmStage && !c.dmBlocks && c.dmOuter then e.2.1 else e.1

/-- Transactions of a row, at most. -/
def Cmd.dmParts (c : Cmd) : Nat := if c.dmBlocks then ceilDiv c.dmAlong 32 else c.dmAlong * 8 / 256 + 2

def Cmd.dmUnits (c : Cmd) : Nat := c.dmRows * c.dmParts

/-- Elements of part `t` of a row whose source begins at byte `a`: first, and how many. DEDUCED: log entry 26. -/
def Cmd.dmPart (c : Cmd) (a t : Nat) : Nat × Nat :=
  let n := c.dmAlong
  let cut := fun (i : Nat) =>
    if i = 0 then 0
    else if c.dmBlocks then min n (32 * i)
    else if c.dmFill || c.dmSrc.src != 2 || c.dmSrc.bc0 then min n (32 * i)
    else min n ((256 * (a / 256 + i) - a) * 8 / memBits c.dmS)
  let lo := cut t
  (lo, (if t + 1 = c.dmParts then n else cut (t + 1)) - lo)

/-- Rounding of an element. -/
def Cmd.dmRndOf (c : Cmd) (j : Job) (d0 d1 d2 : Nat) : Rnd :=
  rndOf c.dmRnd j.seed (bits (wd c.body 8) 0 32) (c.srIndex (bits (wd c.body 9) 0 48) d0 d1 d2)

/-- A converted element (R85, R122). -/
def Cmd.dmEl (c : Cmd) (j : Job) (e : RdEl) (d0 d1 d2 : Nat) : WrEl :=
  ⟨e.v, if isIntFmt c.dmS then intElem c.dmS e.raw else 0, c.dmRndOf j d0 d1 d2⟩

/-- `n` elements from `d0` of row `u` of a COPY or FILL: their writes, and how many are counted. -/
def Mach.dmRow (m : Mach) (j : Job) (c : Cmd) (u d0 n : Nat) : Mach × Except XStop (List WItem × Nat) :=
  let e := c.extents
  let d1 := u % e.2.1
  let d2 := u / e.2.1
  let d := c.dmDst
  let raw := fun (a : Mach) (vs : List Nat) =>
    a.packItems j c d.src d.fmt (vs.mapIdx (fun i v => EItem.mk d.base (d.pos (d0 + i) d1 d2) v))
  if c.dmFill then
    let r := raw m (List.replicate n (bits (wd c.body 10) 0 (memBits c.dmD)))
    (r.1, match r.2 with
      | .ok ws => .ok (ws, 0)
      | .error x => .error x)
  else
    let r := m.streamRow j c c.dmSrc d0 n d1 d2
    match r.2 with
    | .error x => (r.1, .error x)
    | .ok vs =>
      if c.dmConverts then
        r.1.streamPut j c d c.dmSat d0 d1 d2 (vs.mapIdx (fun i v => c.dmEl j v (d0 + i) d1 d2))
      else
        let w := raw r.1 (vs.map RdEl.raw)
        match w.2 with
        | .error x => (w.1, .error x)
        | .ok ws =>
          if isMx c.dmS then
            let sc := w.1.readAll (fun a i =>
              let q := a.srcRead j c c.dmSrc.scsrc (c.dmSrc.scaleAt (d0 + 32 * i) d1 d2) 1
              (q.1, match q.2 with
                | .ok bs => .ok (WItem.mk d.scsrc (d.scaleAt (d0 + 32 * i) d1 d2) bs)
                | .error x => .error x)) (List.range (ceilDiv n 32))
            (sc.1, match sc.2 with
              | .ok ss => .ok (ws ++ ss, 0)
              | .error x => .error x)
          else (w.1, .ok (ws, 0))

/-- Element (r, k) of STAGE's source, and the byte of its scale. -/
def Mach.dmStageEl (m : Mach) (j : Job) (c : Cmd) (p : Nat × Nat) : Mach × Except XStop (RdEl × Nat) :=
  let s := c.dmSrc
  let e := m.txElem j c s.src s.fmt s.base (c.dmStagePos p.1 p.2)
  match e.2 with
  | .error x => (e.1, .error x)
  | .ok v =>
    if isMx s.fmt then
      let q := e.1.srcRead j c s.scsrc (c.dmStageScale p.1 p.2) 1
      (q.1, match q.2 with
        | .ok bs => .ok (⟨mxValue (memFmt s.fmt) (leNat bs) v, v⟩, leNat bs)
        | .error x => .error x)
    else (e.1, .ok (⟨(memFmt s.fmt).decode v, v⟩, 0))

/-- Elements (r, k) of transaction `t` of row `u` of a STAGE. -/
def Cmd.dmPlaces (c : Cmd) (u t : Nat) : List (Nat × Nat) :=
  let s := c.dmSrc
  let start := if c.dmOuter then c.dmStagePos 0 u else c.dmStagePos u 0
  let q := c.dmPart (elemAddr s.fmt s.base start).1 t
  let along := (List.range q.2).map (fun i => q.1 + i)
  if c.dmBlocks then
    ((List.range (min 32 (c.extents.2.1 - 32 * u))).map (fun i => 32 * u + i)).flatMap (fun r => along.map (fun k => (r, k)))
  else along.map (fun i => if c.dmOuter then (i, u) else (u, i))

/-- Elements of a STAGE, in fed order with their scales (R55). -/
def Mach.dmStageOf (m : Mach) (j : Job) (c : Cmd) (places : List (Nat × Nat)) : Mach × Except XStop (List WItem × Nat) :=
  let e := c.extents
  let d := c.dmDst
  let rd := m.readAll (fun a p => a.dmStageEl j c p) places
  match rd.2 with
  | .error x => (rd.1, .error x)
  | .ok vs =>
    let els := places.zip vs
    let blockOf := fun (p : Nat × Nat) => if c.dmScdim = 0 then (p.1, p.2 / 32) else (p.2, 0)
    let enc := els.map (fun q =>
      if c.dmConverts then
        if isMx c.dmD then
          let sc := mxScale (memFmt c.dmD) ((els.filter (fun z => blockOf z.1 == blockOf q.1)).map (fun z => z.2.1.v))
          (q.1, mxElem (memFmt c.dmD) (c.dmRndOf j q.1.2 q.1.1 0) sc q.2.1.v, sc, sc == 255)
        else
          let x := (memFmt c.dmD).encode (c.dmRndOf j q.1.2 q.1.1 0) c.dmSat q.2.1.v
          (q.1, x.1, 0, x.2)
      else (q.1, q.2.1.raw, q.2.2, false))
    let w := rd.1.packItems j c d.src d.fmt (enc.map (fun q =>
      let p := fedPlace c.dmD d.base c.dmBand q.1.1 q.1.2
      EItem.mk p.1 p.2 q.2.1))
    match w.2 with
    | .error x => (w.1, .error x)
    | .ok ws =>
      let heads := if isMx c.dmD then enc.filter (fun q => if c.dmScdim = 0 then q.1.2 % 32 == 0 else q.1.1 % 32 == 0) else []
      let scs := heads.map (fun q =>
        WItem.mk d.scsrc (fedScale c.dmScdim d.scbase e.1 q.1.1 q.1.2) [BitVec.ofNat 8 q.2.2.1])
      (w.1, .ok (ws ++ scs, (enc.filter (fun q => q.2.2.2)).length))

/-- Transaction `i` of a command: its reads, the writes that follow and how many elements are counted. -/
def Mach.dmUnit (m : Mach) (j : Job) (c : Cmd) (i : Nat) : Mach × Except XStop (List WItem × Nat) :=
  let u := i / c.dmParts
  let t := i % c.dmParts
  if c.dmStage then m.dmStageOf j c (c.dmPlaces u t)
  else
    let s := c.dmSrc
    let e := c.extents
    let q := c.dmPart (elemAddr s.fmt s.base (s.pos 0 (u % e.2.1) (u / e.2.1))).1 t
    if q.2 = 0 then (m, .ok ([], 0)) else m.dmRow j c u q.1 q.2

/-- Cut a write at the 256-byte blocks of its destination; the number bounds the pieces. -/
def cutWrite : Nat → WItem → List WItem
  | 0, w => [w]
  | n + 1, w =>
    let k := 256 - w.addr % 256
    if w.data.length ≤ k then [w] else ⟨w.src, w.addr, w.data.take k⟩ :: cutWrite n ⟨w.src, w.addr + k, w.data.drop k⟩

/-- Make the writes of a transaction: those that cannot be made yet, and the first reason. -/
def Mach.dmPut (m : Mach) (j : Job) (c : Cmd) : List WItem → Mach × List WItem × Option XStop
  | [] => (m, [], none)
  | w :: ws =>
    let r := m.putItems j c [w]
    let rest := r.1.dmPut j c ws
    match r.2 with
    | .ok _ => rest
    | .error (.status st va) => (rest.1, rest.2.1, some (.status st va))
    | .error x => (rest.1, w :: rest.2.1, some x)

/-- One transaction goes as far as it can: read and computed once, and its writes made; what stops it. -/
def Mach.dmOne (m : Mach) (j : Job) (c : Cmd) (i : Nat) : Mach × Option XStop :=
  let got : Mach × Except XStop Cmd :=
    if sget 0 i c.run = 1 then (m, .ok c)
    else
      let r := m.dmUnit j c i
      match r.2 with
      | .error x => (r.1, .error x)
      | .ok (ws, n) =>
        let y := r.1.countFor c 3 n
        let c1 := { y.2 with
          run := sset 0 i 1 y.2.run
          held := sset [] i ((mergeItems ws).flatMap (fun w => cutWrite (w.data.length / 256 + 1) w)) y.2.held }
        (y.1.putCmd c1, .ok c1)
  match got.2 with
  | .error x => (got.1, some x)
  | .ok c1 =>
    let p := got.1.dmPut j c1 (sget [] i c1.held)
    match p.1.cmdOf c1.id with
    | none => (p.1, none)
    | some k => (p.1.putCmd { k with
        held := sset [] i p.2.1 k.held
        run := if p.2.1.isEmpty then sset 0 i 2 k.run else k.run }, p.2.2)

/-- Every transaction not yet complete (R123): one that stops leaves the others to complete; the first that stops is what the command
stops for, but a status ends it. -/
def Mach.dmAll (m : Mach) (id : Nat) : List Nat → Option XStop → Mach × Option XStop
  | [], x => (m, x)
  | i :: rest, x =>
    match m.cmdOf id with
    | none => (m, x)
    | some c =>
      match m.job? c.job with
      | none => (m, x)
      | some j =>
        if sget 0 i c.run = 2 then m.dmAll id rest x
        else
          let r := m.dmOne j c i
          match r.2 with
          | some (.status st va) => (r.1, some (.status st va))
          | some e => r.1.dmAll id rest (some (x.getD e))
          | none => r.1.dmAll id rest x

/-- Run a command as far as it goes. -/
def Mach.dmRun (m : Mach) (c : Cmd) : Mach :=
  let r := m.dmAll c.id (List.range c.dmUnits) none
  match r.1.cmdOf c.id with
  | none => r.1
  | some k =>
    match r.2 with
    | some x => r.1.stopCmd k x
    | none => r.1.putCmd { k with status := some (k.status.getD 0) }

/-- A data mover command of a kind: begun at its head, or resumed there. -/
def Mach.dmGo (m : Mach) (tgt : Nat) (mine : Nat → Bool) : Mach :=
  match m.running tgt 4 with
  | some c => if mine c.dmKind ∧ c.fault = none ∧ c.status = none then m.dmRun c else m
  | none => m.atHead tgt 4 (fun c => mine c.dmKind) dmCheck false (fun a c =>
      let c1 := { c with phase := Phase.running }
      (a.putCmd c1).dmRun c1)

/-- COPY (R122). A reserved KIND at the data mover's head is met here too. -/
def execCopy (c : CoreId) (s : State) : Host.Outcome State Fault Refusal :=
  s.act (fun m => m.dmGo c.flat (fun k => k == 0 || k == 3))

/-- STAGE (R121). -/
def execStage (c : CoreId) (s : State) : Host.Outcome State Fault Refusal :=
  s.act (fun m => m.dmGo c.flat (fun k => k == 1))

/-- FILL (R122). -/
def execFill (c : CoreId) (s : State) : Host.Outcome State Fault Refusal :=
  s.act (fun m => m.dmGo c.flat (fun k => k == 2))

end Sys2Proof.Machine
end

