-- ==== Sys2Proof/Machine/TmOps.lean ====
section
/-!
DEFINITION. What other families share of the Tidemarks (R376 to R382): the state a job shows, the shards held, and how a
Tidemark in progress is abandoned or fails, or loses a holder.
-/

namespace Sys2Proof.Machine

def tmFresh : TmJob := ⟨none, none, false, none, false, none, 0, none, none, none, []⟩

def Mach.setTm (m : Mach) (t : TmSt) : Mach := { m with tm := t }
def Mach.tmJob (m : Mach) (jn : Nat) : TmJob := (sget none jn m.tm.jobs).getD tmFresh

/-- STATE of a job (R387): VERIFYING, a Tidemark in progress, a pending target, or an armed plan. A mark with no image yet is
being captured. -/
def TmJob.code (t : TmJob) : Nat :=
  match t.cur with
  | some k => if k.len = 0 then 3 else if k.todo.isEmpty then 5 else 4
  | none => if t.verify.isSome then 6 else if t.pending.isSome then 2 else if t.plan.isSome then 1 else 0

/-- Set a job's Tidemark state, with the registers that show it. -/
def Mach.setTmJob (m : Mach) (jn : Nat) (t : TmJob) : Mach :=
  ((m.setTm { m.tm with jobs := sset none jn (some t) m.tm.jobs }).fset (Reg.HB_TM_STATE_STATE jn) t.code).fset
    (Reg.HB_TM_STATE_TARGET jn) ((t.pending.getD 0) % 2 ^ 32)

/-- Units of 2 MiB that bytes take. -/
def tmUnits (n : Nat) : Nat := (n + 0x1FFFFF) / 0x200000

/-- Tidemarks in a list of copies, by source, tag and global step. -/
def tmNames (cs : List TmCopy) : List (Nat × Word × Nat) := (cs.map (fun c => (c.source, c.rtag, c.gstep))).eraseDups

/-- Set the shards held for other modules, with HB_TM_HELD (R380, R387). -/
def Mach.setArea (m : Mach) (cs : List TmCopy) : Mach :=
  let used := cs.foldl (fun a c => a + tmUnits c.len) 0
  ((m.setTm { m.tm with area := cs }).fset Reg.HB_TM_HELD_TIDEMARKS (tmNames cs).length).fset Reg.HB_TM_HELD_FREE
    (m.fget Reg.HB_TM_AREA_LEN_UNITS - used)

/-- Identity that a placement record gives the source's Shingle partition (R379). -/
def ownShingle : Nat := 0xFFFFFFFFFFFF

/-- The rank of an identity in the membership table. -/
def Mach.rankOf (m : Mach) (id : Nat) : Option Nat := (List.range m.ranks).find? (fun r => m.rankIdent r == id)

/-- Send a message toward a module by its identity. -/
def Mach.sendIdent (m : Mach) (id : Nat) (words : List Nat) (data : List Byte) : Mach :=
  match m.rankOf id with
  | some r => m.sendTo r words data
  | none => m

/-- The retrieval tag of a job. -/
def Mach.rtagOf (m : Mach) (jn : Nat) : Word := m.rget (Reg.HB_TM_RTAG jn)

/-- Release a Tidemark's copies: its partners are told (kind 16), and its shards leave the Shingle partition. -/
def Mach.tmRelease (m : Mach) (jn : Nat) (k : TmMark) : Mach :=
  let tag := m.rtagOf jn
  let ids := ((k.holds.map (fun h => h.id)).filter (fun i => i != ownShingle)).eraseDups
  let m1 := ids.foldl (fun a i => a.sendIdent i [16, a.ident, tag.toNat, k.gstep] []) m
  m1.setTm { m1.tm with part := m1.tm.part.filter (fun c => !(c.rtag == tag && c.gstep == k.gstep)) }

/-- A Tidemark in progress ends unsealed (R382): its copies are released, its job too, and STATUS reads why. A failure is logged. -/
def Mach.tmEnd (m : Mach) (jn status : Nat) : Mach :=
  let t := m.tmJob jn
  match t.cur with
  | none => m
  | some k =>
    let m1 := ((m.tmRelease jn k).setTmJob jn { t with cur := none }).fset (Reg.HB_TM_STATE_SHINGLE jn) 0
    let m2 := (m1.holdJob 1 false jn)
    if status = 0 then m2 else (m2.fset (Reg.HB_TM_STATE_STATUS jn) status).logE 0x12 status 0 jn k.gstep

/-- A Tidemark in progress fails with a status. -/
def Mach.tmFail (m : Mach) (jn status : Nat) : Mach := m.tmEnd jn status

/-- A restore in progress for a job ends with a status. -/
def Mach.restoreEnd (m : Mach) (jn status : Nat) : Mach :=
  match m.tm.restore with
  | some r =>
    if r.job ≠ jn then m
    else ((m.setTm { m.tm with restore := none }).fset Reg.HB_TM_RST_STATUS_STATUS status).fset Reg.HB_TM_RST_STATUS_BUSY 0
  | none => m

/-- The job is destroyed (R382): a pending target is dropped, a Tidemark in progress abandoned, and its plan goes. -/
def Mach.tmGone (m : Mach) (jn : Nat) : Mach :=
  let m1 := (m.tmEnd jn 0).restoreEnd jn 0x0102
  m1.setTm { m1.tm with jobs := sset none jn none m1.tm.jobs }

/-- A holder of a mark's copies is lost: its shards are to be placed again, and an offer out to it is refused. -/
def Mach.markLoses (m : Mach) (id : Nat) (k : TmMark) : TmMark :=
  { k with
    offer := k.offer.filter (fun r => m.rankIdent r != id)
    holds := k.holds.filter (fun h => h.id != id)
    todo := k.todo ++ (k.holds.filter (fun h => h.id == id)).map (fun h => h.shard)
    acks := k.acks.filter (fun i => i != id) }

/-- A holder is lost (R382): its copies of the Tidemark in progress, and of the newest sealed one, are to be offered again. -/
def Mach.tmHolderLost (m : Mach) (id : Nat) : Mach :=
  (m.tm.jobs.map Prod.fst).foldl (fun a jn =>
    let t := a.tmJob jn
    a.setTmJob jn { t with
      cur := t.cur.map (a.markLoses id)
      last := t.last.map (a.markLoses id) }) m

end Sys2Proof.Machine
end

