-- ==== Sys2Proof/Machine/DieFence.lean ====
section
/-!
DEFINITION. Die isolation and re-admission (R234 to R239, R241, R436).
-/

namespace Sys2Proof.Machine

/-- A wire or group that a port's training finds bad (R220, R223, R240). A group that is lost stays lost. -/
def Mach.trainGroup (m : Mach) (p g : Nat) (inward : Bool) : Mach :=
  let f := if inward then Reg.HB_LT_GRP_LOST_IN p g else Reg.HB_LT_GRP_LOST_OUT p g
  if m.flag f then m else ((m.fset f 1).fadd (Reg.HB_LT_STATE_GROUPS_LOST p) 1).logE 0x08 0 p noJob g

/-- A failed wire takes its group's spare; a second one loses the group (R220). -/
def Mach.trainSpare (m : Mach) (p g : Nat) (inward : Bool) (wire : Nat) : Mach :=
  let f := if inward then Reg.HB_LT_GRP_SPARED_IN p g else Reg.HB_LT_GRP_SPARED_OUT p g
  if m.fget f = wire then m
  else if m.fget f ≠ 0x3F then m.trainGroup p g inward
  else ((m.fset f wire).fadd (Reg.HB_LT_STATE_SPARES_USED p) 1).logE 0x08 0 p noJob g

/-- Set a die's state and cause; the change is logged and interrupts (R237, R254). -/
def Mach.dieTo (m : Mach) (d st cause status : Nat) : Mach :=
  let m1 := ((m.fset (Reg.HB_DIE_STATE_STATE d) st).fset (Reg.HB_DIE_STATE_CAUSE d) cause).fset (Reg.HB_DIE_STATE_STATUS d) status
  (m1.logE 0x09 status d noJob 0).raise 131

/-- Whether an address lies in the stacks of a die. -/
def onDie (d pa : Nat) : Bool := decide (tierOf pa = .stack) && dieOfStack pa == d

/-- What the die held is gone: its pools, far cache, cached translations, fold plans and registers (R235). -/
def Mach.dieLost (m : Mach) (d : Nat) : Mach :=
  let lo := 0xF00000000000 + d * 0x4000000
  { m with
    regs := serase (fun a => decide (lo ≤ a) && decide (a < lo + 0x4000000)) m.regs
    mem := { m.mem with
      corePool := serase (fun a => a / 2 ^ 22 / 48 == d) m.mem.corePool
      clusterPool := serase (fun a => a / 2 ^ 24 / 6 == d) m.mem.clusterPool
      far := m.mem.far.filter (fun l => l.die != d) }
    js := { m.js with plans := m.js.plans.filter (fun p => p.1 / 48 != d) }
    fw := { m.fw with
      down := m.fw.down.filter (fun c => !(decide (3 ≤ c) && (c - 3) / 48 == d))
      faults := serase (fun c => decide (3 ≤ c) && (c - 3) / 48 == d) m.fw.faults }
    xl := { m.xl with tlb := m.xl.tlb.filter (fun t => !(t.place == 192 + d || (decide (t.place < 192) && t.place / 48 == d))) } }

/-- Migrations into a frame on the die fail, and so does an eviction of one, whose leaf stands with VALID 0 and MIGRATE 0
(R236). -/
def Mach.dieMoves (m : Mach) (d : Nat) : Mach :=
  let migs := m.xl.recs.filter (fun r => match r.kind with
    | .migrate g => !g.leafOut && g.frame.any (onDie d)
    | _ => false)
  let m1 := migs.foldl (fun a r => a.failMig r) m
  if m1.evicting.any (fun v => onDie d (bits v.2.2.2 16 36 * 65536)) then m1.failEvict (fun w => w.toNat - bits w 0 1 - bits w 6 1 * 64) else m1

/-- Jobs that use a die. -/
def Mach.jobsOn (m : Mach) (d : Nat) : List Nat :=
  m.liveJobs.filter (fun jn => match m.job? jn with
    | some j => j.usesDie d
    | none => false)

/-- Commands still on a die's cores, of jobs that do not use it: a prefetch STAGE of one (R236). -/
def Mach.strayOn (m : Mach) (d : Nat) : List Cmd := m.js.cmds.filter (fun c => decide (c.tgt < 192) && c.tgt / 48 == d)

/-- Running collectives whose DIES names a die (R345, R360). -/
def Mach.collsOn (m : Mach) (d : Nat) : List Cmd :=
  m.js.cmds.filter (fun c => c.tgt == 192 && c.eng == 5 && c.phase == .running && bits (wd c.body 0) (25 + d) 1 == 1)

/-- A fence abandons an operation that loads the die's firmware (R368). -/
def Mach.fwFence (m : Mach) (d : Nat) : Mach :=
  match m.fw.op with
  | none => m
  | some o =>
    if o.target ≠ d then m
    else
      let m1 := { m with fw := { m.fw with op := none } }
      (((m1.fset Reg.HB_FW_STATUS_STATUS 0x0503).fset Reg.HB_FW_STATUS_BUSY 0).fset Reg.HB_FW_STATUS_PHASE 0).releaseAll (2 + d)

/-- Fence a Reef die (R235): its position is absent, its port is down, every job that uses it fails, and what it held is
lost. -/
def Mach.fenceReef (m : Mach) (d : Nat) : Mach :=
  let m1 := ((m.goAbsent (9 + d)).fset (Reg.HB_LT_STATE_WIDTH d) 0).fset (Reg.HB_LT_STATE_VERSION d) 0
  let m2 := { m1 with lt := { m1.lt with
    switch := m1.lt.switch.filter (fun x => x.1 != d)
    narrow := m1.lt.narrow.filter (fun x => x.1 != d)
    rx := serase (fun k => k / 2 == d) m1.lt.rx } }
  let m2s := m2.retireAll 0x0304 ((m2.strayOn d).filter (fun c => c.ring == 8))
  let m3 := (m2s.jobsOn d).foldl (fun a jn => (a.tmFail jn 0x0503).failJob jn 0 0) ((m2s.fwFence d).rset (Reg.HB_FW_VER d) 0)
  let m4 := m3.retireAll 0x0503 (m3.collsOn d)
  (m4.retireAll 0x0304 (m4.strayOn d)).dieLost d

/-- Fence Headland (R239): its positions are absent and treated as landward ones, and it loses ownership (R260). -/
def Mach.fenceHeadland (m : Mach) : Mach :=
  let m1 := (List.range 9).foldl (fun a y => a.goAbsent y) m
  let m2 := (m1.fset (Reg.HB_LT_STATE_WIDTH 4) 0).fset (Reg.HB_LT_STATE_VERSION 4) 0
  let m3 := { m2 with
    hl := HlSt.reset
    lt := { m2.lt with
      switch := m2.lt.switch.filter (fun x => x.1 != 4)
      narrow := m2.lt.narrow.filter (fun x => x.1 != 4)
      rx := serase (fun k => k / 2 == 4) m2.lt.rx } }
  (m3.rset Reg.HL_HART_RUN 0).ownerLost 1

/-- A trigger of R234 with its cause, for die 0 to 3 or Headland at 4 (R237, R239). -/
def Mach.fence (m : Mach) (d cause : Nat) : Mach :=
  let st := m.fget (Reg.HB_DIE_STATE_STATE d)
  if st = dieFenced ∨ st = dieOut then m
  else
    let next := if st = dieInService ∧ cause = 5 then dieOut else dieFenced
    let m1 := m.dieTo d next cause 0
    (if d = 4 then m1.fenceHeadland else (m1.fenceReef d).dieMoves d).setClocks

/-- A port that does not come up at training (R221, R224, R237): its die is out of service. -/
def Mach.portOut (m : Mach) (p cause status : Nat) : Mach :=
  ((if p = 4 then m.fenceHeadland else (m.fenceReef p).dieMoves p).dieTo p dieOut cause status).setClocks

/-- CLOCK_LOSS (R234, R436): CAUSE 1. -/
def execClockLoss (d : Fin 5) (s : State) : Host.Outcome State Fault Refusal := s.act (fun m => m.fence d.val 1)

/-- DIE_RESET (R234): CAUSE 2. -/
def execDieReset (d : Fin 5) (s : State) : Host.Outcome State Fault Refusal := s.act (fun m => m.fence d.val 2)

/-- FENCE of HB_DIE_CMD (R234, R237, R258): CAUSE 4; STATUS reads 0x0101 where no fence follows. -/
def execHbDieFence (a : Agent) (d : Fin 4) (s : State) : Host.Outcome State Fault Refusal :=
  s.act (fun m => m.owned a Reg.HB_DIE_CMD (fun x =>
    let st := x.fget (Reg.HB_DIE_STATE_STATE d.val)
    if st = dieFenced ∨ st = dieOut then x.fset (Reg.HB_DIE_STATE_STATUS d.val) 0x0101 else x.fence d.val 4))

/-- What waits for a line of a fenced die completes poisoned, but for a request already answered. -/
def Mach.dropTxn (m : Mach) (line : Nat) (t : HomeTxn) : Mach :=
  (t.req :: t.queue).foldl (fun b r => if t.done ∧ r = t.req then b else b.answerPoison line r) (m.setTxn line none)

/-- DIE_FENCE_INVALIDATE (R235): what waits for a line homed in the die's stacks completes poisoned, and every coherent copy of such a line
is recalled; Modified data that comes back is discarded and counted at the home. DEDUCED: log entry 28. -/
def execDieFenceInvalidate (d : Fin 5) (s : State) : Host.Outcome State Fault Refusal :=
  s.act (fun m =>
    if m.fget (Reg.HB_DIE_STATE_STATE d.val) ≠ dieFenced ∧ m.fget (Reg.HB_DIE_STATE_STATE d.val) ≠ dieOut then m
    else
      let m1 := (m.dir.txns.filter (fun p => onDie d.val (p.1 * 64))).foldl (fun a p =>
        match p.2 with
        | some t => a.dropTxn p.1 t
        | none => a) m
      ((m1.dir.ents.map Prod.fst).filter (fun l => onDie d.val (l * 64))).foldl (fun a l => a.request l (.inval none)) m1)

/-- READMIT of HB_DIE_CMD (R237, R258). -/
def execReadmit (a : Agent) (d : Fin 4) (s : State) : Host.Outcome State Fault Refusal :=
  s.act (fun m => m.owned a Reg.HB_DIE_CMD (fun x =>
    if x.fget (Reg.HB_DIE_STATE_STATE d.val) = dieFenced then x.dieTo d.val dieRestoring (x.fget (Reg.HB_DIE_STATE_CAUSE d.val)) 0
    else x.fset (Reg.HB_DIE_STATE_STATUS d.val) 0x0101))

/-- Groups of a port. -/
def ltGroups (p : Nat) : Nat := if p = 4 then 32 else 64

/-- Whether either direction of a group is lost (R240). -/
def Mach.ltLost (m : Mach) (p g : Nat) : Bool := m.flag (Reg.HB_LT_GRP_LOST_IN p g) || m.flag (Reg.HB_LT_GRP_LOST_OUT p g)

/-- The width a port's lost groups leave (R224): full, the lower or upper half, or none. -/
def Mach.ltChoice (m : Mach) (p : Nat) : Option (Nat × Nat) :=
  let h := ltGroups p / 2
  let low := (List.range h).any (fun g => m.ltLost p g)
  let high := (List.range h).any (fun g => m.ltLost p (g + h))
  if !low && !high then some (2, 0) else if !low then some (1, 0) else if !high then some (1, 1) else none

/-- A trained port at a width and version 1 (R220, R221). -/
def Mach.ltUp (m : Mach) (p w h : Nat) : Mach :=
  ((m.fset (Reg.HB_LT_STATE_WIDTH p) w).fset (Reg.HB_LT_STATE_HALF p) h).fset (Reg.HB_LT_STATE_VERSION p) 1

/-- The near stacks of a die written with the poison pattern, and its presence filter cleared (R238). -/
def Mach.poisonStacks (m : Mach) (d : Nat) : Mach :=
  let mine := fun (pa : Nat) => onDie d pa
  { m with
    mem := { m.mem with
      bytes := serase mine m.mem.bytes
      ktag := serase (fun b => mine (b * 16)) m.mem.ktag
      poison := serase (fun c => mine (c * 32)) m.mem.poison
      stackPoison := sset false (2 * d + 1) true (sset false (2 * d) true m.mem.stackPoison) }
    dir := { m.dir with presence := serase (fun r => mine (r * 4096)) m.dir.presence } }

/-- Held sequencers of a die return (R362). -/
def Mach.coresBack (m : Mach) (d : Nat) : Mach :=
  (List.range 48).foldl (fun a n => a.fset (Reg.HB_FW_FAULT_HELD (3 + 48 * d + n)) 0) m

/-- RESTORING_COMPLETE (R220, R224, R237, R238): a die whose trip still holds its domains off waits (R437). Training finds wires and groups
bad beside those it kept; the die waits for its firmware, or a step failed, or no width is left (CAUSE 3). -/
def execRestoringComplete (d : Fin 4) (r : Retraining) (s : State) : Host.Outcome State Fault Refusal :=
  s.act (fun m0 =>
    if m0.fget (Reg.HB_DIE_STATE_STATE d.val) ≠ dieRestoring || m0.lh.hot.contains d.val then m0
    else
      let m1 := r.spared.foldl (fun a x => a.trainSpare d.val x.1.val x.2.1 x.2.2.val) m0
      let m := r.lost.foldl (fun a x => a.trainGroup d.val x.1.val x.2) m1
      let cause := m.fget (Reg.HB_DIE_STATE_CAUSE d.val)
      match m.ltChoice d.val with
      | some (w, h) =>
        if r.ok then (((((m.ltUp d.val w h).poisonStacks d.val).coresBack d.val).dieOn d.val).dieTo d.val dieLoading cause 0).setClocks
        else m.dieTo d.val dieOut cause 0x0F02
      | none => m.dieTo d.val dieOut 3 0x0F02)

end Sys2Proof.Machine
end

