-- ==== Sys2Proof/Machine/Limtos.lean ====
section
/-!
DEFINITION. Limtos: version negotiation, the flit check, replay, spares and narrowing (R217 to R225, R240).
-/

namespace Sys2Proof.Machine

/-- LIMTOS_CAPABILITY (R220, R221): a port that is down runs at version 1, which every end of this module implements alone,
where the far end implements it too and reports the same groups and width; otherwise it stays down, and its die is out of
service. -/
def Mach.limtosCapability (m : Mach) (p lo hi groups width : Nat) : Mach :=
  if m.fget (Reg.HB_LT_STATE_WIDTH p) ≠ 0 ∨ m.fget (Reg.HB_DIE_STATE_STATE p) = dieFenced ∨
      m.fget (Reg.HB_DIE_STATE_STATE p) = dieOut then m
  else
    match m.ltChoice p with
    | some (w, h) =>
      if lo ≤ 1 ∧ 1 ≤ hi ∧ groups = ltGroups p ∧ width = w then m.ltUp p w h
      else (m.logE 0x08 0x0202 p noJob 0).portOut p (m.fget (Reg.HB_DIE_STATE_CAUSE p)) 0x0202
    | none => m.portOut p 3 0x0F02

/-- LIMTOS_CAPABILITY (R221). -/
def execLimtosCapability (p : Fin 5) (lo hi : BitVec 4) (groups : BitVec 8) (width : BitVec 2) (s : State) :
    Host.Outcome State Fault Refusal :=
  s.act (fun m => m.limtosCapability p.val lo.toNat hi.toNat groups.toNat width.toNat)

/-- One step of the CRC of R218: x^8 + x^2 + x + 1, the most significant bit first. -/
def crc8Bit (c : BitVec 8) (b : Bool) : BitVec 8 :=
  let top := c.getLsbD 7 != b
  let s := c <<< 1
  if top then s ^^^ 0x07#8 else s

/-- CRC-8 of the first `n` bits of a word, bit 0 first, from the initial value 0. DEDUCED: log entry 31. -/
def crc8 (w : BitVec 272) : Nat → BitVec 8
  | 0 => 0#8
  | n + 1 => crc8Bit (crc8 w n) (w.getLsbD n)

/-- Whether a group's check wire carries its CRC: bit 7 − t in unit interval t. -/
def flitGroupOk (f : FlitGroup) : Bool :=
  let c := crc8 f.bits 272
  (List.range 8).all (fun t => f.crc.getLsbD t == c.getLsbD (7 - t))

/-- The wire bits of a group: the eight unit intervals of wire `w`, 34 the check wire. -/
def flitWire (f : FlitGroup) (w : Nat) : List Bool :=
  (List.range 8).map (fun t => if w = 34 then f.crc.getLsbD t else f.bits.getLsbD (34 * t + w))

/-- Groups a port has in use at its width (R224). -/
def Mach.ltInUse (m : Mach) (p : Nat) : List Nat :=
  let n := ltGroups p
  if m.fget (Reg.HB_LT_STATE_WIDTH p) = 1 then
    (List.range (n / 2)).map (fun g => if m.flag (Reg.HB_LT_STATE_HALF p) then g + n / 2 else g)
  else List.range n

/-- A group of a list, by number. -/
def groupOf (fs : List FlitGroup) (g : Nat) : Option FlitGroup := fs.find? (fun f => f.g.val == g)

/-- Whether every group in use passes its check (R218). -/
def Mach.flitOk (m : Mach) (p : Nat) (fs : List FlitGroup) : Bool :=
  (m.ltInUse p).all (fun g => match groupOf fs g with
    | some f => flitGroupOk f
    | none => false)

/-- Key of a wire's event times. -/
def wireKey (p g dir w : Nat) : Nat := ((p * 64 + g) * 2 + dir) * 35 + w

/-- One direction of a group is lost (R223, R224): the port narrows, or fails when no usable half is left. -/
def Mach.groupLost (m : Mach) (p g dir : Nat) : Mach :=
  let f := if dir = 1 then Reg.HB_LT_GRP_LOST_IN p g else Reg.HB_LT_GRP_LOST_OUT p g
  if m.flag f then m
  else
    let used := (m.ltInUse p).contains g
    let m1 := ((m.fset f 1).fadd (Reg.HB_LT_STATE_GROUPS_LOST p) 1).logE 0x08 0 p noJob g
    let m2 := { m1 with lt := { m1.lt with
      switch := m1.lt.switch.filter (fun x => !(x.1 == p && x.2.1 == g && x.2.2.1 == dir)) } }
    if m.fget (Reg.HB_LT_STATE_WIDTH p) = 2 then
      match m2.ltChoice p with
      | some (_, h) =>
        { m2 with lt := { m2.lt with narrow := (p, h) :: m2.lt.narrow.filter (fun x => x.1 != p) } }
      | none => m2.fence p 3
    else if used then m2.fence p 5
    else m2

/-- A wire is judged lasting (R223): it takes its group's spare, or the group is lost. DEDUCED: log entry 31. -/
def Mach.wireLasting (m : Mach) (p g dir w : Nat) : Mach :=
  let spare := m.fget (if dir = 1 then Reg.HB_LT_GRP_SPARED_IN p g else Reg.HB_LT_GRP_SPARED_OUT p g)
  let pend := m.lt.switch.find? (fun x => x.1 == p && x.2.1 == g && x.2.2.1 == dir)
  match pend with
  | some (_, _, _, w') => if w' = w then m else m.groupLost p g dir
  | none =>
    if spare = 0x3F then { m with lt := { m.lt with switch := (p, g, dir, w) :: m.lt.switch } } else m.groupLost p g dir

/-- An event on a wire (R222): counted for its group, and the wire is lasting when the THRESH-th falls within WINDOW of
the first of the THRESH − 1 before it. -/
def Mach.wireEvent (m : Mach) (p g dir w : Nat) : Mach :=
  let m1 := (m.fadd (Reg.HB_LT_GRP_EVENTS p g) 1).fset (Reg.HB_LT_GRP_DIR p g) (1 - dir)
  let k := wireKey p g dir w
  let past := sget [] k m1.lt.wires
  let th := m1.fget Reg.HB_LT_FAULT_CFG_THRESH
  let first := past[th - 2]?
  let lasting := match first with
    | some t => decide (m1.now ≤ t + m1.fget Reg.HB_LT_FAULT_CFG_WINDOW * 1000000)
    | none => false
  let m2 := { m1 with lt := { m1.lt with wires := sset [] k (if lasting then [] else (m1.now :: past).take 254) m1.lt.wires } }
  if lasting then m2.wireLasting p g dir w else m2

/-- The events that the failed copies of a flit show against the flit delivered, one per wire at most (R222). DEDUCED: log entry 31. -/
def Mach.flitEvents (m : Mach) (p dir : Nat) (copies : List (List FlitGroup)) (fs : List FlitGroup) : Mach :=
  (m.ltInUse p).foldl (fun a g =>
    match groupOf fs g with
    | none => a
    | some f =>
      let bad := (List.range 35).filter (fun w => copies.any (fun c => match groupOf c g with
        | some k => flitWire k w != flitWire f w
        | none => false))
      bad.foldl (fun b w => b.wireEvent p g dir w) a) m

def Mach.setRx (m : Mach) (k : Nat) (r : LtRx) : Mach := { m with lt := { m.lt with rx := sset none k (some r) m.lt.rx } }

/-- A flit arrives (R218, R219, R222). It is the sender's next new one, which its replay buffer keeps until it is acknowledged, or one of
that buffer, resent; the sender keeps no more than 512. Only the flit next in sequence is looked at, since replay resends in order from
the one that failed; taking it acknowledges it and, as flits are taken in order, every one before it. -/
def Mach.limtosFlit (m : Mach) (p dir seq : Nat) (fs : List FlitGroup) : Mach :=
  if m.fget (Reg.HB_LT_STATE_WIDTH p) = 0 ∨ !m.dieUp p then m
  else
    let k := p * 2 + dir
    let r0 := (sget none k m.lt.rx).getD ⟨0, [], 0, 0, 0, []⟩
    let new := seq == r0.send
    let r := if new then { r0 with send := (seq + 1) % 1024, unacked := r0.unacked ++ [seq] } else r0
    if !new && !r0.unacked.contains seq || new && decide (512 ≤ r0.unacked.length) then m
    else if seq ≠ r.next then
      let d := (seq + 1024 - r.next) % 1024
      if r.fails ≠ 0 ∧ d < 512 then m.setRx k { r with again := max r.again (d + 1) } else m.setRx k r
    else
      let m1 := if r.again ≠ 0 then m.fadd (Reg.HB_LT_CNT_REPLAYS p) 1 else m
      if m1.flitOk p fs then
        (m1.setRx k { r with
          next := (r.next + 1) % 1024
          copies := []
          fails := 0
          again := r.again - 1
          unacked := r.unacked.filter (fun q => q != seq) }).flitEvents p dir r.copies fs
      else
        let m2 := (m1.fadd (Reg.HB_LT_CNT_CRC_FAIL p) 1).setRx k { r with
          copies := fs :: r.copies
          fails := r.fails + 1
          again := max 1 r.again }
        if 64 ≤ r.fails + 1 then m2.fence p 3 else m2

/-- LIMTOS_FLIT (R218, R219, R222). -/
def execLimtosFlit (p : Fin 5) (inward : Bool) (seq : BitVec 10) (groups : List FlitGroup) (s : State) :
    Host.Outcome State Fault Refusal :=
  s.act (fun m => m.limtosFlit p.val (if inward then 1 else 0) seq.toNat groups)

/-- SPARE_SWITCH (R223): both ends take the spare for a wire judged lasting. -/
def execSpareSwitch (p : Fin 5) (g : Fin 64) (inward : Bool) (s : State) : Host.Outcome State Fault Refusal :=
  s.act (fun m =>
    let dir := if inward then 1 else 0
    match m.lt.switch.find? (fun x => x.1 == p.val && x.2.1 == g.val && x.2.2.1 == dir) with
    | none => m
    | some (_, _, _, w) =>
      let f := if inward then Reg.HB_LT_GRP_SPARED_IN p.val g.val else Reg.HB_LT_GRP_SPARED_OUT p.val g.val
      let m1 := { m with lt := { m.lt with
        switch := m.lt.switch.filter (fun x => !(x.1 == p.val && x.2.1 == g.val && x.2.2.1 == dir)) } }
      ((m1.fset f w).fadd (Reg.HB_LT_STATE_SPARES_USED p.val) 1).logE 0x08 0 p.val noJob g.val)

/-- NARROWING_RESUME (R224): traffic resumes at half width. -/
def execNarrowingResume (p : Fin 5) (s : State) : Host.Outcome State Fault Refusal :=
  s.act (fun m =>
    match m.lt.narrow.find? (fun x => x.1 == p.val) with
    | none => m
    | some (_, h) =>
      let m1 := { m with lt := { m.lt with narrow := m.lt.narrow.filter (fun x => x.1 != p.val) } }
      ((m1.fset (Reg.HB_LT_STATE_WIDTH p.val) 1).fset (Reg.HB_LT_STATE_HALF p.val) h).logE 0x08 0 p.val noJob 0)

end Sys2Proof.Machine
end

