-- ==== Sys2Proof/Machine/Flags.lean ====
section
/-!
DEFINITION. The step-wide all-finite flag as collectives carry it (R44, R45, R47, R355, R356): the non-finite bit of a message,
the bits of received headers, the LAST header, and the final flag.
-/

namespace Sys2Proof.Machine

/-- The non-finite bit of a message of a step (R44): the module's own counts, or a header received with the bit. -/
def Mach.nfBit (m : Mach) (jn step : Nat) : Bool :=
  match m.job? jn with
  | none => false
  | some j =>
    if step = j.step then (m.rget (Reg.HB_FIN_COUNT jn)).toNat != 0 || j.hdrNf
    else if step = j.step + 1 then j.nextNf.grad != 0 || j.nextNf.loss != 0 || j.nextNf.hdr
    else false

/-- Record a received header (R47, R356): its bit for the current step while the flag is open, or for the next; any other step
is logged with its DATA. -/
def Mach.headerRecord (m : Mach) (jn step : Nat) (nf : Bool) (cseq pos alg : Nat) : Mach :=
  match m.job? jn with
  | none => m.logD 0x19 0 0 jn step [cseq, pos, alg]
  | some j =>
    if step = j.step % 2 ^ 32 then
      (if nf ∧ !m.flag (Reg.HB_FIN_STATE_FINAL jn) then m.setJob jn (some { j with hdrNf := true }) else m)
    else if step = (j.step + 1) % 2 ^ 32 then
      (if nf then m.setJob jn (some { j with nextNf := { j.nextNf with hdr := true } }) else m)
    else m.logD 0x19 0 0 jn step [cseq, pos, alg]

/-- The module has sent its LAST header of the current step (R45). -/
def Mach.markLast (m : Mach) (jn : Nat) : Mach :=
  match m.job? jn with
  | none => m
  | some j => m.setJob jn (some { j with lastSent := true })

/-- The LAST collective of the current step completes (R45, R47): FINAL, and FINITE the inverse of the reduced bit. -/
def Mach.flagFinal (m : Mach) (jn : Nat) (nf : Bool) : Mach :=
  (m.fset (Reg.HB_FIN_STATE_FINAL jn) 1).fset (Reg.HB_FIN_STATE_FINITE jn) (if nf then 0 else 1)

end Sys2Proof.Machine
end

