-- ==== Sys2Proof/Machine/Agents.lean ====
section
/-!
DEFINITION. How an internal agent of Harbour waits on a translation fault of its own (R174, R187, R189): the waiter joins
the fault table once, and is answered by the record's closing.
-/

namespace Sys2Proof.Machine

/-- Whether a waiter is in the fault table or is to be retried. -/
def Mach.isWaiting (m : Mach) (w : FWait) : Bool := m.xl.retry.contains w || m.xl.recs.any (fun r => r.waiters.contains w)

/-- An agent's access at position `p` for a job did not proceed: the state, and its status when it ends. A resolvable
fault opens or joins a record unless the agent waits already; a failed record answers with its status. -/
def Mach.agentStop (m : Mach) (p jn : Nat) (x : XStop) : Mach × Option Nat :=
  match x with
  | .status st _ => (m, some st)
  | .wait | .landward _ => (m, none)
  | .fault va acc kind =>
    let w : FWait := ⟨.harbour (Fin.ofNat 28 p), jn, va, acc⟩
    let gone := { m with xl := { m.xl with answered := m.xl.answered.filter (fun a => decide (a.1 ≠ w)) } }
    match m.xl.answered.find? (fun a => decide (a.1 = w)), m.job? jn with
    | some (_, some st), _ => (gone, some st)
    | _, none => (gone, some 0x0401)
    | _, some j => if gone.isWaiting w then (gone, none) else (gone.openFault w j.asid kind, none)

end Sys2Proof.Machine
end

