-- ==== Sys2Proof/Machine/Codec.lean ====
section
/-!
DEFINITION. The codecs of R284 that this model computes: DEFLATE streams, raw or in the zlib wrapper, and what the headers of a JPEG
picture claim. The manual names the standards (RFC 1950, RFC 1951, ITU-T T.81); their content is not in it. PRESUMED: log entry 64.
-/

namespace Sys2Proof.Machine

/-! DEFLATE -/

/-- The bits of bytes, each byte's least significant first. -/
def bitsOf (bs : List Byte) : List Bool := bs.flatMap (fun b => (List.range 8).map b.getLsbD)

/-- A value of `n` bits, the least significant first, and the bits after it. -/
def takeBits : Nat → List Bool → Option (Nat × List Bool)
  | 0, s => some (0, s)
  | _ + 1, [] => none
  | n + 1, b :: s => (takeBits n s).map (fun r => (b.toNat + 2 * r.1, r.2))

/-- `k` values of `n` bits each. -/
def takeVals (n : Nat) : Nat → List Bool → Option (List Nat × List Bool)
  | 0, s => some ([], s)
  | k + 1, s =>
    match takeBits n s with
    | none => none
    | some (v, t) => (takeVals n k t).map (fun r => (v :: r.1, r.2))

/-- The symbols of a canonical code whose code is `len` bits long. -/
def symbolsOf (lens : List Nat) (len : Nat) : List Nat := (List.range lens.length).filter (fun i => lens.getD i 0 == len)

/-- Read one symbol: `code` and `first` are the code read so far and the first code of its length; the first number bounds the
length. -/
def huffRead (lens : List Nat) : Nat → Nat → Nat → Nat → List Bool → Option (Nat × List Bool)
  | 0, _, _, _, _ => none
  | _ + 1, _, _, _, [] => none
  | n + 1, len, code, first, b :: s =>
    let c := code + b.toNat
    let syms := symbolsOf lens len
    if c < first + syms.length then (syms[c - first]?).map (fun x => (x, s))
    else huffRead lens n (len + 1) (2 * c) (2 * (first + syms.length)) s

/-- The next symbol of a canonical code. -/
def nextSym (lens : List Nat) (s : List Bool) : Option (Nat × List Bool) := huffRead lens 15 1 0 0 s

/-- Codes left unused by a set of lengths, in units of the longest: negative where there are more than fit. -/
def codeRoom (lens : List Nat) : Int :=
  (2 ^ 15 : Int) - ((lens.filter (fun l => l != 0)).foldl (fun (a : Int) l => a + 2 ^ (15 - l)) 0)

/-- Whether a set of lengths makes a code: complete, or a single code of one bit. -/
def codeOk (lens : List Nat) : Bool :=
  let used := lens.filter (fun l => l != 0)
  codeRoom lens == 0 || used.isEmpty || used == [1]

/-- Base and extra bits of a length symbol from 257 on, and of a distance symbol. -/
def lengthCode (x : Nat) : Nat × Nat :=
  let i := x - 257
  if i = 28 then (258, 0)
  else if i < 8 then (3 + i, 0)
  else (3 + (4 + i % 4) * 2 ^ (i / 4 - 1), i / 4 - 1)
def distCode (x : Nat) : Nat × Nat := if x < 4 then (1 + x, 0) else (1 + (2 + x % 2) * 2 ^ (x / 2 - 1), x / 2 - 1)

/-- Copy `n` bytes from `d` bytes back, the output newest first. -/
def copyBack (d : Nat) : Nat → List Byte → Option (List Byte)
  | 0, out => some out
  | n + 1, out =>
    match out[d - 1]? with
    | none => none
    | some b => copyBack d n (b :: out)

/-- The symbols of one compressed block, up to its end; the number bounds them. -/
def blockBody (lit dist : List Nat) : Nat → List Byte → List Bool → Option (List Byte × List Bool)
  | 0, _, _ => none
  | n + 1, out, s =>
    match nextSym lit s with
    | none => none
    | some (x, t) =>
      if x < 256 then blockBody lit dist n (BitVec.ofNat 8 x :: out) t
      else if x = 256 then some (out, t)
      else if 285 < x then none
      else
        match takeBits (lengthCode x).2 t with
        | none => none
        | some (e, t1) =>
          match nextSym dist t1 with
          | none => none
          | some (y, t2) =>
            if 29 < y then none
            else
              match takeBits (distCode y).2 t2 with
              | none => none
              | some (g, t3) =>
                match copyBack ((distCode y).1 + g) ((lengthCode x).1 + e) out with
                | none => none
                | some out1 => blockBody lit dist n out1 t3

/-- Code lengths of the fixed codes. -/
def fixedLit : List Nat := List.replicate 144 8 ++ List.replicate 112 9 ++ List.replicate 24 7 ++ List.replicate 8 8
def fixedDist : List Nat := List.replicate 30 5

/-- The order in which a dynamic block gives the lengths of its code-length code. -/
def clOrder : List Nat := [16, 17, 18, 0, 8, 7, 9, 6, 10, 5, 11, 4, 12, 3, 13, 2, 14, 1, 15]

/-- The `want` code lengths of a dynamic block; the first number bounds the symbols read, and the list is what is read so far. -/
def readLens (cl : List Nat) (want : Nat) : Nat → List Nat → List Bool → Option (List Nat × List Bool)
  | 0, _, _ => none
  | n + 1, got, s =>
    if got.length = want then some (got, s)
    else if want < got.length then none
    else
      match nextSym cl s with
      | none => none
      | some (x, t) =>
        if x < 16 then readLens cl want n (got ++ [x]) t
        else
          let w := if x = 16 then 2 else if x = 17 then 3 else 7
          let base := if x = 18 then 11 else 3
          match takeBits w t, (if x = 16 then got.getLast? else some 0) with
          | some (e, t1), some v => readLens cl want n (got ++ List.replicate (base + e) v) t1
          | _, _ => none

/-- The codes of a dynamic block, and the bits after them. -/
def dynCodes (s : List Bool) : Option ((List Nat × List Nat) × List Bool) :=
  match takeVals 5 2 s with
  | some ([hl, hd], s1) =>
    (match takeBits 4 s1 with
     | some (hc, s2) =>
       (match takeVals 3 (hc + 4) s2 with
        | some (vs, s3) =>
          let cl := (List.range 19).map (fun i => ((clOrder.zip vs).find? (fun p => p.1 == i)).elim 0 Prod.snd)
          let want := hl + 257 + (hd + 1)
          if 29 < hl ∨ codeRoom cl ≠ 0 then none
          else
            (match readLens cl want (want + 1) [] s3 with
             | some (ls, s4) =>
               let lit := ls.take (hl + 257)
               let dist := ls.drop (hl + 257)
               if codeOk lit && codeOk dist && lit.getD 256 0 != 0 then some ((lit, dist), s4) else none
             | none => none)
        | none => none)
     | none => none)
  | _ => none

/-- A stored block. -/
def storedBlock (out : List Byte) (s : List Bool) : Option (List Byte × List Bool) :=
  match takeVals 16 2 (s.drop (s.length % 8)) with
  | some ([n, k], t) =>
    if n + k ≠ 65535 then none
    else (takeVals 8 n t).map (fun r => ((r.1.map (BitVec.ofNat 8)).reverse ++ out, r.2))
  | _ => none

/-- The blocks of a stream; the number bounds them. -/
def inflateBlocks : Nat → List Byte → List Bool → Option (List Byte × List Bool)
  | 0, _, _ => none
  | n + 1, out, s =>
    match takeVals 1 1 s with
    | some ([last], s1) =>
      (match takeBits 2 s1 with
       | some (kind, s2) =>
         let r := if kind = 0 then storedBlock out s2
           else if kind = 1 then blockBody fixedLit fixedDist (s2.length + 1) out s2
           else if kind = 2 then
             (match dynCodes s2 with
              | some ((lit, dist), s3) => blockBody lit dist (s3.length + 1) out s3
              | none => none)
           else none
         (match r with
          | some (out1, t) => if last = 1 then some (out1, t) else inflateBlocks n out1 t
          | none => none)
       | none => none)
    | _ => none

/-- The output of a raw stream, and the bits after it. -/
def inflateRaw (bs : List Byte) : Option (List Byte × List Bool) :=
  (inflateBlocks (8 * bs.length + 1) [] (bitsOf bs)).map (fun r => (r.1.reverse, r.2))

/-- Adler-32 of bytes. -/
def adler (bs : List Byte) : Nat :=
  let r := bs.foldl (fun (a : Nat × Nat) b => ((a.1 + b.toNat) % 65521, (a.2 + (a.1 + b.toNat) % 65521) % 65521)) (1, 0)
  r.2 * 65536 + r.1

/-- Whether a stream opens with a zlib header; any other is a raw stream. PRESUMED: log entry 64. -/
def isZlib : List Byte → Bool
  | c :: f :: _ => c.toNat % 16 == 8 && decide (c.toNat / 16 ≤ 7) && (c.toNat * 256 + f.toNat) % 31 == 0
  | _ => false

/-- Whether a zlib header names a preset dictionary. -/
def hasDict (bs : List Byte) : Bool := isZlib bs && (bs.getD 1 0).getLsbD 5

/-- Decode a DEFLATE sample: none where it is malformed or its checksum fails. -/
def inflate (bs : List Byte) : Option (List Byte) :=
  if isZlib bs then
    (match inflateRaw (bs.drop 2) with
     | some (out, rest) =>
       (match takeVals 8 4 (rest.drop (rest.length % 8)) with
        | some ([a, b, c, d], _) => if a * 2 ^ 24 + b * 2 ^ 16 + c * 2 ^ 8 + d = adler out then some out else none
        | _ => none)
     | none => none)
  else (inflateRaw bs).map Prod.fst

/-! JPEG headers -/

/-- What a frame header says: its marker, precision, height, width and the sampling factors of its components. -/
structure JpegHead where
  sof : Nat
  bits : Nat
  h : Nat
  w : Nat
  comps : List (Nat × Nat)
  deriving DecidableEq, Repr

/-- Whether a marker opens a frame. -/
def isSof (k : Nat) : Bool := decide (0xC0 ≤ k) && decide (k ≤ 0xCF) && k != 0xC4 && k != 0xC8 && k != 0xCC

/-- The frame header among the segments after SOI; the number bounds the bytes passed. -/
def jpegSegs : Nat → List Byte → Option JpegHead
  | 0, _ => none
  | n + 1, bs =>
    match bs with
    | a :: k :: rest =>
      if a.toNat ≠ 0xFF then none
      else if k.toNat = 0xFF then jpegSegs n (k :: rest)
      else
        let len := beNat (rest.take 2)
        let seg := (rest.take len).drop 2
        if rest.length < len ∨ len < 2 ∨ k.toNat = 0xDA ∨ k.toNat = 0xD9 then none
        else if isSof k.toNat then
          (if seg.length < 6 then none
           else
             let nc := beNat ((seg.drop 5).take 1)
             some ⟨k.toNat, beNat (seg.take 1), beNat ((seg.drop 1).take 2), beNat ((seg.drop 3).take 2),
               (List.range nc).map (fun i => ((seg.getD (7 + 3 * i) 0).toNat / 16, (seg.getD (7 + 3 * i) 0).toNat % 16))⟩)
        else jpegSegs n (rest.drop len)
    | _ => none

/-- A JPEG picture's frame header. -/
def jpegHead (bs : List Byte) : Option JpegHead :=
  match bs with
  | a :: b :: rest => if a.toNat = 0xFF ∧ b.toNat = 0xD8 then jpegSegs (rest.length + 1) rest else none
  | _ => none

/-- Whether a frame is of the JPEG row of R284: baseline or extended sequential with Huffman coding, or progressive, at 8 bits, of 1 or 3
components with sampling factors up to 4. -/
def JpegHead.supported (f : JpegHead) : Bool :=
  (f.sof == 0xC0 || f.sof == 0xC1 || f.sof == 0xC2) && f.bits == 8 && (f.comps.length == 1 || f.comps.length == 3) &&
    f.comps.all (fun p => decide (1 ≤ p.1) && decide (p.1 ≤ 4) && decide (1 ≤ p.2) && decide (p.2 ≤ 4))

/-! What a sample's headers claim (R290) -/

/-- A measure that a sample's headers carry: 0 whether they parse, 1 whether their profile, level and features are supported, 2 width,
3 height, 4 bits, 5 components. -/
def claim (k codec : Nat) (hd : List Byte) : Nat :=
  if codec = 0 then
    (match jpegHead hd with
     | none => 0
     | some f => if k = 0 then 1 else if k = 1 then f.supported.toNat else if k = 2 then f.w else if k = 3 then f.h
       else if k = 4 then f.bits else f.comps.length)
  else if codec = 1 then (if k = 0 then 1 else if k = 1 then (!hasDict hd).toNat else 0)
  else Config.claim k codec hd

end Sys2Proof.Machine
end

