-- ==== Sys2Proof/Machine/Jobs.lean ====
section
/-!
DEFINITION. Job contexts, rings and doorbells, fetch, dispatch, completion, switch-out and the step boundary
(R104 to R144, R22, R46, R47, R460 to R462).
-/

namespace Sys2Proof.Machine

/-- Forget every register the test accepts: each reads its reset value again. -/
def Mach.rwipe (m : Mach) (p : Nat → Bool) : Mach := { m with regs := serase p m.regs }

/-- The doorbell page of a job (R16). -/
def inPage (jn a : Nat) : Bool := decide (Reg.HB_DB_SQ_TAIL jn 0 ≤ a) && decide (a < Reg.HB_DB_SQ_TAIL jn 0 + 0x10000)

/-- The event counters of a job, in Harbour and on every core (R117, R118). -/
def isEventOf (jn a : Nat) : Bool :=
  (decide (Reg.HB_EVENT jn 0 ≤ a) && decide (a < Reg.HB_EVENT jn 0 + 0x800)) ||
  (List.range 4).any (fun d => (List.range 48).any (fun n =>
    decide (Reg.RF_EVENT d n jn 0 ≤ a) && decide (a < Reg.RF_EVENT d n jn 0 + 0x100)))

/-- The flag, schedule and Tidemark registers of a job (R47, R175, R387). -/
def isJobReg (jn a : Nat) : Bool :=
  a == Reg.HB_FIN_STATE jn || a == Reg.HB_FIN_COUNT jn || a == Reg.HB_FIN_PREV jn || a == Reg.HB_PF_BASE jn ||
  a == Reg.HB_PF_CFG jn || a == Reg.HB_PF_CTRL jn || a == Reg.HB_PF_STATE jn ||
  (decide (Reg.HB_TM_PLAN jn ≤ a) && decide (a < Reg.HB_TM_PLAN jn + 0x40))

/-- Every register of a job back to its reset value (R110, R462). -/
def Mach.wipeJob (m : Mach) (jn : Nat) : Mach := m.rwipe (fun a => inPage jn a || isEventOf jn a || isJobReg jn a)

/-! CREATE and DESTROY (R106 to R110) -/

/-- The reserved bits of word `i` of a job descriptor, as the fields that are not (R106). -/
def jobFields (i : Nat) (en : Bool) : List (Nat × Nat) :=
  if i = 0 then [(0, 16), (16, 2), (18, 1), (24, 8), (32, 32)]
  else if i = 1 then [(17, 35)]
  else if i = 2 ∨ i = 3 then [(0, 64)]
  else if i = 4 ∨ i = 5 then [(12, 40), (0, 5)]
  else if i ≤ 13 then (if en then [(12, 40), (0, 5), (5, 3), (8, 1)] else [])
  else if i = 14 then [(0, 6), (6, 6), (12, 8), (20, 8)]
  else [(12, 40), (60, 4)]

/-- A job with a descriptor, as CREATE opens it: OPEN(0), every ring empty (R109). -/
def freshJob (ws : List Word) : Job :=
  { desc := ws, step := 0, hdrNf := false, nextNf := ⟨0, 0, false⟩, lastSent := false, stepEnds := [], cqSeq := 0, eqSeq := 0,
    overflow := [], cqFullSent := false, eventsLost := 0, batch := 0, failed := false, dying := false, held := [], begun := false, begunNext := false, fetched := false }

/-- Whether two windows of pool units, each a base and size − 1, overlap. -/
def windowsMeet (b1 s1 b2 s2 : Nat) : Bool := decide (b1 ≤ b2 + s2) && decide (b2 ≤ b1 + s1)

/-- The checks of R109 on a descriptor's address and its words, which may read poisoned, in the order of its table. -/
def Mach.createCheck (m : Mach) (desc jn : Nat) (ws : List Word) (bad : Bool) : Option Nat :=
  let j := freshJob ws
  let w14 := wd ws 14
  let lives := m.js.jobs.filterMap Prod.snd
  if desc % 128 ≠ 0 ∨ !inStackOrShelf desc 128 then some 0x0206
  else if bad then some 0x0304
  else if bits (wd ws 15) 60 4 ≠ 1 then some 0x0202
  else if (List.range 16).any (fun i => reservedSet (wd ws i) (jobFields i (j.ringEn (i - 6)))) then some 0x0201
  else if (List.range 8).any (fun r => j.ringEn r && decide (4 < j.ringTarget r)) then some 0x0203
  else if j.weight = 0 ∨ bits (wd ws 4) 0 5 < 6 ∨ 20 < bits (wd ws 4) 0 5 ∨ bits (wd ws 5) 0 5 < 6 ∨ 16 < bits (wd ws 5) 0 5 ∨
      (List.range 8).any (fun r => j.ringEn r &&
        (decide (bits (wd ws (6 + r)) 0 5 < 6) || decide (16 < bits (wd ws (6 + r)) 0 5))) ∨
      !(List.range 8).any (fun r => j.ringEn r) then some 0x0204
  else if m.live jn then some 0x0101
  else if lives.any Job.excl ∨ (j.excl ∧ !lives.isEmpty) then some 0x0103
  else if lives.any (fun k => k.asid == j.asid) then some 0x0702
  else if lives.any (fun k =>
      windowsMeet (bits (wd k.desc 14) 0 6) (bits (wd k.desc 14) 6 6) (bits w14 0 6) (bits w14 6 6) ||
      windowsMeet (bits (wd k.desc 14) 12 8) (bits (wd k.desc 14) 20 8) (bits w14 12 8) (bits w14 20 8)) then some 0x0703
  else if (List.range 8).any (fun r => j.ringEn r && !inStackOrShelf (j.sqBase r) (j.sqSize r * 64)) ∨
      !inStackOrShelf j.cqBase (j.cqSize * 32) ∨ !inStackOrShelf j.eqBase (j.eqSize * 32) ∨
      !inStackOrShelf j.switchBase (48 * 2 ^ 20) ∨ !inStackOrShelf j.root 131072 ∨
      59 < bits w14 0 6 + bits w14 6 6 ∨ 255 < bits w14 12 8 + bits w14 20 8 then some 0x0206
  else none

/-- A job's collectives are numbered from 0 again (R357). -/
def Mach.clFresh (m : Mach) (jn : Nat) : Mach :=
  { m with cl := { m.cl with seq := serase (fun k => k / 2 ^ 57 == jn) m.cl.seq } }

/-- Module actions that a job is held for from its creation on, as it stands at a step boundary (R22, R134). DEDUCED: log entry 20. -/
def Mach.actionsNow (m : Mach) (j : Job) : List Nat :=
  (match m.pw.phase with
   | .waiting _ => [0]
   | .changing _ => [0]
   | _ => []) ++
  (match m.fw.op with
   | some o => if o.reload && j.usesDie o.target then [2 + o.target] else []
   | none => [])

/-- CREATE (R109, R365, R433, R47). -/
def Mach.create (m : Mach) (jn : Nat) : Mach :=
  if m.flag Reg.HB_JOB_STATUS_BUSY then m
  else if !m.harbourRuns then m.logE 0x01 0 0 jn Reg.HB_JOB_CMD
  else
    let desc := m.fget Reg.HB_JOB_ARG_DESC
    let rd := if desc % 128 ≠ 0 ∨ !inStackOrShelf desc 128 then (m, some ([], false)) else m.hubWords 26 desc 16
    match rd.2 with
    | none => rd.1
    | some (ws, bad) =>
      match rd.1.createCheck desc jn ws bad with
      | some st => rd.1.fset Reg.HB_JOB_STATUS_STATUS st
      | none =>
        let m1 := (rd.1.wipeJob jn).setJob jn (some { freshJob ws with held := m.actionsNow (freshJob ws) })
        let m2 := m1.fset (Reg.HB_FIN_STATE_FINITE jn) 1
        let m3 := ((m2.clFresh jn).fset ⟨Reg.HB_JOB_LIVE, jn, 1⟩ 1).fset Reg.HB_JOB_STATUS_STATUS 0
        m3.slackWake (m3.fget Reg.PW_MODE_PREV)

/-- DESTROY stops a job's schedule (R174): it starts no further entry, and those that run end. -/
def Mach.pfHalt (m : Mach) (jn : Nat) : Mach :=
  let m1 := m.fset (Reg.HB_PF_STATE_RUNNING jn) 0
  { m1 with js := { m1.js with pf := m1.js.pf.filter (fun e => e.job != jn) } }

/-- A command leaves every fault record and retry it waits in. -/
def Mach.leaveFaults (m : Mach) (c : Cmd) : Mach :=
  let m1 := m.setRecs (m.xl.recs.map (fun r => { r with waiters := r.waiters.filter (fun w => !w.isCmd c) }))
  { m1 with xl := { m1.xl with retry := m1.xl.retry.filter (fun w => !w.isCmd c) } }

/-- Stop every command of a list with a status (R110): those not started and those switched out complete at once, and so
does a parked STEPEND; a running one ends at its next boundary, once its writes are home. -/
def Mach.cancel (m : Mach) (status : Nat) : List Cmd → Mach
  | [] => m
  | c :: cs =>
    let m1 := m.leaveFaults c
    let m2 := if c.phase = .ended then m
      else if c.phase = .running ∧ !c.parked ∧ c.fault.isNone then m1.putCmd { c with status := some status }
      else m1.retire c status 0 0 false
    m2.cancel status cs

/-- A job is being destroyed (R110): its schedule has stopped, and BUSY shows it. -/
def Mach.dying (m : Mach) (jn : Nat) (j : Job) : Mach :=
  let m1 := ((m.setJob jn (some { j with dying := true })).pfHalt jn).fset Reg.HB_JOB_STATUS_BUSY 1
  { m1 with js := { m1.js with destroying := some jn } }

/-- DESTROY (R110). -/
def Mach.destroy (m : Mach) (jn : Nat) : Mach :=
  if m.flag Reg.HB_JOB_STATUS_BUSY then m
  else if !m.harbourRuns then m.logE 0x01 0 0 jn Reg.HB_JOB_CMD
  else
    match m.job? jn with
    | none => m.fset Reg.HB_JOB_STATUS_STATUS 0x0101
    | some j =>
      (m.dying jn j).cancel 0x0102 (m.js.cmds.filter (fun c => c.job == jn))

/-- What goes with a job (R110, R186): its far-cache lines, events, saved state and registers, its ASID's translations and its
contexts; it is no longer live, and no action waits for it. -/
def Mach.forget (m : Mach) (jn : Nat) (j : Job) : Mach :=
  let m1 := (m.dropFar (fun l => l.job == jn)).invalidate (some j.asid) 0 0 false
  let m2 := (((m1.tmGone jn).wipeJob jn).closeJob jn).setJob jn none
  let m3 := { m2 with
    js := { m2.js with
      destroying := none
      switched := m2.js.switched.filter (fun p => p.1 != jn)
      failTask := m2.js.failTask.filter (fun p => p.1 != jn)
      tasks := serase (fun k => k / 256 == jn) m2.js.tasks
      held := m2.js.held.filter (fun p => p.1 != jn) }
    ik := { m2.ik with
      live := serase (fun k => k / 65536 == jn) m2.ik.live
      hides := serase (fun k => k / 65536 == jn) m2.ik.hides } }
  (((m3.fset ⟨Reg.HB_JOB_LIVE, jn, 1⟩ 0).fset Reg.HB_JOB_STATUS_STATUS 0).fset Reg.HB_JOB_STATUS_BUSY 0).notDue jn |>.tryActions

/-- DESTROY ends once the last record is written (R110). -/
def Mach.destroyDone (m : Mach) (jn : Nat) : Mach :=
  match m.job? jn with
  | none => m
  | some j =>
    if !j.dying || m.js.cmds.any (fun c => c.job == jn) || !j.overflow.isEmpty then m else m.forget jn j

/-- CREATE (R109, R258). -/
def execCreate (a : Agent) (job : Fin 64) (s : State) : Host.Outcome State Fault Refusal :=
  s.act (fun m => m.owned a Reg.HB_JOB_CMD (fun x => x.create job.val))

/-- DESTROY (R110, R258). -/
def execDestroy (a : Agent) (job : Fin 64) (s : State) : Host.Outcome State Fault Refusal :=
  s.act (fun m => m.owned a Reg.HB_JOB_CMD (fun x => x.destroy job.val))

/-- DESTROY_COMPLETE (R110). -/
def execDestroyComplete (job : Fin 64) (s : State) : Host.Outcome State Fault Refusal :=
  s.act (fun m => m.destroyDone job.val)

/-! Rings and doorbells (R124, R125, R462) -/

/-- A write to a doorbell page that R462 ignores. -/
def Mach.doorbellIgnored (m : Mach) (jn addr : Nat) : Mach := m.logE 0x01 0 0 jn addr

/-- Move a submission tail (R125, R462, R433). -/
def Mach.sqTail (m : Mach) (jn r tail : Nat) : Mach :=
  match m.job? jn with
  | none => m.doorbellIgnored jn (Reg.HB_DB_SQ_TAIL jn r)
  | some j =>
    if !j.ringEn r then m.doorbellIgnored jn (Reg.HB_DB_SQ_TAIL jn r)
    else
      let m1 := (m.fset (Reg.HB_DB_SQ_TAIL_TAIL jn r) tail).doorbellWake
      let ahead := (tail + 2 ^ 32 - m.fget (Reg.HB_DB_SQ_HEAD_HEAD jn r)) % 2 ^ 32
      if j.failed then m1
      else if j.sqSize r < ahead then m1.stopRing jn r 0x0208
      else m1

/-- SQ_DOORBELL (R124, R125). -/
def execSqDoorbell (a : Agent) (job : Fin 64) (ring : Fin 8) (tail : BitVec 32) (s : State) :
    Host.Outcome State Fault Refusal :=
  s.act (fun m0 => m0.byAgent a (Reg.HB_DB_SQ_TAIL job.val ring.val) (fun m => m.sqTail job.val ring.val tail.toNat))

/-- A signal by the driver (R117, R462). -/
def Mach.dbEvent (m : Mach) (jn event value : Nat) : Mach :=
  if !m.live jn || decide (224 ≤ event) then m.doorbellIgnored jn (Reg.HB_DB_EVENT jn)
  else (m.signal jn 192 event value).doorbellWake

/-- HB_DB_EVENT (R117, R458). -/
def execHbDbEvent (a : Agent) (job : Fin 64) (event : BitVec 8) (value : BitVec 48) (s : State) :
    Host.Outcome State Fault Refusal :=
  s.act (fun m0 => m0.byAgent a (Reg.HB_DB_EVENT job.val) (fun m => m.dbEvent job.val event.toNat value.toNat))

/-- RESUME of a ring (R142, R461). A tail more than the ring's size ahead stops it again (R125). -/
def Mach.ringResume (m : Mach) (jn r : Nat) : Mach :=
  match m.job? jn with
  | none => m.doorbellIgnored jn (Reg.HB_DB_SQ_HEAD jn r)
  | some j =>
    if !j.ringEn r then m.doorbellIgnored jn (Reg.HB_DB_SQ_HEAD jn r)
    else
      let m1 := m.fset (Reg.HB_DB_SQ_HEAD_STOPPED jn r) 0
      let ahead := (m.fget (Reg.HB_DB_SQ_TAIL_TAIL jn r) + 2 ^ 32 - m.fget (Reg.HB_DB_SQ_HEAD_HEAD jn r)) % 2 ^ 32
      if j.failed then m1
      else if j.sqSize r < ahead then m1.stopRing jn r 0x0208 else m1

/-- RESET of a ring (R125, R142): HEAD meets TAIL, and fetched commands not yet dispatched complete with 0x0102. -/
def Mach.ringReset (m : Mach) (jn r : Nat) : Mach :=
  match m.job? jn with
  | none => m.doorbellIgnored jn (Reg.HB_DB_SQ_HEAD jn r)
  | some j =>
    if !j.ringEn r then m.doorbellIgnored jn (Reg.HB_DB_SQ_HEAD jn r)
    else
      let m1 := (m.fset (Reg.HB_DB_SQ_HEAD_HEAD jn r) (m.fget (Reg.HB_DB_SQ_TAIL_TAIL jn r))).fset
        (Reg.HB_DB_SQ_HEAD_STOPPED jn r) 0
      m1.retireAll 0x0102 (m1.js.cmds.filter (fun c => c.job == jn && c.ring == r && c.phase == .pending))

/-- RING_RESUME (R142, R461). -/
def execRingResume (a : Agent) (job : Fin 64) (ring : Fin 8) (s : State) : Host.Outcome State Fault Refusal :=
  s.act (fun m0 => m0.byAgent a (Reg.HB_DB_SQ_HEAD job.val ring.val) (fun m => m.ringResume job.val ring.val))

/-- RING_RESET (R125, R142). -/
def execRingReset (a : Agent) (job : Fin 64) (ring : Fin 8) (s : State) : Host.Outcome State Fault Refusal :=
  s.act (fun m0 => m0.byAgent a (Reg.HB_DB_SQ_HEAD job.val ring.val) (fun m => m.ringReset job.val ring.val))

/-- Move waiting completion records into the ring while it has space (R130); the list is what waits. -/
def Mach.cqDrain (m : Mach) (jn : Nat) : List (List Word) → Mach
  | [] => m.fset (Reg.HB_DB_CQ_TAIL_HELD jn) 0
  | ws :: rest =>
    match m.job? jn with
    | none => m
    | some j =>
      if m.cqFull jn j then m
      else (m.writeCq jn { j with overflow := rest } ws).cqDrain jn rest

/-- CQ_HEAD_WRITE (R127, R130, R462). -/
def execCqHeadWrite (a : Agent) (job : Fin 64) (head : BitVec 32) (s : State) : Host.Outcome State Fault Refusal :=
  s.act (fun m0 => m0.byAgent a (Reg.HB_DB_CQ_HEAD job.val) (fun m =>
    match m.job? job.val with
    | none => m.doorbellIgnored job.val (Reg.HB_DB_CQ_HEAD job.val)
    | some j =>
      let m1 := (m.fset (Reg.HB_DB_CQ_HEAD_HEAD job.val) head.toNat).setJob job.val (some { j with cqFullSent := false })
      m1.cqDrain job.val j.overflow))

/-- EQ_HEAD_WRITE (R131, R462): one EVENTS_LOST record once space returns. -/
def execEqHeadWrite (a : Agent) (job : Fin 64) (head : BitVec 32) (s : State) : Host.Outcome State Fault Refusal :=
  s.act (fun m0 => m0.byAgent a (Reg.HB_DB_EQ_HEAD job.val) (fun m =>
    match m.job? job.val with
    | none => m.doorbellIgnored job.val (Reg.HB_DB_EQ_HEAD job.val)
    | some j =>
      let m1 := m.fset (Reg.HB_DB_EQ_HEAD_HEAD job.val) head.toNat
      if j.eventsLost = 0 ∨ m1.eqFull job.val j then m1
      else (m1.setJob job.val (some { j with eventsLost := 0 })).postEvent job.val 0x07 0 0 0 0 j.eventsLost))

/-- CQ_BATCH_TIMEOUT (R125): a partial batch interrupts. -/
def execCqBatchTimeout (job : Fin 64) (s : State) : Host.Outcome State Fault Refusal :=
  s.act (fun m =>
    match m.job? job.val with
    | none => m
    | some j =>
      if j.batch = 0 ∨ !m.flag (Reg.HB_DB_IRQ_CQ_EN job.val) then m
      else (m.setJob job.val (some { j with batch := 0 })).raise job.val)

/-! Fetch (R111, R112, R460, R461) -/

/-- Slots of each engine's body (R111); none where the header alone does not tell. -/
def bodySlots (eng : Nat) : Nat → Option (List Nat)
  | _ => if eng = 0 then some [1] else if eng = 1 ∨ eng = 2 ∨ eng = 4 then some [2] else if eng = 3 then some [2, 5]
    else if eng = 5 then some [3] else if eng = 6 then some [2] else none

/-- The engines a ring's target has: a Reef core's five, or Harbour's sequencer, collective engine and Intake. -/
def targetHas (target eng : Nat) : Bool :=
  if target = 4 then eng = 0 || eng = 5 || eng = 6 else eng ≤ 4

/-- Fields of header word `i` that are not reserved (R111). -/
def hdrFields (i : Nat) : List (Nat × Nat) :=
  if i = 0 then [(0, 4), (4, 6), (10, 4), (14, 6), (20, 2), (22, 1), (23, 1)]
  else if i = 1 then [(0, 48)]
  else if i = 2 ∨ i = 3 ∨ i = 4 then [(0, 8), (8, 1), (16, 48)]
  else if i = 5 then [(0, 64)]
  else if i = 7 then [(60, 4)]
  else []

/-- The checks of R112 on a header, in the order of its table; `left` is how many slots remain to the ring's end. The COND of a
STEPEND is not consulted (R46), not even for its code. A core-local event on a Harbour ring (R117) is refused here, after the engine and
before the length, with no signal; a vector body's kind is taken from its first word even where that slot reads poisoned (R461). DESIGN
CHOICE: log entry 19. -/
def headerCheck (jn target left : Nat) (hdr body0 : List Word) : Option Nat :=
  let w0 := wd hdr 0
  let eng := bits w0 0 4
  let slots := bits w0 10 4
  if bits (wd hdr 7) 60 4 ≠ 1 then some 0x0202
  else if (List.range 8).any (fun i => reservedSet (wd hdr i) (hdrFields i)) then some 0x0201
  else if 6 < eng then some 0x0203
  else if bits w0 20 2 = 3 ∧ !(eng = 0 ∧ bits (wd body0 0) 0 8 = 4) then some 0x0203
  else if bits w0 14 6 ≠ jn then some 0x0208
  else if 47 < bits w0 4 6 ∨ (target = 4 ∧ bits w0 4 6 ≠ 0) then some 0x0208
  else if !targetHas target eng then some 0x0208
  else if target = 4 ∧ ((bits (wd hdr 2) 8 1 = 1 ∧ 224 ≤ bits (wd hdr 2) 0 8) ∨ (bits (wd hdr 3) 8 1 = 1 ∧ 224 ≤ bits (wd hdr 3) 0 8) ∨
      (bits (wd hdr 4) 8 1 = 1 ∧ 224 ≤ bits (wd hdr 4) 0 8)) then some 0x0208
  else
    let want := if eng = 3 then (if bits (wd body0 0) 0 2 = 0 then [5] else if bits (wd body0 0) 0 2 = 1 then [2] else [2, 5])
      else (bodySlots eng 0).getD []
    if !want.contains slots then some 0x0209
    else if left < 1 + slots then some 0x0209
    else none

/-- Commands a fetch buffer holds, from delivery to dispatch (R460). -/
def Mach.bufferUsed (m : Mach) (tgt : Nat) : Nat := (m.js.cmds.filter (fun c => c.tgt == tgt && c.phase == .pending)).length

/-- A command as it is delivered to a fetch buffer. -/
def newCmd (id jn r pos tgt eng : Nat) (hdr body : List Word) : Cmd :=
  { id := id, job := jn, ring := r, slot := pos, tgt := tgt, eng := eng, hdr := hdr, body := body
    phase := .pending, qn := 0, prog := 0, rep := 0, row := 0, nf := 0, status := none, va := 0, aux := 0, skipped := false
    task := 0, fault := none, stored := false, vregs := [], saved := [], run := [], held := [] }

/-- A ring's HEAD moves past a command or padding. -/
def Mach.ringPast (m : Mach) (jn r head n : Nat) : Mach := m.fset (Reg.HB_DB_SQ_HEAD_HEAD jn r) (head + n)

/-- A command takes its fetch number. -/
def Mach.numbered (m : Mach) (jn : Nat) : Mach :=
  { m with js := { m.js with
    nextId := m.js.nextId + 1
    jobs := sset none jn ((m.job? jn).map (fun (b : Job) => { b with fetched := true })) m.js.jobs } }

/-- Harbour accepts a command of `len` slots from a ring: it takes its number, HEAD moves past it, and the ring is held no
more. -/
def Mach.accept (m : Mach) (jn r head len : Nat) : Mach :=
  let m1 := (m.numbered jn).ringPast jn r head len
  { m1 with js := { m1.js with held := m1.js.held.filter (fun p => decide (p ≠ (jn, r))) } }

/-- A command enters its core's fetch buffer (R460): a FENCE ends its task (R143), and a STEPEND is recorded as the one of its step on
its ring, if it is the first (R116). -/
def Mach.takeIn (m : Mach) (c : Cmd) : Mach :=
  let m1 := m.setCmds (m.js.cmds ++ [c])
  let m2 := if c.isFence then { m1 with js := { m1.js with
    tasks := sset 0 (c.job * 256 + c.tgt) (c.task + 1) m1.js.tasks
    failTask := m1.js.failTask.filter (fun p => !(p.1 == c.job && p.2.1 == c.tgt)) } } else m1
  match m2.job? c.job with
  | none => m2
  | some j =>
    if c.isStepend ∧ !j.stepEnds.any (fun p => p.1 == c.ring && p.2.1 == c.step) then
      m2.setJob c.job (some { j with stepEnds := (c.ring, c.step, c.id) :: j.stepEnds })
    else m2

/-- The status that a command about to be fetched takes from its task's failure, or from its held sequencer (R143, R361). -/
def Mach.taskFails (m : Mach) (c : Cmd) : Option Nat :=
  if c.isStepend then none
  else if decide (c.tgt < 192) && m.compHeld (3 + c.tgt) then some 0x0F01
  else (m.js.failTask.find? (fun p => p.1 == c.job && p.2.1 == c.tgt && p.2.2.1 == c.task)).map (fun p => p.2.2.2)

/-- Harbour takes the command whose header words and body words it has read, of `len` slots; `bad` tells that the body reads poisoned
(R112, R143, R460). -/
def Mach.take (m : Mach) (j : Job) (jn r head len : Nat) (hdr body : List Word) (bad : Bool) : Mach :=
  let size := j.sqSize r
  let pos := head % size
  let target := j.ringTarget r
  let tgt := if target = 4 then 192 else target * 48 + bits (wd hdr 0) 4 6
  let c := { newCmd m.js.nextId jn r pos tgt (bits (wd hdr 0) 0 4) hdr body with task := m.taskNow jn tgt }
  let quiet := { c with hdr := hdr.set 4 0 }
  match headerCheck jn target (size - pos) hdr body with
  | some st => ((m.numbered jn).ringPast jn r head len).retire quiet st 0 0 false
  | none =>
    if target < 4 ∧ m.fget (Reg.HB_DIE_STATE_STATE target) ≠ dieInService then ((m.accept jn r head len).takeIn c).failJob jn r c.core
    else if bad then ((m.numbered jn).ringPast jn r head len).retire quiet 0x0304 0 0 false
    else if 64 ≤ m.bufferUsed tgt then
      { m with js := { m.js with held := (jn, r) :: m.js.held.filter (fun p => decide (p ≠ (jn, r))) } }
    else
      let m1 := m.accept jn r head len
      match m1.taskFails c with
      | some st => (m1.takeIn c).retire c st 0 0 false
      | none => m1.takeIn c

/-- Harbour reads a ring's next command through the home, and takes it once the tail covers it (R111, R124, R142, R461). -/
def Mach.fetch (m : Mach) (jn r : Nat) : Mach :=
  match m.job? jn with
  | none => m
  | some j =>
    let head := m.fget (Reg.HB_DB_SQ_HEAD_HEAD jn r)
    let avail := (m.fget (Reg.HB_DB_SQ_TAIL_TAIL jn r) + 2 ^ 32 - head) % 2 ^ 32
    let size := j.sqSize r
    let pos := head % size
    let left := size - pos
    if !j.ringEn r || m.flag (Reg.HB_DB_SQ_HEAD_STOPPED jn r) || j.failed || j.dying || avail == 0 then m
    else
      let h := m.hubWords 26 (j.sqBase r + pos * 64) 8
      match h.2 with
      | none => h.1
      | some (hdr, hbad) =>
        let len := min (1 + bits (wd hdr 0) 10 4) left
        if hbad then h.1.stopRing jn r 0x0304
        else if bits (wd hdr 0) 0 4 = 15 then (if left ≤ avail then h.1.ringPast jn r head left else h.1)
        else if avail < len then h.1
        else
          let b := h.1.hubWords 26 (j.sqBase r + (pos + 1) % size * 64) (8 * (len - 1))
          match b.2 with
          | none => b.1
          | some (body, bad) => b.1.take j jn r head len hdr body bad

/-- COMMAND_FETCH (R112, R460). -/
def execCommandFetch (job : Fin 64) (ring : Fin 8) (s : State) : Host.Outcome State Fault Refusal :=
  s.act (fun m => m.fetch job.val ring.val)

/-! Dispatch (R104, R105, R132) -/

/-- What a FENCE waits for (R114): earlier commands of its ring on its core, or with ALL every earlier command of the job
there. -/
def Mach.fenceOk (m : Mach) (c : Cmd) : Bool :=
  let all := bits (wd c.body 0) 9 1 == 1
  !m.js.cmds.any (fun k => k.job == c.job && k.tgt == c.tgt && decide (k.id < c.id) && (all || k.ring == c.ring) && !k.parked)

/-- Whether a pending command may be dispatched (R104, R105, R114, R130, R134, R137, R365). -/
def Mach.dispatchable (m : Mach) (c : Cmd) : Bool :=
  match m.job? c.job with
  | none => false
  | some j =>
    c.phase == .pending &&
    !m.js.cmds.any (fun k => k.job == c.job && k.ring == c.ring && k.tgt == c.tgt && decide (k.id < c.id) &&
      (k.phase == .pending || (k.isFence && k.phase != .ended))) &&
    m.waitOk c 2 && m.waitOk c 3 && (!c.isFence || m.fenceOk c) &&
    (8 ≤ c.ring || !m.flag (Reg.HB_DB_SQ_HEAD_STOPPED c.job c.ring)) &&
    !m.js.switched.contains (c.job, c.tgt) && (j.held.isEmpty || j.excl) && decide (j.overflow.length < 64) && !j.dying &&
    (m.harbourRuns || !(c.eng == 5 || c.eng == 6)) &&
    m.fget Reg.PW_MODE_MODE != 3 && !(decide (c.tgt < 192) && m.compDown (3 + c.tgt))

/-- The commands that hold an entry of a queue: from dispatch until completion (R104). -/
def Mach.entries (m : Mach) (tgt eng : Nat) : List Cmd :=
  m.js.cmds.filter (fun c => c.tgt == tgt && c.eng == eng && c.qn != 0)

/-- The first dispatchable command of a job for a queue, in fetch order. DEDUCED: log entry 17. -/
def Mach.candidate (m : Mach) (tgt eng jn : Nat) : Option Cmd :=
  m.js.cmds.find? (fun c => c.job == jn && c.tgt == tgt && c.eng == eng && m.dispatchable c)

/-- The jobs that wait for a queue and that its caps allow (R132). -/
def Mach.waitingJobs (m : Mach) (tgt eng : Nat) : List Nat :=
  let ready := m.liveJobs.filter (fun jn => (m.candidate tgt eng jn).isSome)
  ready.filter (fun jn =>
    let mine := ((m.entries tgt eng).filter (fun c => c.job == jn)).length
    let excl := match m.job? jn with
      | some j => j.excl
      | none => false
    excl || ready.length ≤ 1 || decide (mine < 24))

def Mach.prioOf (m : Mach) (jn : Nat) : Nat := match m.job? jn with
  | some j => j.prio
  | none => 0

/-- The highest class among jobs. -/
def Mach.topPrio (m : Mach) (js : List Nat) : Nat := js.foldl (fun a jn => max a (m.prioOf jn)) 0

/-- The next job in turn within a class: the present one while its turn lasts, else the next number after it in cyclic
order (R132). -/
def Mach.turn (m : Mach) (rr : Rr) (cls : Nat) (js : List Nat) : Option Nat :=
  let at_ := (sget none cls rr.turns).getD (0, 0)
  let w := match m.job? at_.1 with
    | some j => j.weight
    | none => 0
  if js.contains at_.1 ∧ at_.2 < w then some at_.1
  else
    match js.find? (fun jn => decide (at_.1 < jn)) with
    | some jn => some jn
    | none => js.head?

/-- A choice among waiting jobs (R132): of the highest class, but every sixteenth of the highest lower class that waits. -/
def Mach.chooseOf (m : Mach) (rr : Rr) (js : List Nat) : Option Nat :=
  let top := m.topPrio js
  let lower := js.filter (fun jn => decide (m.prioOf jn < top))
  let t := if (rr.count + 1) % 16 = 0 ∧ !lower.isEmpty then m.topPrio lower else top
  m.turn rr t (js.filter (fun jn => m.prioOf jn == t))

/-- A sequencer's choice for one of its queues (R132). -/
def Mach.choose (m : Mach) (tgt eng : Nat) (rr : Rr) : Option Nat := m.chooseOf rr (m.waitingJobs tgt eng)

/-- The round-robin state after a job of a class has been chosen: its class's turn is its, and each other class keeps its own. -/
def Mach.chosen (m : Mach) (rr : Rr) (cls jn : Nat) : Rr :=
  let at_ := (sget none cls rr.turns).getD (0, 0)
  let w := match m.job? jn with
    | some j => j.weight
    | none => 0
  ⟨rr.count + 1, sset none cls (some (jn, if at_.1 = jn ∧ at_.2 < w then at_.2 + 1 else 1)) rr.turns⟩

/-- A step of a job begins with its first command on an engine or in the collective engine (R22). -/
def Mach.stepBegins (m : Mach) (c : Cmd) : Mach :=
  match m.job? c.job with
  | none => m
  | some j =>
    if c.eng = 0 ∨ 5 < c.eng then m
    else if c.step = j.step then m.setJob c.job (some { j with begun := true })
    else m.setJob c.job (some { j with begunNext := true })

/-- A command takes a place in its engine queue, and the turn of its job moves on (R104, R132). -/
def Mach.enqueue (m : Mach) (tgt eng jn : Nat) (c : Cmd) : Mach :=
  let rr := (sget none (tgt * 8 + eng) m.js.rr).getD ⟨0, []⟩
  let m0 := (m.stepBegins c).putCmd { c with phase := .queued, qn := m.js.nextQn }
  let m1 := if eng = 5 then m0.clCount else m0
  { m1 with js := { m1.js with nextQn := m1.js.nextQn + 1, rr := sset none (tgt * 8 + eng) (some (m.chosen rr (m.prioOf jn) jn)) m1.js.rr } }

/-- Place a command in its engine queue (R104). -/
def Mach.dispatch (m : Mach) (tgt eng : Nat) : Mach :=
  if 32 ≤ (m.entries tgt eng).length then m
  else
    match m.choose tgt eng ((sget none (tgt * 8 + eng) m.js.rr).getD ⟨0, []⟩) with
    | none => m
    | some jn =>
      match m.candidate tgt eng jn with
      | none => m
      | some c => m.enqueue tgt eng jn c

/-- COMMAND_DISPATCH (R104, R132). -/
def execCommandDispatch (t : Seq) (e : Engine) (s : State) : Host.Outcome State Fault Refusal :=
  s.act (fun m => m.dispatch t.tgt e.code)

/-! Completion, switch-out, limits -/

/-- What an engine adds to its own state when one of its commands completes (R101): a command counts once it has run to its end; one that
ends at its queue head without running, or by a fault limit or a cancel, is not counted. DESIGN CHOICE: log entry 66. -/
def Mach.countDone (m : Mach) (c : Cmd) : Mach :=
  if c.eng = 3 ∧ c.tgt < 192 then
    (if bits (wd c.body 0) 0 2 = 1 then m.fadd (Reg.RF_VX_CMDS_PROGRAMS (c.tgt / 48) (c.tgt % 48)) 1
     else m.fadd (Reg.RF_VX_CMDS_CHAINS (c.tgt / 48) (c.tgt % 48)) 1)
  else m

/-- Whether a FLUSH that met a poisoned line has yet to process the rest of its range (R115). -/
def Cmd.flushing (c : Cmd) : Bool := c.eng == 0 && c.seqOp == 3 && c.status == some 0x0304 && decide (c.prog < bits (wd c.body 2) 0 31)

/-- A running command whose work has ended completes once its writes have reached their homes (R128, R140). -/
def Mach.commandDone (m : Mach) (c : Cmd) : Mach :=
  match c.status with
  | none => m
  | some st => if sget 0 c.id m.js.outst ≠ 0 ∨ c.flushing then m else (m.countDone c).finish c st 0 c.va c.skipped

/-- COMMAND_COMPLETE (R140). The collective engine and Intake run several commands of a queue at once. -/
def execCommandComplete (t : Seq) (e : Engine) (s : State) : Host.Outcome State Fault Refusal :=
  s.act (fun m =>
    if t = .harbour ∧ e ≠ .sequencer then
      match m.js.cmds.find? (fun c => c.tgt == 192 && c.eng == e.code && c.phase == .running && c.status.isSome &&
          !m.waitsTurn c) with
      | some c => m.commandDone c
      | none => m
    else
      match m.running t.tgt e.code with
      | some c => m.commandDone c
      | none => m)

/-- The STATUS of a SWITCH_OUT record: the translation detail of the fault, for which the manual names no code; one of the
translation class (R131, R145). DESIGN CHOICE: log entry 19. -/
def Mach.faultDetail (m : Mach) (f : CmdFault) : Mach × Nat :=
  let k := m.fresh
  (k.2, 0x0401 + (Config.openWord (if f.mig then 10 else 9) k.1).toNat % 6)

/-- A resolvable fault's report stops an engine (R137): the job is switched out on the core, its commands there that have
not started go back to the fetch buffer, and SWITCH_OUT is written. DESIGN CHOICE: log entry 19. -/
def Mach.switchOut (m : Mach) (c : Cmd) : Mach :=
  match c.fault with
  | none => m
  | some f =>
    let m1 := (m.putCmd { m.shown c with phase := .switched }).engineNext c.tgt c.eng
    let m2 := { m1 with js := { m1.js with
      switched := if m1.js.switched.contains (c.job, c.tgt) then m1.js.switched else (c.job, c.tgt) :: m1.js.switched
      cmds := m1.js.cmds.map (fun (k : Cmd) =>
        if k.job = c.job ∧ k.tgt = c.tgt ∧ k.phase = Phase.queued then { k with phase := Phase.pending, qn := 0 } else k) } }
    let d := m2.faultDetail f
    d.1.postEvent c.job 0x03 d.2 c.ring c.core f.va 0

/-- SWITCH_OUT (R137). -/
def execSwitchOut (c : CoreId) (e : Engine) (s : State) : Host.Outcome State Fault Refusal :=
  s.act (fun m =>
    match m.running c.flat e.code with
    | some k => if k.fault.isSome && k.status.isNone then m.switchOut k else m
    | none => m)

/-- FAULT_LIMIT_EXPIRY (R139, R189): the command named of an engine whose fault stands, in fetch order, leaves its record and completes
with 0x0405. -/
def execFaultLimitExpiry (t : Seq) (w : FaultedWork) (s : State) : Host.Outcome State Fault Refusal :=
  s.act (fun m =>
    match (m.js.cmds.filter (fun k => k.tgt == t.tgt && k.eng == w.engine.code && k.fault.isSome && k.phase != .ended))[w.nth.val]? with
    | some k =>
      let va := match k.fault with
        | some f => f.va
        | none => 0
      (m.leaveFaults k).endFaulted k 0x0405 va
    | none => m)

/-- Whether a LAST collective is held for the boundary of its job's step (R144, R359). -/
def Mach.clHeld (m : Mach) (c : Cmd) : Bool :=
  m.cl.runs.any (fun r => r.id == c.id && r.stage == 1) && bits (wd c.body 0) 24 1 == 1 &&
    (match m.job? c.job with
     | some j => decide (c.step ≠ j.step)
     | none => false)

/-- The commands that the watchdog times (R144): the engine's running one, in Harbour those that still work. -/
def Mach.timed (m : Mach) (tgt eng : Nat) : List Cmd :=
  if tgt = 192 then
    m.js.cmds.filter (fun c => c.tgt == 192 && c.eng == eng && c.phase == .running && c.status.isNone && !m.clHeld c)
  else ((m.running tgt eng).filter (fun c => c.status.isNone)).toList

/-- WATCHDOG_EXPIRY (R144): the command named that an engine's watchdog times, in fetch order, stops at its next boundary and completes with 0x0F03,
counting nothing further. What it has not written stays as it was, and ADDR of the log record is 0. DESIGN CHOICE: log entry 19. -/
def execWatchdogExpiry (t : Seq) (w : TimedWork) (s : State) : Host.Outcome State Fault Refusal :=
  s.act (fun m =>
    if w.engine = .sequencer then m
    else
      match (m.timed t.tgt w.engine.code)[w.nth.val]? with
      | some c => (m.putCmd { c with status := some 0x0F03 }).logE 0x1A 0x0F03 w.engine.code c.job 0
      | none => m)

/-! The step boundary (R22, R47, R116, R134) -/

/-- Move the flag of a job to its next step (R47). -/
def Mach.flagBoundary (m : Mach) (jn : Nat) (j : Job) : Mach :=
  let final := m.flag (Reg.HB_FIN_STATE_FINAL jn)
  let fin := if final then m.fget (Reg.HB_FIN_STATE_FINITE jn) else 0
  let prev := m.fget (Reg.HB_FIN_STATE_STEP jn) + 2 ^ 32 + fin * 2 ^ 33 + (if final then 2 ^ 34 else 0)
  let m1 := m.rset (Reg.HB_FIN_PREV jn) (BitVec.ofNat 64 prev)
  let m2 := m1.rset (Reg.HB_FIN_COUNT jn) (BitVec.ofNat 64 (j.nextNf.grad + j.nextNf.loss * 2 ^ 32))
  let lnf := if j.nextNf.grad + j.nextNf.loss = 0 then 0 else 2 ^ 34
  m2.rset (Reg.HB_FIN_STATE jn) (BitVec.ofNat 64 ((j.step + 1) % 2 ^ 32 + 2 ^ 33 + lnf))

/-- Whether the boundary of a job's step falls (R116): every enabled ring has fetched its STEPEND for it, and no other
command of the step is left. -/
def Mach.atBoundary (m : Mach) (jn : Nat) (j : Job) : Bool :=
  (List.range 8).all (fun r => !j.ringEn r || j.stepEnds.any (fun p => p.1 == r && p.2.1 == j.step)) &&
  !m.js.cmds.any (fun c => c.job == jn && c.step == j.step && !c.isStepend)

/-- The STEPENDs of a step of a job. -/
def Mach.stependsOf (m : Mach) (jn step : Nat) : List Cmd :=
  m.js.cmds.filter (fun c => c.job == jn && c.isStepend && c.step == step)

/-- Cross a job's step boundary: the flag moves on, every STEPEND of the step completes with `status`, and the step
number rises; a second one of its ring, which no queue has yet met, completes with 0x0101 (R141). -/
def Mach.crossBoundary (m : Mach) (jn : Nat) (j : Job) (status : Nat) : Mach :=
  let m1 := (m.flagBoundary jn j).setJob jn (some { j with
    begun := j.begunNext, begunNext := false, step := j.step + 1, hdrNf := j.nextNf.hdr, nextNf := ⟨0, 0, false⟩, lastSent := false
    stepEnds := j.stepEnds.filter (fun p => p.2.1 != j.step) })
  (m1.stependsOf jn j.step).foldl (fun (a : Mach) (c : Cmd) =>
    if j.stepEnds.any (fun p => p.1 == c.ring && p.2.1 == c.step && decide (p.2.2 < c.id)) then a.finish c 0x0101 5 0 false
    else a.finish c status 0 0 false) m1

end Sys2Proof.Machine
end

