-- ==== Sys2Proof/Machine/Intake.lean ====
section
/-!
DEFINITION. Intake (R284 to R304): its commands, sample checks, the sharing of the units, late samples and substitution, the
picture path, token rows, the journal and replay.
-/

namespace Sys2Proof.Machine

def Mach.setIk (m : Mach) (k : IkSt) : Mach := { m with ik := k }

/-! The command body (R286) -/

/-- A field of word `w` of a body. -/
def Cmd.bf (c : Cmd) (w lo n : Nat) : Nat := bits (wd c.body w) lo n

def Cmd.ikKind (c : Cmd) : Nat := c.bf 0 0 2
def Cmd.ikClass (c : Cmd) : Nat := c.bf 0 2 2
def Cmd.ikReplay (c : Cmd) : Bool := c.bf 0 4 1 == 1
def Cmd.ikFit (c : Cmd) : Bool := c.bf 0 5 1 == 0
def Cmd.ikTok (c : Cmd) : Nat := if c.bf 0 6 1 = 1 then 4 else 2
def Cmd.ikStream (c : Cmd) : Nat := c.bf 0 16 16
def Cmd.ikSlots (c : Cmd) : Nat := c.bf 2 24 24
def Cmd.ikN (c : Cmd) : Nat := c.bf 2 0 24
def Cmd.ikOut (c : Cmd) : Nat := c.bf 5 0 57
def Cmd.ikMarks (c : Cmd) : Nat := c.bf 6 0 57
def Cmd.ikState (c : Cmd) : Nat := c.bf 8 0 57
def Cmd.ikJournal (c : Cmd) : Nat := c.bf 11 0 57
def Cmd.ikRow (c : Cmd) : Nat := c.bf 12 24 24

/-- Fields of body word `i` (R286). -/
def ikFields (i : Nat) : List (Nat × Nat) :=
  if i = 0 then [(0, 2), (2, 2), (4, 1), (5, 1), (6, 1), (8, 8), (16, 16)]
  else if i = 2 ∨ i = 12 then [(0, 24), (24, 24)]
  else if i = 4 then [(0, 24)]
  else if i = 10 then [(0, 40)]
  else if i = 13 then [(0, 32)]
  else if i = 14 then [(0, 64)]
  else if i = 15 then [(0, 16), (60, 4)]
  else [(0, 57)]

/-- Fields of the body that a KIND does not use, as word, lowest bit and width: they hold zero (R9, R145). -/
def ikUnused (kind : Nat) : List (Nat × Nat × Nat) :=
  if kind = 0 then [(0, 5, 1), (0, 6, 1), (12, 24, 24), (13, 0, 32)] else [(7, 0, 57)]

/-- Fields of transform word `i` (R293). -/
def xformFields (i : Nat) : List (Nat × Nat) :=
  if i = 0 then [(0, 16), (16, 16), (32, 2), (34, 1), (35, 1), (36, 2), (40, 12), (52, 8)]
  else if i = 1 then [(0, 64)]
  else if i ≤ 9 then [(0, 4), (16, 16), (32, 16), (48, 16)]
  else if i = 15 then [(60, 4)]
  else []

/-- The transform's fields. -/
def xOw (x : List Word) : Nat := bits (wd x 0) 0 16
def xOh (x : List Word) : Nat := bits (wd x 0) 16 16
def xBytes (x : List Word) : Nat := if bits (wd x 0) 36 2 = 1 then 2 else 1
def xNout (x : List Word) : Nat := bits (wd x 0) 40 12
def xStride (x : List Word) : Nat := bits (wd x 0) 52 8
/-- Bytes of an output frame, and of a slot (R294). -/
def frameBytes (x : List Word) : Nat := xOw x * xOh x * 3 * xBytes x
def slotBytes (x : List Word) : Nat := xNout x * frameBytes x

/-- Whether per-command limits stand at or below their registers (R287). -/
def Mach.ikLimitsOk (m : Mach) (c : Cmd) : Bool :=
  decide (c.bf 14 0 16 ≤ m.fget Reg.IK_LIMIT_WMAX) && decide (c.bf 14 16 16 ≤ m.fget Reg.IK_LIMIT_HMAX) &&
  decide (c.bf 14 32 16 ≤ m.fget Reg.IK_LIMIT_FMAX) && decide (c.bf 14 48 16 ≤ m.fget Reg.IK_LIMIT_RMAX) &&
  decide (c.bf 15 0 16 ≤ m.fget Reg.IK_LIMIT2_DMAX)

/-- The checks of the body alone (R287). -/
def Mach.ikBodyCheck (m : Mach) (c : Cmd) : Option Nat :=
  if c.bf 15 60 4 ≠ 1 then some 0x0202
  else if (List.range 16).any (fun i => reservedSet (wd c.body i) (ikFields i)) then some 0x0201
  else if 2 ≤ c.ikKind then some 0x0203
  else if (ikUnused c.ikKind).any (fun f => c.bf f.1 f.2.1 f.2.2 != 0) then some 0x0201
  else if c.ikSlots = 0 ∨ c.ikN = 0 ∨ (c.ikKind = 1 ∧ c.ikRow = 0) then some 0x0204
  else if c.bf 12 0 24 < (if c.ikKind = 0 then c.ikSlots else c.ikN) then some 0x0204
  else if !m.ikLimitsOk c then some 0x0204
  else if c.bf 10 0 40 % 65536 ≠ 0 then some 0x0204
  else if c.bf 1 0 57 % 32 ≠ 0 ∨ c.bf 3 0 57 % 32 ≠ 0 ∨ (c.ikKind = 0 ∧ c.bf 7 0 57 % 128 ≠ 0) ∨ c.ikState % 64 ≠ 0 ∨
      c.bf 9 0 57 % 65536 ≠ 0 ∨ c.ikJournal % 32 ≠ 0 then some 0x0206
  else none

/-- The checks of a transform descriptor (R287, R293). -/
def xformCheck (x : List Word) : Option Nat :=
  if bits (wd x 15) 60 4 ≠ 1 then some 0x0202
  else if (List.range 16).any (fun i => reservedSet (wd x i) (xformFields i)) then some 0x0201
  else if 2 ≤ bits (wd x 0) 36 2 ∨ (List.range 8).any (fun o => decide (4 < bits (wd x (2 + o)) 0 4)) then some 0x0203
  else if xOw x = 0 ∨ xOh x = 0 ∨ xNout x = 0 ∨ xStride x = 0 then some 0x0204
  else none

/-- Bytes of OUT and of MARKS (R294, R296). -/
def Cmd.outLen (c : Cmd) (x : List Word) : Nat := if c.ikKind = 0 then c.ikSlots * slotBytes x else c.ikSlots * c.ikRow * 4
def Cmd.marksLen (c : Cmd) (x : List Word) : Nat := if c.ikKind = 0 then c.ikSlots * xNout x else c.ikSlots * c.ikRow * 4

/-- The ranges of R287's overlap rule: address, length, whether the command writes it. -/
def Cmd.ikRanges (c : Cmd) (x : List Word) : List (Nat × Nat × Bool) :=
  [(c.ikOut, c.outLen x, true), (c.ikMarks, c.marksLen x, true), (c.bf 9 0 57, c.bf 10 0 40, true),
   (c.ikJournal, c.bf 12 0 24 * 32, true), (c.ikState, 64, true), (c.bf 1 0 57, c.ikN * 32, false),
   (c.bf 3 0 57, c.bf 4 0 24 * 32, false)]

/-- Whether two ranges of some length, one of them written, overlap. DEDUCED: log entry 22. -/
def rangesMeet (a b : Nat × Nat × Bool) : Bool :=
  (a.2.2 || b.2.2) && a.2.1 != 0 && b.2.1 != 0 && decide (a.1 < b.1 + b.2.1) && decide (b.1 < a.1 + a.2.1)

/-- Whether some pair of a list of ranges meets. -/
def pairMeets : List (Nat × Nat × Bool) → Bool
  | [] => false
  | r :: rs => rs.any (rangesMeet r) || pairMeets rs

/-! Attempts by virtual address at position 23 -/

/-- How an attempt of Intake went: its result, or an end with a status and an address; `none` waits. -/
def Mach.ikTry {α : Type} (jn : Nat) (r : Mach × Except XStop α) : Mach × Except (Option (Nat × Nat)) α :=
  match r.2 with
  | .ok a => (r.1, .ok a)
  | .error x =>
    let va := match x with
      | .status _ v => v
      | .fault v _ _ => v
      | .wait | .landward _ => 0
    let q := r.1.agentStop 23 jn x
    (q.1, .error (q.2.map (fun st => (st, va))))

def Mach.ikRead (m : Mach) (j : Job) (jn va n : Nat) : Mach × Except (Option (Nat × Nat)) (List Byte) :=
  if n = 0 then (m, .ok []) else Mach.ikTry jn (m.agentRead 23 j va n)

def Mach.ikWrite (m : Mach) (j : Job) (jn cmd va : Nat) (bs : List Byte) : Mach × Except (Option (Nat × Nat)) Unit :=
  if bs.isEmpty then (m, .ok ()) else Mach.ikTry jn (m.agentWrite j (some cmd) va bs)

/-- Whether ranges lie wholly in Stack or Shelf: an end with 0x0206 where one does not (R287). -/
def Mach.ikTier (m : Mach) (j : Job) (jn : Nat) : List (Nat × Nat) → Mach × Except (Option (Nat × Nat)) Unit
  | [] => (m, .ok ())
  | (va, n) :: rest =>
    let t := Mach.ikTry jn (m.agentRange j va n .write)
    match t.2 with
    | .error e => (t.1, .error e)
    | .ok ps =>
      if ps.all (fun p => inStackOrShelf p.pa p.len) then t.1.ikTier j jn rest else (t.1, .error (some (0x0206, 0)))

/-! Starting a command (R287, R288, R297, R301) -/

/-- The next Intake command that may start: queued, in queue order, none before it of its job and stream, at most eight
running. -/
def Mach.ikNext (m : Mach) : Option Cmd :=
  let mine := m.js.cmds.filter (fun c => c.tgt == 192 && c.eng == 6)
  if 8 ≤ (mine.filter (fun c => c.phase == .running)).length then none
  else firstQ (mine.filter (fun c => c.phase == .queued &&
    !mine.any (fun k => k.job == c.job && k.ikStream == c.ikStream &&
      (k.phase == .running || (k.phase == .queued && decide (k.qn < c.qn))))))

/-- A sample not yet begun. -/
def newSample (rsv : Bool) (idx : Nat) (entry : List Word) : IkSample :=
  ⟨rsv, idx, .waiting, none, 0, 0, entry, [], 0, 0, 0, false, [], 0, 0⟩

/-- Entry `i` of a table read as words. -/
def tabEntry (ws : List Word) (i : Nat) : List Word := (ws.drop (4 * i)).take 4

/-- The journal records that a replay reads, checked (R301). -/
def replayCheck (c : Cmd) : Option Nat → List (List Word) → Option Nat
  | _, [] => none
  | last, r :: rs =>
    let slot := bits (wd r 0) 16 24
    let rx := bits (wd r 3) 0 48
    let below := match last with
      | some l => decide (slot ≤ l)
      | none => false
    if bits (wd r 3) 60 4 ≠ 1 then some 0x0202
    else if bits (wd r 0) 56 8 ≠ 0 ∨ bits (wd r 1) 48 16 ≠ 0 ∨ bits (wd r 3) 48 12 ≠ 0 then some 0x0201
    else if bits (wd r 0) 40 16 != c.ikStream || bits (wd r 1) 0 48 != c.step || below ||
        (decide (c.bf 4 0 24 ≤ rx) && rx != 0xFFFFFFFFFFFF) then some 0x0206
    else replayCheck c (some slot) rs

/-- Substitutions a replay takes. DEDUCED: log entry 37. -/
def replayOf (rs : List (List Word)) : List (Nat × Option Nat) :=
  rs.map (fun r =>
    let rx := bits (wd r 3) 0 48
    (bits (wd r 0) 16 24, if rx = 0xFFFFFFFFFFFF then none else some rx))

/-- The slots of a command as it starts. -/
def startSlots (c : Cmd) (tab : List Word) (rep : List (Nat × Option Nat)) : List IkSample :=
  let n := if c.ikKind = 0 then c.ikSlots else c.ikN
  (List.range n).map (fun i =>
    let s := newSample false i (tabEntry tab i)
    if c.ikN ≤ i then { s with
      st := .ready
      fill := 4 }
    else if rep.any (fun r => r.1 == i) then { s with st := .wantSub } else s)

/-- End a command that has not started, with nothing done. -/
def Mach.ikEnd (m : Mach) (c : Cmd) : Option (Nat × Nat) → Mach
  | none => m
  | some (st, va) => m.finish c st 0 va false

/-- Fields of a state record's words (R288). -/
def stateFields (i : Nat) : List (Nat × Nat) :=
  if i = 0 then [(0, 24), (24, 24)]
  else if i = 1 then [(0, 32)]
  else if i = 2 then [(0, 64)]
  else if i = 3 then [(0, 24)]
  else if i = 4 then [(0, 48)]
  else if i = 7 then [(60, 4)]
  else []

/-- The checks of R9 and R10 on a state record. -/
def stateCheck (ws : List Word) : Option Nat :=
  if bits (wd ws 7) 60 4 ≠ 1 then some 0x0202
  else if (List.range 8).any (fun i => reservedSet (wd ws i) (stateFields i)) then some 0x0201
  else none

/-- The words of a command's state record and, in replay, the records of its journal, read and checked (R288, R301). -/
def Mach.ikBefore (m : Mach) (j : Job) (c : Cmd) : Mach × Except (Option (Nat × Nat)) (List Word × List (List Word)) :=
  let rs := m.ikRead j c.job c.ikState 64
  match rs.2 with
  | .error e => (rs.1, .error e)
  | .ok sb =>
    let sw := leWords 8 sb
    match stateCheck sw with
    | some st => (rs.1, .error (some (st, 0)))
    | none =>
      let jr := if c.ikReplay then bits (wd sw 3) 0 24 else 0
      let rj := rs.1.ikRead j c.job c.ikJournal (jr * 32)
      match rj.2 with
      | .error e => (rj.1, .error e)
      | .ok jb =>
        let recs := (List.range jr).map (fun i => leWords 4 (jb.drop (i * 32)))
        match replayCheck c none recs with
        | some st => (rj.1, .error (some (st, 0)))
        | none => (rj.1, .ok (sw, recs))

/-- In replay the state record and the journal are read and checked with the body (R287). -/
def Mach.ikReplayed (m : Mach) (j : Job) (c : Cmd) : Mach × Except (Option (Nat × Nat)) Unit :=
  if c.ikReplay then
    let b := m.ikBefore j c
    (b.1, b.2.map (fun _ => ()))
  else (m, .ok ())

/-- The record of a command that starts: its state record, in replay its journal, and its tables. -/
def Mach.ikTables (m : Mach) (j : Job) (c : Cmd) (x : List Word) : Mach × Except (Option (Nat × Nat)) IkCmd :=
  let b := m.ikBefore j c
  match b.2 with
  | .error e => (b.1, .error e)
  | .ok (sw, recs) =>
    let rt := b.1.ikRead j c.job (c.bf 1 0 57) (c.ikN * 32)
    match rt.2 with
    | .error e => (rt.1, .error e)
    | .ok tb =>
      let rr := rt.1.ikRead j c.job (c.bf 3 0 57) (c.bf 4 0 24 * 32)
      match rr.2 with
      | .error e => (rr.1, .error e)
      | .ok rb =>
        let tab := leWords (c.ikN * 4) tb
        let res := leWords (c.bf 4 0 24 * 4) rb
        let rep := replayOf recs
        let rc := bits (wd sw 1) 0 32
        let named := (rep.filterMap Prod.snd).eraseDups
        (rr.1, .ok ⟨c.id, startSlots c tab rep, named.map (fun i => newSample true i (tabEntry res i)),
          res, x, rc, rc, rc, 0, 0, 0, 0, [], rep, bits (wd sw 3) 0 24, 0⟩)

/-- A command starts: it runs, and its record stands with those of the commands already running. -/
def Mach.ikBegin (m : Mach) (c : Cmd) (k : IkCmd) : Mach :=
  let m1 := m.run c
  m1.setIk { m1.ik with run := m1.ik.run ++ [k] }

/-- The four ranges that a command writes (R287). -/
def Cmd.ikWritten (c : Cmd) (x : List Word) : List (Nat × Nat) :=
  [(c.ikOut, c.outLen x), (c.ikMarks, c.marksLen x), (c.bf 9 0 57, c.bf 10 0 40), (c.ikJournal, c.bf 12 0 24 * 32)]

/-- Start a command of a kind (R287, R288, R301): its checks, its state conditions, its tables, its state record, and in
replay its journal. -/
def Mach.ikStart (m : Mach) (pixel : Bool) : Mach :=
  if m.fget Reg.PW_MODE_MODE = 3 ∨ m.compDown 1 then m
  else
    match m.ikNext with
    | none => m
    | some c =>
      if (c.ikKind ≠ 1) ≠ pixel then m
      else if m.compHeld 1 then m.finish c 0x0F01 0 0 false
      else
        match m.job? c.job with
        | none => m
        | some j =>
          match m.ikBodyCheck c with
          | some st => m.finish c st 0 0 false
          | none =>
            let rx := if pixel then m.ikRead j c.job (c.bf 7 0 57) 128 else (m, .ok [])
            match rx.2 with
            | .error e => rx.1.ikEnd c e
            | .ok xb =>
              let x := leWords 16 xb
              match (if pixel then xformCheck x else none) with
              | some st => rx.1.finish c st 0 0 false
              | none =>
                let t := rx.1.ikTier j c.job (c.ikWritten x)
                match t.2 with
                | .error e => t.1.ikEnd c e
                | .ok _ =>
                  if pairMeets (c.ikRanges x) then t.1.finish c 0x0207 0 0 false
                  else
                    let p := t.1.ikReplayed j c
                    match p.2 with
                    | .error e => p.1.ikEnd c e
                    | .ok _ =>
                    match p.1.stateAux c false with
                    | some aux => p.1.finish c 0x0101 aux 0 false
                    | none =>
                      if p.1.condSkips c then p.1.finish c 0 0 0 true
                      else
                        let r := p.1.ikTables j c x
                        match r.2 with
                        | .error e => r.1.ikEnd c e
                        | .ok k => r.1.ikBegin c k

/-! The picture path (R294, R295) -/

/-- Output word `i` of a sample's draw for a block of a stage (R295). -/
def ikDraw (seed index stream stage block i : Nat) : Nat :=
  philox seed index stream (0x80000000 + stage * 256 + block) / 2 ^ (32 * i) % 2 ^ 32

/-- FP32 with RNE. -/
def f32 (v : Num) : Num := Fmt.fp32.rne v
def f32mul (a b : Num) : Num := f32 (Num.mul a b)
def f32add (a b : Num) : Num := f32 (Num.add a b)
def f32div (a b : Num) : Num :=
  match a, b with
  | .fin s p e, .fin t q g => if q = 0 then .nan else f32 (Num.quot (s != t) p e q g)
  | _, _ => .nan
def f32sqrt (a : Num) : Num :=
  match a with
  | .fin false p e => f32 (Num.root p e)
  | _ => .nan
/-- A draw as a value, and a stage parameter. -/
def uVal (w : Nat) : Num := f32 (.fin false w (-32))
def pVal (p : Nat) : Num := .fin false p (-16)
def one : Num := .fin false 1 0
def nVal (n : Nat) : Num := f32 (.fin false n 0)
/-- Two to a power, rounded to FP32 from its value to over a hundred bits. -/
def f32exp2 (v : Num) : Num :=
  match v with
  | .fin s m e => ((funcValue 0x0A s m e).map f32).getD .nan
  | w => w
/-- Nearest integer, and floor. -/
def nearest (v : Num) : Nat := (v.toInt .rne).toNat
def floorN (v : Num) : Nat := if v.neg? then 0 else (v.toInt .rtz).toNat
/-- Twice a draw less one. -/
def signedDraw (u : Num) : Num := f32add (f32mul (.fin false 2 0) u) one.negate

/-- The crop that block `k` of RCROP draws: width, height, left, top; none where it does not fit. -/
def rcropTry (w h p0 p1 : Nat) (d : Nat → Nat) : Option (Nat × Nat × Nat × Nat) :=
  let a := f32add (pVal p0) (f32mul (uVal (d 0)) (f32add one (pVal p0).negate))
  let r := f32exp2 (f32mul (f32mul (signedDraw (uVal (d 1))) (pVal p1)) (.fin false 16 0))
  let cw := nearest (f32mul (f32sqrt (f32mul a r)) (nVal w))
  let ch := nearest (f32mul (f32sqrt (f32div a r)) (nVal h))
  if cw ≤ w ∧ ch ≤ h then
    some (cw, ch, floorN (f32mul (uVal (d 2)) (nVal (w - cw + 1))), floorN (f32mul (uVal (d 3)) (nVal (h - ch + 1))))
  else none

/-- RCROP (R295): the first of ten blocks that fits, else the whole picture. -/
def rcrop (w h p0 p1 : Nat) (d : Nat → Nat → Nat) : Nat × Nat × Nat × Nat :=
  ((List.range 10).findSome? (fun k => rcropTry w h p0 p1 (d k))).getD (w, h, 0, 0)

/-- What a stage does to a sample's pixels: a crop to a width and height from a left and a top edge, a mirror, or JITTER's three factors as
FP32 codes. -/
inductive PixStage where
  | crop (w h x y : Nat)
  | flip
  | jitter (brightness contrast saturation : Nat)
  deriving DecidableEq, Repr

/-- What the stages of a transform have drawn for a sample: the stages of its pixels, its first frame, and the size that the next
stage receives. -/
structure Drawn where
  stages : List PixStage
  first : Nat
  w : Nat
  h : Nat
  deriving DecidableEq, Repr

/-- What the stages of a transform draw for a sample. -/
def stageDraws (x : List Word) (seed index stream w h f : Nat) : Drawn :=
  (List.range 8).foldl (fun (acc : Drawn) o =>
    let v := wd x (2 + o)
    let op := bits v 0 4
    let p0 := bits v 16 16
    let d := fun (k i : Nat) => ikDraw seed index stream o k i
    if op = 1 then
      let r := rcrop acc.w acc.h p0 (bits v 32 16) d
      ⟨acc.stages ++ [.crop r.1 r.2.1 r.2.2.1 r.2.2.2], acc.first, r.1, r.2.1⟩
    else if op = 2 then (if d 0 0 < p0 * 65536 then { acc with stages := acc.stages ++ [.flip] } else acc)
    else if op = 3 then
      let fac := fun (i p : Nat) => (Fmt.fp32.encode .rne false (f32add one (f32mul (pVal p) (signedDraw (uVal (d 0 i)))))).1
      { acc with stages := acc.stages ++ [.jitter (fac 0 p0) (fac 1 (bits v 32 16)) (fac 2 (bits v 48 16))] }
    else if op = 4 then
      let span := (xNout x - 1) * xStride x
      { acc with first := if f ≤ span then 0 else floorN (f32mul (uVal (d 0 0)) (nVal (f - span))) }
    else acc) ⟨[], 0, w, h⟩

def entCodec (e : List Word) : Nat := bits (wd e 0) 57 3
def entSrc (e : List Word) : Nat := bits (wd e 0) 0 57
def entLen (e : List Word) : Nat := bits (wd e 1) 0 32
def entFrames (e : List Word) : Nat := bits (wd e 1) 32 16
def entIndex (e : List Word) : Nat := (wd e 2).toNat
def entDlen (e : List Word) : Nat := bits (wd e 3) 0 40

/-- The place before rotation and mirror of an output frame's place (R293, R294): row, column. -/
def prePlace (x : List Word) (r c : Nat) : Nat × Nat :=
  let rot := bits (wd x 0) 32 2
  let c1 := if bits (wd x 0) 34 1 = 1 then xOw x - 1 - c else c
  if rot = 0 then (r, c1)
  else if rot = 1 then (xOw x - 1 - c1, r)
  else if rot = 2 then (xOh x - 1 - r, xOw x - 1 - c1)
  else (c1, xOh x - 1 - r)

/-- The crops and mirrors of a picture (R294, R295), as a place of the picture by a place after them: row, column; with the size that is
left. -/
def pixPlace : List PixStage → Nat → Nat → (Nat → Nat → Nat × Nat) × Nat × Nat
  | [], w, h => (fun r q => (r, q), w, h)
  | .crop cw ch x y :: rest, _, _ =>
    let t := pixPlace rest cw ch
    (fun r q => ((t.1 r q).1 + y, (t.1 r q).2 + x), t.2)
  | .flip :: rest, w, h =>
    let t := pixPlace rest w h
    (fun r q => ((t.1 r q).1, w - 1 - (t.1 r q).2), t.2)
  | .jitter _ _ _ :: rest, w, h => pixPlace rest w h

/-- The first tap around a position and the taps' weights, in units of 2^-14 (R294): two for bilinear, four for bicubic with a = −0.5. The
weights add up to 1. DESIGN CHOICE: log entry 36. -/
def tapWeights (cubic : Bool) (pos : Int) : Int × List Int :=
  let p := pos % 256
  if cubic then
    let near := fun (v : Int) => (v + 1024) / 2048
    let a := near (-(p ^ 3) + 512 * p ^ 2 - 65536 * p)
    let c := near (-(3 * p ^ 3) + 1024 * p ^ 2 + 65536 * p)
    let d := near (p ^ 3 - 256 * p ^ 2)
    (pos / 256 - 1, [a, 16384 - a - c - d, c, d])
  else (pos / 256, [16384 - 64 * p, 64 * p])

/-- A sum over taps, a tap past an edge taking the edge. -/
def tapSum (n : Nat) (f : Nat → Int) (t : Int × List Int) : Int :=
  ((t.2.mapIdx (fun i v => v * f (min (t.1 + (i : Int)).toNat (n - 1))))).foldl (fun a v => a + v) 0

/-- A place of a scaled picture, in units of 2^-28 of a sample (R294). -/
def scaleAt (cubic : Bool) (w h ow oh : Nat) (f : Nat → Nat → Nat) (r q : Nat) : Int :=
  tapSum h (fun i => tapSum w (fun k => ((f i k : Nat) : Int)) (tapWeights cubic (Config.scalePos w ow q)))
    (tapWeights cubic (Config.scalePos h oh r))

/-- A quotient of integers in FP32. -/
def ratio (s : Bool) (n d : Nat) : Num := f32 (Num.quot s n 0 d 0)

/-- The matrix of BT.601 on the 8-bit samples of a JPEG, whose chroma stands about 128 (R294). DESIGN CHOICE: log entry 36. -/
def bt601 : Nat → Num
  | 0 | 4 | 8 => ratio false 1 255
  | 2 => ratio false 1402 255000
  | 3 => ratio true (1402 * 128) 255000
  | 5 => ratio true 202008 (587000 * 255)
  | 6 => ratio true 419198 (587000 * 255)
  | 7 => ratio false (621206 * 128) (587000 * 255)
  | 9 => ratio false 1772 255000
  | 11 => ratio true (1772 * 128) 255000
  | _ => .fin false 0 0

/-- A component of RGB from the three samples of a place, in FP32 and in the order of its coefficients (R294). -/
def rgbAt (codec : Nat) (data : List Byte) (v : Nat → Num) (c : Nat) : Num :=
  let k := fun (i : Nat) => if codec = 0 then bt601 (4 * c + i) else Fmt.fp32.decode (Config.rgbCoef codec data (4 * c + i)).toNat
  f32add (f32add (f32add (f32mul (k 0) (v 0)) (f32mul (k 1) (v 1))) (f32mul (k 2) (v 2))) (k 3)

/-- A value turned about another by a factor. -/
def about (p v : Num) (k : Nat) : Num := f32add p (f32mul (f32add v p.negate) (Fmt.fp32.decode k))

def f32Code (v : Num) : BitVec 32 := BitVec.ofNat 32 (Fmt.fp32.encode .rne false v).1

/-- JITTER on a frame given by its components in row-major order (R295): brightness, contrast about the mean, then saturation. -/
def jitterFrame (b k s : Nat) (f : List Num) : List Num :=
  let f1 := f.map (fun v => f32mul v (Fmt.fp32.decode b))
  let codes := f1.map f32Code
  let f2 := f1.mapIdx (fun i v => about (Fmt.fp32.decode (Config.jitterMean codes (i % 3)).toNat) v k)
  let at2 := fun (i : Nat) => f32Code (f2.getD i .nan)
  f2.mapIdx (fun i v =>
    about (Fmt.fp32.decode (Config.jitterGrey (at2 (i / 3 * 3)) (at2 (i / 3 * 3 + 1)) (at2 (i / 3 * 3 + 2))).toNat) v s)

/-- A component in OFMT, saturating (R294). DESIGN CHOICE: log entry 36. -/
def outComp (x : List Word) (v : Num) : List Byte :=
  if xBytes x = 1 then [BitVec.ofNat 8 (max 0 (min 255 ((f32mul v (nVal 255)).toInt .rne))).toNat]
  else leBytes 2 (Fmt.bf16.encode .rne true (Num.maxOf (.fin false 0 0) (Num.minOf one v))).1

/-- The bytes of an output frame from frame `k` of a decoded picture (R294): the crops and mirrors of the stages and the fixed crop before
them, scaling to the size before rotation, rotation and mirror, RGB, JITTER, OFMT. -/
def frameOut (x : List Word) (stages : List PixStage) (codec k cw ch : Nat) (data : List Byte) : List Byte :=
  let turned := bits (wd x 0) 32 1 = 1
  let g := pixPlace stages cw ch
  let x0 := if bits (wd x 1) 32 16 = 0 then 0 else bits (wd x 1) 0 16
  let y0 := if bits (wd x 1) 32 16 = 0 then 0 else bits (wd x 1) 16 16
  let sample := fun (c r q : Nat) =>
    let v := scaleAt (bits (wd x 0) 35 1 == 1) g.2.1 g.2.2 (if turned then xOh x else xOw x) (if turned then xOw x else xOh x)
      (fun i j => (Config.sampleAt codec data k c ((g.1 i j).1 + y0) ((g.1 i j).2 + x0)).toNat) r q
    f32 (.fin (decide (v < 0)) v.natAbs (-28))
  let rgb := (List.range (xOw x * xOh x)).flatMap (fun i =>
    let p := prePlace x (i / xOw x) (i % xOw x)
    (List.range 3).map (rgbAt codec data (fun c => sample c p.1 p.2)))
  (stages.foldl (fun f st => match st with
    | .jitter b c s => jitterFrame b c s f
    | _ => f) rgb).flatMap (outComp x)

/-- A slot's output bytes and its flag bytes (R294). -/
def pixelSlot (c : Cmd) (seed : Nat) (x : List Word) (s : IkSample) : List Byte × List Byte :=
  let n := frameBytes x
  let zero := fun (flags : Nat) => (List.replicate (slotBytes x) (0 : Byte), List.replicate (xNout x) (BitVec.ofNat 8 flags))
  if s.fill = 2 then zero 6
  else if s.fill = 3 then zero 8
  else if s.fill = 4 then zero 2
  else
    let cw := if bits (wd x 1) 32 16 = 0 then s.width else bits (wd x 1) 32 16
    let ch := if bits (wd x 1) 32 16 = 0 then s.height else bits (wd x 1) 48 16
    let f := entFrames s.entry
    let d := stageDraws x seed (entIndex s.entry) c.ikStream cw ch f
    let sub := if s.fill = 1 then 4 else 0
    let frames := (List.range (xNout x)).map (fun k => d.first + k * xStride x)
    (frames.flatMap (fun k =>
       if f ≤ k then List.replicate n 0
       else frameOut x d.stages (entCodec s.entry) k cw ch s.data),
     frames.map (fun k => BitVec.ofNat 8
       ((if s.hidden.contains k then 1 else 0) + (if f ≤ k then 2 else 0) + sub)))

/-! Token rows (R296) -/

/-- Rows being packed: tokens with segment and position, newest first; the segment number; samples consumed; whether the last
row has ended the packing. -/
structure Rows where
  cells : List (Nat × Nat × Nat)
  n : Nat
  seg : Nat
  consumed : Nat
  stop : Bool
  deriving DecidableEq, Repr

/-- Place a sample's tokens from its `k`-th on, in pieces that each end with a row; the number bounds the pieces. -/
def placeToks (row rows : Nat) : Nat → Nat → List Nat → Rows → Rows
  | 0, _, _, r => r
  | fuel + 1, k, ts, r =>
    if ts.isEmpty ∨ rows * row ≤ r.n then r
    else
      let room := row - r.n % row
      let piece := ts.take room
      let cells := (piece.mapIdx (fun i t => (t, r.seg + 1, k + i))).reverse
      let n := r.n + piece.length
      placeToks row rows fuel (k + piece.length) (ts.drop room)
        { r with
          cells := cells ++ r.cells
          n := n
          seg := if n % row = 0 then 0 else r.seg + 1 }

/-- Pack one sample (R296). -/
def packOne (fit : Bool) (row rows pad : Nat) (r : Rows) (ts0 : List Nat) : Rows :=
  let ts := if fit then ts0.take row else ts0
  let r1 := if fit ∧ row < r.n % row + ts.length then
      { r with
        cells := List.replicate (row - r.n % row) (pad, 0, 0) ++ r.cells
        n := r.n + (row - r.n % row)
        seg := 0 }
    else r
  if fit ∧ rows * row ≤ r1.n then { r1 with stop := true }
  else
    let r2 := placeToks row rows (ts.length + 1) 0 ts r1
    { r2 with
      consumed := r2.consumed + 1
      stop := decide (rows * row ≤ r2.n) }

/-- Tokens of decoded bytes. -/
def toksOf (size : Nat) : Nat → List Byte → List Nat
  | 0, _ => []
  | n + 1, bs => if bs.isEmpty then [] else leNat (bs.take size) :: toksOf size n (bs.drop size)

/-- Pack samples in slot order until the rows are full or a sample is not yet there; the flag says the batch is whole. -/
def packAll (c : Cmd) : List IkSample → Rows → Rows × Bool
  | [], r => (r, true)
  | s :: ss, r =>
    if r.stop then (r, true)
    else if s.st ≠ .filled then (r, false)
    else
      let ts := if s.fill = 0 ∨ s.fill = 1 then toksOf c.ikTok (s.data.length + 1) s.data else []
      packAll c ss (packOne c.ikFit c.ikRow c.ikSlots (c.bf 13 0 32) r ts)

/-- The packing of a command as it stands. -/
def IkCmd.pack (k : IkCmd) (c : Cmd) : Rows × Bool := packAll c k.slots ⟨[], 0, 0, 0, false⟩

/-- OUT's and MARKS' bytes of finished rows. -/
def rowBytes (c : Cmd) (r : Rows) : List Byte × List Byte :=
  let total := c.ikSlots * c.ikRow
  let cells := r.cells.reverse ++ List.replicate (total - r.n) (c.bf 13 0 32, 0, 0)
  (cells.flatMap (fun t => leBytes 4 t.1),
   cells.flatMap (fun t => leBytes 2 t.2.1) ++ cells.flatMap (fun t => leBytes 2 t.2.2))

/-! Substitution and slots (R298, R299) -/

/-- Whether a slot is settled as far as later substitutions go. -/
def IkSample.settled (s : IkSample) : Bool := s.st == .filled || s.st == .ready

/-- Fill a slot by substitution. -/
def IkCmd.substitute (k : IkCmd) (s : IkSample) (r : Option IkSample) (rcur : Nat) : IkCmd :=
  let s' := match r with
    | some q => { s with
        st := .ready
        fill := 1
        entry := q.entry
        data := q.data
        width := q.width
        height := q.height
        hidden := q.hidden }
    | none => { s with
        st := .ready
        fill := 2 }
  let jn : IkJournal := ⟨s.idx, s.reason, entIndex s.entry, r.map (fun q => q.idx), rcur⟩
  { k with
    slots := k.slots.map (fun t => if t.idx = s.idx then s' else t)
    rsv := k.rsv.map (fun t => match r with
      | some q => if t.idx = q.idx ∧ k.replay.isEmpty then { t with alloc := 0 } else t
      | none => t)
    rcur := rcur
    journal := k.journal ++ [jn] }

/-- Reserve entries decoded ahead: RDEPTH of them from RCURSOR on, the failed ones not counted. -/
def Mach.ikTopUp (m : Mach) (k : IkCmd) : Nat → IkCmd
  | 0 => k
  | n + 1 =>
    let ahead := (k.rsv.filter (fun r => decide (k.rcur ≤ r.idx) && r.st != .skipped)).length
    if !k.replay.isEmpty ∨ m.fget Reg.IK_BUDGET_CFG_RDEPTH ≤ ahead ∨ k.resTab.length / 4 ≤ k.rnext then k
    else m.ikTopUp { k with
      rsv := k.rsv ++ [newSample true k.rnext (tabEntry k.resTab k.rnext)]
      rnext := k.rnext + 1 } n

/-- Substitute the failed slots in slot order, as far as the slots before them are settled and a reserve sample is decoded. -/
def IkCmd.subst (k : IkCmd) (c : Cmd) : List IkSample → IkCmd
  | [] => k
  | s :: ss =>
    if s.settled then k.subst c ss
    else if s.st ≠ .wantSub then k
    else if c.ikKind = 1 ∧ (k.pack c).1.stop then k
    else
      match k.replay.find? (fun r => r.1 == s.idx) with
      | some (_, none) => (k.substitute s none k.rcur).subst c ss
      | some (_, some rx) =>
        (match k.rsv.find? (fun r => r.idx == rx) with
         | some q =>
           if q.st = .decoded then (k.substitute s (some q) (rx + 1)).subst c ss
           else if q.st = .skipped then (k.substitute s none k.rcur).subst c ss
           else k
         | none => k)
      | none =>
        match k.rsv.find? (fun r => decide (k.rcur ≤ r.idx) && r.st != .skipped) with
        | some q => if q.st = .decoded then (k.substitute s (some q) (q.idx + 1)).subst c ss else k
        | none =>
          if k.resTab.length / 4 ≤ k.rnext then (k.substitute s none (k.resTab.length / 4)).subst c ss else k

/-- Write the slots that are ready (R294); the end of the command where a write ends it. -/
def Mach.ikFill (m : Mach) (c : Cmd) (j : Job) (k : IkCmd) : List IkSample → Mach × IkCmd × Option (Nat × Nat)
  | [] => (m, k, none)
  | s :: ss =>
    let done := fun (a : IkCmd) => { a with slots := a.slots.map (fun t => if t.idx = s.idx then { t with st := .filled } else t) }
    if s.st ≠ .ready then m.ikFill c j k ss
    else if c.ikKind = 1 then m.ikFill c j (done k) ss
    else
      let b := pixelSlot c j.seed k.xform s
      let w := m.ikWrite j c.job c.id (c.ikOut + s.idx * slotBytes k.xform) b.1
      match w.2 with
      | .error (some e) => (w.1, k, some e)
      | .error none => w.1.ikFill c j k ss
      | .ok _ =>
        let v := w.1.ikWrite j c.job c.id (c.ikMarks + s.idx * xNout k.xform) b.2
        match v.2 with
        | .error (some e) => (v.1, k, some e)
        | .error none => v.1.ikFill c j k ss
        | .ok _ => v.1.ikFill c j (done k) ss

/-- Put a running command's record back. -/
def Mach.ikPut (m : Mach) (k : IkCmd) : Mach :=
  (m.setIk { m.ik with run := m.ik.run.map (fun x => if x.id = k.id then k else x) }).ikUnits

/-- Bring a running command as far as it goes: reserve samples, substitutions, writes. -/
def Mach.ikSettle (m : Mach) (id : Nat) : Mach :=
  match m.ik.run.find? (fun k => k.id == id), m.cmdOf id with
  | some k, some c =>
    (match m.job? c.job with
     | none => m
     | some j =>
       let k1 := m.ikTopUp k (k.resTab.length + 1)
       let k2 := k1.subst c k1.slots
       let k3 := m.ikTopUp k2 (k.resTab.length + 1)
       let w := m.ikFill c j k3 k3.slots
       match w.2.2 with
       | some (st, va) => w.1.finish c st 0 va false
       | none =>
         -- a token slot that is now filled may let a later one be substituted
         let k4 := w.2.1.subst c w.2.1.slots
         let w2 := w.1.ikFill c j k4 k4.slots
         match w2.2.2 with
         | some (st, va) => w2.1.finish c st 0 va false
         | none => w2.1.ikPut (w2.1.ikTopUp w2.2.1 (k.resTab.length + 1)))
  | _, _ => m

/-- PIXEL (R286, R287, R293, R301). -/
def execPixel (s : State) : Host.Outcome State Fault Refusal := s.act (fun m => m.ikStart true)

/-- TOKENS (R286, R287, R296, R301). -/
def execTokens (s : State) : Host.Outcome State Fault Refusal := s.act (fun m => m.ikStart false)

/-! Units (R285, R290, R297) -/

/-- Bit of IK_UNITS and kind (0 JPEG, 1 video, 2 DEFLATE) of a unit. -/
def unitBit : UnitId → Nat
  | .video u => u.val
  | .jpeg u => 16 + u.val
  | .deflate u => 48 + u.val
def unitKind : UnitId → Nat
  | .video _ => 1
  | .jpeg _ => 0
  | .deflate _ => 2
/-- Kind of unit a codec needs; none for a reserved code. -/
def codecKind (k : Nat) : Option Nat := if k = 0 then some 0 else if k = 1 then some 2 else if k ≤ 4 then some 1 else none

/-- Class of a sample: a reserve sample decodes at BULK. -/
def sampleClass (c : Cmd) (s : IkSample) : Nat := if s.rsv then 3 else c.ikClass

/-- Work-area bytes a command has free. -/
def IkCmd.free (k : IkCmd) (c : Cmd) : Nat := c.bf 10 0 40 - ((k.slots ++ k.rsv).foldl (fun a s => a + s.alloc) 0)

/-- Samples that wait for a unit of a kind, in order of command and slot. -/
def Mach.ikWaiting (m : Mach) (kind : Nat) : List (IkCmd × Cmd × IkSample) :=
  m.ik.run.flatMap (fun k => match m.cmdOf k.id with
    | some c =>
      if c.status.isSome then []
      else ((k.slots ++ k.rsv).filter (fun s => s.st == .waiting && decide (s.need ≤ k.free c) &&
        (match codecKind (entCodec s.entry) with
         | some q => q == kind
         | none => true))).map (fun s => (k, c, s))
    | none => [])

/-- The sample a free unit of a kind takes (R297), and the sharing state after it. DESIGN CHOICE: log entry 36. -/
def Mach.ikPick (m : Mach) (kind : Nat) : Option ((IkCmd × Cmd × IkSample) × Rr) :=
  let w := m.ikWaiting kind
  let rr := (sget none kind m.ik.rr).getD ⟨0, []⟩
  let top := w.foldl (fun a x => min a (sampleClass x.2.1 x.2.2)) 4
  let lower := w.foldl (fun a x => if top < sampleClass x.2.1 x.2.2 then min a (sampleClass x.2.1 x.2.2) else a) 4
  let cls := if (rr.count + 1) % 16 = 0 ∧ lower < 4 then lower else top
  let mine := w.filter (fun x => sampleClass x.2.1 x.2.2 == cls)
  let jobs := m.liveJobs.filter (fun jn => mine.any (fun x => x.2.1.job == jn))
  match m.turn rr cls jobs with
  | none => none
  | some jn => (mine.find? (fun x => x.2.1.job == jn)).map (fun x => (x, m.chosen rr cls jn))

/-- Change a sample of a running command. -/
def IkCmd.setSample (k : IkCmd) (s : IkSample) : IkCmd :=
  let f := fun (t : IkSample) => if t.idx = s.idx ∧ t.rsv = s.rsv then s else t
  if s.rsv then { k with rsv := k.rsv.map f } else { k with slots := k.slots.map f }

/-- A limit of a command, or its register (R286). -/
def orReg (v r : Nat) : Nat := if v = 0 then r else v

/-- Bytes a decoded picture takes: 8-bit video × 1.5, 10-bit × 3, JPEG by its components (R290). -/
def picBytes (e : List Word) (hd : List Byte) : Nat :=
  let codec := entCodec e
  let px := claim 2 codec hd * claim 3 codec hd
  if codec = 0 then px * claim 5 codec hd else if claim 4 codec hd = 10 then px * 3 else (px * 3 + 1) / 2

/-- Decoded bytes claimed (R290), and the allocation of R291: reference sets of 16, 16 and 8 pictures. -/
def decodedBytes (e : List Word) (hd : List Byte) : Nat :=
  if entCodec e = 1 then entDlen e else if entCodec e = 0 then picBytes e hd else entFrames e * picBytes e hd
def allocBytes (e : List Word) (hd : List Byte) : Nat :=
  if entCodec e = 1 then entDlen e
  else if entCodec e = 0 then picBytes e hd
  else ((if entCodec e = 4 then 8 else 16) + 2) * picBytes e hd

/-- Whether an entry states what its codec has no use for, or a frame count R289 rules out. -/
def entryStray (e : List Word) : Bool :=
  if entCodec e = 1 then entFrames e != 0
  else entDlen e != 0 || (if entCodec e = 0 then entFrames e != 1 else entFrames e == 0)

/-- Orders 1 and 2 of R290: what an entry alone shows. A frame count or length of R289's table that its codec rules out is a field out
of use. DEDUCED: log entry 37. -/
def entryCheck (c : Cmd) (e : List Word) : Option Nat :=
  if bits (wd e 3) 60 4 ≠ 1 then some 0x0202
  else if reservedSet (wd e 0) [(0, 57), (57, 3)] ∨ reservedSet (wd e 1) [(0, 32), (32, 16)] ∨
      reservedSet (wd e 3) [(0, 40), (60, 4)] then some 0x0201
  else if 4 < entCodec e then some 0x0203
  else if entryStray e then some 0x0201
  else if (c.ikKind = 1) ≠ (entCodec e = 1) then some 0x0205
  else none

/-- Orders 3 to 8 of R290, over the first 64 KiB of the sample. -/
def Mach.headCheck (m : Mach) (c : Cmd) (e : List Word) (hd : List Byte) : Option Nat :=
  let codec := entCodec e
  let w := claim 2 codec hd
  let h := claim 3 codec hd
  if entLen e = 0 ∨ claim 0 codec hd = 0 then some 0x0801
  else if claim 1 codec hd = 0 then some 0x0802
  else if codec ≠ 1 ∧ (orReg (c.bf 14 0 16) (m.fget Reg.IK_LIMIT_WMAX) < w ∨
      orReg (c.bf 14 16 16) (m.fget Reg.IK_LIMIT_HMAX) < h ∨
      orReg (c.bf 14 32 16) (m.fget Reg.IK_LIMIT_FMAX) < entFrames e) then some 0x0803
  else if orReg (c.bf 15 0 16) (m.fget Reg.IK_LIMIT2_DMAX) * 2 ^ 20 < decodedBytes e hd then some 0x0803
  else if orReg (c.bf 14 48 16) (m.fget Reg.IK_LIMIT_RMAX) * entLen e <
      (if codec = 1 then entDlen e else entFrames e * w * h) then some 0x0803
  else if c.bf 10 0 40 < allocBytes e hd then some 0x0803
  else none

/-- A sample fails with a status (R298, R299, R303): it is counted, frees its space and its unit, and its slot is to be
substituted, or written INVALID in class LIVE. DEDUCED: log entry 37. -/
def Mach.ikFail (m : Mach) (k : IkCmd) (c : Cmd) (s : IkSample) (st : Nat) : Mach :=
  let cls := sampleClass c s
  let live := !s.rsv && c.ikClass == 0
  let m1 := if st = 0x0805 then m.fadd (Reg.IK_CNT_LATE cls) 1
    else if st = 0x0804 then m.fadd (Reg.IK_CNT_DROPPED cls) 1 else m.fadd (Reg.IK_CNT_REJECTED cls) 1
  let s' := { s with
    st := if s.rsv then .skipped else if live then .ready else .wantSub
    fill := if live then 3 else s.fill
    unit := none
    alloc := 0
    need := 0
    reason := st }
  let k1 := k.setSample s'
  let k2 := if s.rsv then k1
    else if st = 0x0805 then { k1 with late := k1.late + 1 }
    else if st = 0x0804 then { k1 with dropped := k1.dropped + 1 }
    else { k1 with rejected := k1.rejected + 1 }
  (m1.ikPut k2).ikSettle k.id

/-- Put a sample on a unit. -/
def Mach.ikAssign (m : Mach) (k : IkCmd) (s : IkSample) (bit alloc : Nat) : Mach :=
  m.ikPut (k.setSample { s with
    st := .decoding
    unit := some bit
    alloc := alloc
    need := 0 })

/-- Whether Intake runs: its commands stop in Slack. -/
def Mach.ikRuns (m : Mach) : Bool := m.fget Reg.PW_MODE_MODE != 3 && !m.compDown 1

/-- UNIT_ASSIGN (R290, R291, R297). -/
def execUnitAssign (u : UnitId) (s : State) : Host.Outcome State Fault Refusal :=
  s.act (fun m =>
    if !m.ikRuns || m.flag ⟨Reg.IK_UNITS, unitBit u, 1⟩ then m
    else
      match m.ikPick (unitKind u) with
      | none => m
      | some ((k, c, x), rr) =>
        match m.job? c.job with
        | none => m
        | some j =>
          let m0 := m.setIk { m.ik with rr := sset none (unitKind u) (some rr) m.ik.rr }
          if x.alloc ≠ 0 then m0.ikAssign k x (unitBit u) x.alloc
          else
            match entryCheck c x.entry with
            | some st => m0.ikFail k c x st
            | none =>
              let r := m.ikRead j c.job (entSrc x.entry) (min (entLen x.entry) 65536)
              match r.2 with
              | .error none => r.1
              | .error (some (st, _)) => r.1.ikFail k c x st
              | .ok hd =>
                match r.1.headCheck c x.entry hd with
                | some st => r.1.ikFail k c x st
                | none =>
                  let n := allocBytes x.entry hd
                  let y := { x with
                    width := claim 2 (entCodec x.entry) hd
                    height := claim 3 (entCodec x.entry) hd
                    hides := !x.rsv && c.ikClass == 0 && sget false (c.job * 65536 + c.ikStream) m.ik.hides }
                  if k.free c < n then r.1.ikPut (k.setSample { y with need := n })
                  else
                    let m1 := r.1.setIk { r.1.ik with rr := sset none (unitKind u) (some rr) r.1.ik.rr }
                    m1.ikAssign k y (unitBit u) n)

/-- The sample on a unit, with its command. -/
def Mach.onUnit (m : Mach) (u : UnitId) : Option (IkCmd × Cmd × IkSample) :=
  m.ik.run.findSome? (fun k => match m.cmdOf k.id with
    | some c =>
      if c.status.isSome then none
      else ((k.slots ++ k.rsv).find? (fun s => s.unit == some (unitBit u))).map (fun s => (k, c, s))
    | none => none)

/-- PICTURE_BOUNDARY (R290, R292, R297): a video sample of more frames than it claimed fails; a missing reference drops the sample, or in
class LIVE conceals frames up to the stream's next random-access point; a video or DEFLATE unit may then leave its sample for one of a
higher class. -/
def execPictureBoundary (u : UnitId) (missingRef rap : Bool) (s : State) : Host.Outcome State Fault Refusal :=
  s.act (fun m =>
    match m.onUnit u with
    | none => m
    | some (k, c, x) =>
      if !m.ikRuns || unitKind u == 0 then m
      else
        let live := !x.rsv && c.ikClass == 0
        if unitKind u = 1 ∧ entFrames x.entry ≤ x.pics then m.ikFail k c x 0x0803
        else if unitKind u = 1 ∧ missingRef ∧ !live then m.ikFail k c x 0x0804
        else
          let hide := unitKind u == 1 && (missingRef || (x.hides && !rap))
          let higher := (m.ikWaiting (unitKind u)).any (fun y => decide (sampleClass y.2.1 y.2.2 < sampleClass c x))
          let x' := { x with
            pics := x.pics + 1
            hides := hide
            hidden := if hide then x.pics :: x.hidden else x.hidden
            st := if higher then .waiting else x.st
            unit := if higher then none else x.unit }
          let k1 := k.setSample x'
          let m0 := if live ∧ unitKind u = 1 then
              m.setIk { m.ik with hides := sset false (c.job * 65536 + c.ikStream) hide m.ik.hides } else m
          let m1 := if hide then m0.fadd (Reg.IK_CNT_CONCEALED (sampleClass c x)) 1 else m0
          m1.ikPut (if hide then { k1 with concealed := k1.concealed + 1 } else k1))

/-- Budget of a sample, where one applies (R298): MULT × avg once MIN_SAMPLES of its class and kind have completed. -/
def Mach.ikBudget (m : Mach) (c : Cmd) (x : IkSample) (kind : Nat) : Option Nat :=
  let cls := sampleClass c x
  if cls = 0 ∨ c.ikReplay ∨ m.fget (Reg.IK_AVG_COUNT cls kind) < m.fget Reg.IK_BUDGET_CFG_MIN_SAMPLES then none
  else some (orReg (c.bf 0 8 8) (m.fget Reg.IK_BUDGET_CFG_MULT) * m.fget (Reg.IK_AVG_AVG cls kind))

/-- The running average takes a decode time (R298). -/
def Mach.ikAvg (m : Mach) (cls kind us : Nat) : Mach :=
  let n := m.fget (Reg.IK_AVG_COUNT cls kind)
  let a := m.fget (Reg.IK_AVG_AVG cls kind)
  let v : Int := if n = 0 then (us : Int) else (a : Int) + ((us : Int) - (a : Int)) / 64
  (m.fset (Reg.IK_AVG_AVG cls kind) (min v.toNat (2 ^ 32 - 1))).fadd (Reg.IK_AVG_COUNT cls kind) 1

/-- The statuses that a failed source gives a sample (R303): poison, a reserved address, the translation class, a landward loss. -/
def sourceCodes : List Nat := [0x0301, 0x0304, 0x0401, 0x0402, 0x0403, 0x0404, 0x0405, 0x0406, 0x0502]

/-- Status of an ending that is no completion (R290, R303); a failure of the sample's source carries the status of R303, and no other
code stands for one. -/
def endStatus : DecodeEnd → Option Nat
  | .complete => none
  | .malformed => some 0x0801
  | .unsupported => some 0x0802
  | .overClaim => some 0x0803
  | .underClaim => some 0x0801
  | .source st => some (if sourceCodes.contains st.toNat then st.toNat else 0x0304)

/-- How a DEFLATE sample ends, from its bytes alone (R284, R290): malformed, with more or fewer bytes than it declared, or with its
output. -/
def deflateEnd (e : List Word) (src : List Byte) : Except Nat (List Byte) :=
  match inflate src with
  | none => .error 0x0801
  | some out => if entDlen e < out.length then .error 0x0803 else if out.length < entDlen e then .error 0x0801 else .ok out

/-- How a sample ends: a DEFLATE one by its bytes, a picture as the unit reports it. -/
def sampleEnd (x : IkSample) (before src : List Byte) : Except Nat (List Byte) :=
  if entCodec x.entry = 1 then deflateEnd x.entry src else .ok (Config.decoded (entCodec x.entry) before src)

/-- A sample has decoded (R294, R296, R298): the running average takes its time, a live stream keeps what its later samples
refer to, the unit and the space come free, and the command goes on. -/
def Mach.ikDecoded (m : Mach) (k : IkCmd) (c : Cmd) (x : IkSample) (kind us : Nat) (src data : List Byte) : Mach :=
  let live := !x.rsv && c.ikClass == 0
  let key := c.job * 65536 + c.ikStream
  let before := if live then sget [] key m.ik.live else []
  let m1 := m.ikAvg (sampleClass c x) kind us
  let m2 := if live then m1.setIk { m1.ik with live := sset [] key (before ++ src) m1.ik.live } else m1
  (m2.ikPut (k.setSample { x with
    st := if x.rsv then .decoded else .ready
    unit := none
    alloc := if x.rsv then x.alloc else 0
    data := data })).ikSettle k.id

/-- The bytes of a sample that has run to its end: it fails, or has decoded (R290). -/
def Mach.ikBytes (m : Mach) (j : Job) (k : IkCmd) (c : Cmd) (x : IkSample) (kind us : Nat) : Mach :=
  let r := m.ikRead j c.job (entSrc x.entry) (entLen x.entry)
  match r.2 with
  | .error none => r.1
  | .error (some (st, _)) => r.1.ikFail k c x st
  | .ok src =>
    let before := if !x.rsv && c.ikClass == 0 then sget [] (c.job * 65536 + c.ikStream) m.ik.live else []
    match sampleEnd x before src with
    | .error st => r.1.ikFail k c x st
    | .ok data =>
      if entCodec x.entry = 1 ∧ entDlen x.entry % c.ikTok ≠ 0 then r.1.ikFail k c x 0x0801
      else r.1.ikDecoded k c x kind us src data

/-- SAMPLE_DECODE_END (R290, R294, R296, R298). -/
def execSampleDecodeEnd (u : UnitId) (us : Nat) (e : DecodeEnd) (s : State) : Host.Outcome State Fault Refusal :=
  s.act (fun m =>
    match m.onUnit u with
    | none => m
    | some (k, c, x) =>
      let late := match m.ikBudget c x (unitKind u) with
        | some b => decide (b < us)
        | none => false
      if !m.ikRuns then m
      else if late then m.ikFail k c x 0x0805
      else
        match endStatus e, m.job? c.job with
        | _, none => m
        | some st, some j =>
          -- a DEFLATE sample's own bytes say how it ends; only its source may fail it from outside
          (match e with
           | .source _ => m.ikFail k c x st
           | _ => if entCodec x.entry = 1 then m.ikBytes j k c x (unitKind u) us else m.ikFail k c x st)
        | none, some j => m.ikBytes j k c x (unitKind u) us)

/-- LATE_EVICTION (R298, R299): a sample whose decode time has reached its budget is evicted. -/
def execLateEviction (u : UnitId) (us : Nat) (s : State) : Host.Outcome State Fault Refusal :=
  s.act (fun m =>
    match m.onUnit u with
    | none => m
    | some (k, c, x) =>
      match m.ikBudget c x (unitKind u) with
      | some b => if b ≤ us ∧ m.ikRuns then m.ikFail k c x 0x0805 else m
      | none => m)

/-! The end of a batch (R288, R300, R302) -/

/-- Whether every slot is filled, and the entries consumed. -/
def IkCmd.whole (k : IkCmd) (c : Cmd) : Bool × Nat :=
  if c.ikKind = 0 then (k.slots.all (fun s => s.st == .filled), min c.ikSlots c.ikN)
  else
    let p := k.pack c
    (p.2, p.1.consumed)

/-- A journal record's bytes. -/
def journalBytes (c : Cmd) (r : IkJournal) : List Byte :=
  wordBytes [BitVec.ofNat 64 (r.reason + r.slot * 2 ^ 16 + c.ikStream * 2 ^ 40), BitVec.ofNat 64 c.step,
    BitVec.ofNat 64 r.evicted, BitVec.ofNat 64 (r.rindex.getD 0xFFFFFFFFFFFF + 2 ^ 60)]

/-- The records of consumed slots, in ascending SLOT. -/
def IkCmd.records (k : IkCmd) (consumed : Nat) : List IkJournal :=
  (k.journal.filter (fun r => decide (r.slot < consumed))).mergeSort (fun a b => decide (a.slot ≤ b.slot))

/-- The state record's bytes (R288). -/
def stateBytes (c : Cmd) (k : IkCmd) (consumed : Nat) (recs : List IkJournal) : List Byte :=
  let cap := fun (n : Nat) => min n 65535
  let rcur := match recs.getLast? with
    | some r => r.rcur
    | none => k.rcur0
  wordBytes [BitVec.ofNat 64 (consumed + recs.length * 2 ^ 24), BitVec.ofNat 64 (rcur % 2 ^ 32),
    BitVec.ofNat 64 (cap k.late + cap k.dropped * 2 ^ 16 + cap k.rejected * 2 ^ 32 + cap k.concealed * 2 ^ 48),
    BitVec.ofNat 64 (if c.ikReplay then k.jrecs else recs.length), BitVec.ofNat 64 c.step, 0, 0, BitVec.ofNat 64 (2 ^ 60)]

/-- Write the outputs of a token batch; a pixel batch has written them slot by slot. -/
def Mach.ikOutputs (m : Mach) (c : Cmd) (j : Job) (k : IkCmd) : Mach × Except (Option (Nat × Nat)) Unit :=
  if c.ikKind = 0 then (m, .ok ())
  else
    let b := rowBytes c (k.pack c).1
    let w := m.ikWrite j c.job c.id c.ikOut b.1
    match w.2 with
    | .error e => (w.1, .error e)
    | .ok _ => w.1.ikWrite j c.job c.id c.ikMarks b.2

/-- Write the journal, which a replay leaves as it is, and the state record. -/
def Mach.ikRecords (m : Mach) (c : Cmd) (j : Job) (k : IkCmd) : Mach × Except (Option (Nat × Nat)) Unit :=
  let n := (k.whole c).2
  let recs := k.records n
  let w := if c.ikReplay then (m, .ok ()) else m.ikWrite j c.job c.id c.ikJournal (recs.flatMap (journalBytes c))
  match w.2 with
  | .error e => (w.1, .error e)
  | .ok _ => w.1.ikWrite j c.job c.id c.ikState (stateBytes c k n recs)

/-- Whether every write of a command has reached its home. -/
def Mach.ikHome (m : Mach) (c : Cmd) : Bool := sget 0 c.id m.js.outst == 0

/-- One stage of a batch's end: outputs, then records, then the completion, each once what is before it is home. -/
def Mach.ikAdvance (m : Mach) (id : Nat) : Mach :=
  match m.ik.run.find? (fun k => k.id == id), m.cmdOf id with
  | some k, some c =>
    (match m.job? c.job, c.status with
     | none, _ => m
     | _, some _ => m
     | some j, none =>
       if !(k.whole c).1 || !m.ikHome c then m
       else if k.stage = 0 then
         let w := m.ikOutputs c j k
         match w.2 with
         | .ok _ => w.1.ikPut { k with stage := 1 }
         | .error e => w.1.ikEnd c e
       else if k.stage = 1 then
         let w := m.ikRecords c j k
         match w.2 with
         | .ok _ => w.1.ikPut { k with stage := 2 }
         | .error e => w.1.ikEnd c e
       else if !m.waitsTurn c then m.finish c 0 0 0 false else m)
  | _, _ => m

/-- The running command of a job and stream. -/
def Mach.ikNamed (m : Mach) (job stream : Nat) : Option IkCmd :=
  m.ik.run.find? (fun k => match m.cmdOf k.id with
    | some c => c.job == job && c.ikStream == stream
    | none => false)

/-- INTAKE_BATCH_COMPLETE (R288, R300, R302). -/
def execIntakeBatchComplete (job : Fin 64) (stream : BitVec 16) (s : State) : Host.Outcome State Fault Refusal :=
  s.act (fun m =>
    match m.ikNamed job.val stream.toNat with
    | none => m
    | some k => (((m.ikSettle k.id).ikAdvance k.id).ikAdvance k.id).ikAdvance k.id)

end Sys2Proof.Machine
end

