-- ==== Sys2Proof/Machine/Seaward.lean ====
section
/-!
DEFINITION. The seaward fabric: eye safety, lanes and ports, the capability message, flits and forwarding, the membership
table and the connection contexts (R305 to R320).
-/

namespace Sys2Proof.Machine

/-! Eye safety (R308, R309) -/

/-- Whether connector `c` reads present: its bit of LH_FRONT_STATE.CONN (R456). -/
def connBit (c : Nat) : Fld := ⟨Reg.LH_FRONT_STATE, c, 1⟩

/-- CONNECTOR_UNPLUG (R308). -/
def execConnectorUnplug (c : Fin 8) (s : State) : Host.Outcome State Fault Refusal :=
  s.act (fun m =>
    (m.fset (connBit c.val) 0).lanesOut 3 (portLanes c.val))

/-- CONNECTOR_PLUG (R309). -/
def execConnectorPlug (c : Fin 8) (s : State) : Host.Outcome State Fault Refusal :=
  s.act (fun m => m.fset (connBit c.val) 1)

/-- LOSS_OF_LIGHT (R308): a receiver dark for 1 ms while its connector reads present. -/
def execLossOfLight (l : Fin 64) (s : State) : Host.Outcome State Fault Refusal :=
  s.act (fun m => if m.flag (connBit (l.val / 8)) then m.laneOut l.val 2 else m)

/-- Whether a lane stands darkened under R308. -/
def Mach.darkened (m : Mach) (l : Nat) : Bool :=
  m.fget (Reg.SW_LANE_STATE l) == 3 && (m.fget (Reg.SW_LANE_CAUSE l) == 2 || m.fget (Reg.SW_LANE_CAUSE l) == 3)

/-- PROBE_PULSE (R309): the lane's own pulse every 100 ms, or the far end's, received. -/
def execProbePulse (l : Fin 64) (heard : Bool) (s : State) : Host.Outcome State Fault Refusal :=
  s.act (fun m =>
    if !m.darkened l.val then m
    else if heard then m.setSw { m.sw with probed := sset false l.val true m.sw.probed }
    else m.emit (.fabric (l.val / 8) [0, l.val] []))

/-- LANE_RELIGHT (R309): its connector has read present for 500 ms and the far probe was received, so the lane retrains. -/
def execLaneRelight (l : Fin 64) (s : State) : Host.Outcome State Fault Refusal :=
  s.act (fun m =>
    if m.darkened l.val ∧ m.flag (connBit (l.val / 8)) ∧ sget false l.val m.sw.probed then
      (m.setSw { m.sw with probed := sset false l.val false m.sw.probed }).fset (Reg.SW_LANE_STATE l.val) 1
    else m)

/-! The capability message (R307, R325) -/

/-- Note an election key heard, and drop those older than 5 ms (R325). -/
def Mach.hearKey (m : Mach) (k : Nat) : Mach :=
  let rest := m.td.keys.filter (fun e => e.1 != k && decide (m.ns ≤ e.2 + 5000000))
  m.setTd { m.td with keys := (k, m.ns) :: rest }

/-- A key as a number: role code, then identity; a lower key ranks first (R325). -/
def ElectKey.num (k : ElectKey) : Nat := k.role.toNat * 2 ^ 48 + k.id.toNat

/-- A port comes up at version 1 on its lanes, its sequence begun anew (R307, R310). -/
def Mach.fabricUp (m : Mach) (p lanes : Nat) : Mach :=
  (((m.fset (Reg.SW_PORT_MODE p) 0).fset (Reg.SW_PORT_VERSION p) 1).fset (Reg.SW_PORT_LANES p) lanes).setSw { m.sw with
    next := sset 0 p 0 m.sw.next
    sendSeq := sset 0 p 0 m.sw.sendSeq
    replay := sset [] p [] m.sw.replay
    stripe := m.sw.stripe.filter (fun q => q != p) }

/-- A port's capability message: it runs at version 1 where both ends implement it and belong to one reach. -/
def Mach.fabricCapability (m : Mach) (p lo hi id reach key : Nat) : Mach :=
  if m.ethPort p ∨ m.lanesActive p = 0 then m
  else
    let m1 := (m.fset (Reg.SW_PEER_IDENTITY p) id).hearKey key
    if lo ≤ 1 ∧ 1 ≤ hi then
      if reach = m.fget Reg.SW_CFG_REACH_ID then m1.fabricUp p (m.lanesActive p)
      else (m1.portDown p).logE 0x0B 0 p noJob 0
    else (m1.portDown p).logE 0x0B 0x0202 p noJob 0

/-- FABRIC_CAPABILITY (R307). -/
def execFabricCapability (p : Fin 8) (lo hi : BitVec 4) (id : BitVec 48) (reach : BitVec 32) (key : ElectKey)
    (s : State) : Host.Outcome State Fault Refusal :=
  s.act (fun m => m.fabricCapability p.val lo.toNat hi.toNat id.toNat reach.toNat (ElectKey.num key))

/-! Flits (R310, R311, R315) -/

/-- An event on a lane: the THRESH-th within WINDOW of the first of the THRESH − 1 before it retires the lane (R311). -/
def Mach.laneEvent (m : Mach) (l : Nat) : Mach :=
  let m1 := (m.fadd (Reg.SW_LANE_EVENTS l) 1).fadd (Reg.SW_LANE_CRC_FAIL l) 1
  let past := sget [] l m1.sw.hits
  let first := past[m1.fget Reg.SW_FAULT_CFG_THRESH - 2]?
  let lasting := match first with
    | some t => decide (m1.now ≤ t + m1.fget Reg.SW_FAULT_CFG_WINDOW * 1000000)
    | none => false
  let m2 := m1.setSw { m1.sw with hits := sset [] l ((m1.now :: past).take 254) m1.sw.hits }
  if lasting then m2.laneOut l 1 else m2

/-- A message an accepted flit brought: for this rank it has arrived, which the trace shows as port 8; for another it is
forwarded by this module's own table, or dropped beyond 32 hops and counted. -/
def Mach.forward (m : Mach) (g : FabMsg) : Mach :=
  if m.sw.table.isEmpty then m
  else if g.dest.toNat = m.fget Reg.SW_SELF_RANK then m.emit (.fabric 8 [3, g.dest.toNat, g.hops, g.tag.toNat] g.data)
  else if 32 < g.hops + 1 then m.fadd Reg.SW_FAB_CNT_LOOPED 1
  else m.sendTagged g.dest.toNat g.tag.toNat 0 none [3, g.dest.toNat, g.hops + 1, g.tag.toNat] g.data

/-- What the far end answers: a cumulative acknowledgement, by which the replay buffer lets the flits through that number go, or a
refusal, by which the flits from that number on leave again (R310). -/
def Mach.flitReply (m : Mach) (p : Nat) : Option (BitVec 12 × Bool) → Mach
  | none => m
  | some (n, ack) =>
    let kept := sget [] p m.sw.replay
    let from_ := kept.dropWhile (fun f => f.seq != n.toNat)
    if from_.isEmpty then m
    else if ack then m.setSw { m.sw with replay := sset [] p (from_.drop 1) m.sw.replay }
    else from_.foldl (fun a f => a.emit (.fabric p (12 :: f.seq :: f.words) f.data)) m

/-- A flit arrives: the one next in sequence is accepted and acknowledged, or refused, charged to its lane and replayed. -/
def Mach.fabricFlit (m : Mach) (p seq l : Nat) (ok : Bool) (msg : Option FabMsg) (reply : Option (BitVec 12 × Bool)) : Mach :=
  if !m.portOpen p ∨ l / 8 ≠ p ∨ m.fget (Reg.SW_LANE_STATE l) ≠ 2 then m
  else if !ok then (m.laneEvent l).emit (.fabric p [2, 1, sget 0 p m.sw.next] [])
  else if seq ≠ sget 0 p m.sw.next then m
  else
    let m1 := ((m.setSw { m.sw with next := sset 0 p ((seq + 1) % 4096) m.sw.next }).emit (.fabric p [2, 0, seq] [])).flitReply p reply
    match msg with
    | some g => m1.forward g
    | none => m1

/-- FABRIC_FLIT (R310, R311, R315). -/
def execFabricFlit (p : Fin 8) (seq : BitVec 12) (lane : Fin 64) (ok : Bool) (load : FlitLoad) (s : State) :
    Host.Outcome State Fault Refusal :=
  s.act (fun m => m.fabricFlit p.val seq.toNat lane.val ok load.msg load.reply)

/-- RESTRIPE (R312): the port runs on its remaining lanes, or is down; the flits it held go on, by another port where it is down. -/
def execRestripe (p : Fin 8) (s : State) : Host.Outcome State Fault Refusal :=
  s.act (fun m =>
    if !m.sw.stripe.contains p.val then m
    else
      let m1 := m.setSw { m.sw with stripe := m.sw.stripe.filter (fun q => q != p.val) }
      let n := m1.lanesActive p.val
      (if n = 0 then m1.portDown p.val else m1.fset (Reg.SW_PORT_LANES p.val) n).txServe)

/-- A PORT_DOWN notice (R316, R371): counted for the risk score while 10 minutes have not passed, and flooded on. DEDUCED: log entry 38. -/
def Mach.portNotice (m : Mach) (source lost : Nat) : Mach :=
  let keep := m.sw.notices.filter (fun t => decide (m.now < t + 600000000000))
  (m.setSw { m.sw with notices := m.now :: keep }).flood none [4, source, lost] []

/-! Lane commands (R312, R313, R340) -/

/-- LANE_RETIRE (R312). -/
def execLaneRetire (a : Agent) (l : Fin 64) (s : State) : Host.Outcome State Fault Refusal :=
  s.act (fun m => m.owned a Reg.SW_LANE_CMD (fun x =>
    if x.flag Reg.SW_LANE_STATUS_BUSY then x else (x.laneOut l.val 5).fset Reg.SW_LANE_STATUS_STATUS 0))

/-- LANE_RESTORE (R312). -/
def execLaneRestore (a : Agent) (l : Fin 64) (s : State) : Host.Outcome State Fault Refusal :=
  s.act (fun m => m.owned a Reg.SW_LANE_CMD (fun x =>
    if x.flag Reg.SW_LANE_STATUS_BUSY then x
    else if x.fget (Reg.SW_LANE_STATE l.val) ≠ 3 then x.fset Reg.SW_LANE_STATUS_STATUS 0x0101
    else
      ((x.setSw { x.sw with restoring := some l.val }).fset (Reg.SW_LANE_STATE l.val) 1).fset Reg.SW_LANE_STATUS_BUSY 1))

/-- The status codes that say a command failed (R145). -/
def failCodes : List Nat := [
  0x0101, 0x0102, 0x0103, 0x0104, 0x0201, 0x0202, 0x0203, 0x0204, 0x0205, 0x0206, 0x0207, 0x0208, 0x0209, 0x0301, 0x0302, 0x0303,
  0x0304, 0x0401, 0x0402, 0x0403, 0x0404, 0x0405, 0x0406, 0x0501, 0x0502, 0x0503, 0x0504, 0x0601, 0x0602, 0x0603, 0x0604, 0x0605,
  0x0606, 0x0701, 0x0702, 0x0703, 0x0704, 0x0705, 0x0706, 0x0801, 0x0802, 0x0803, 0x0804, 0x0805, 0x0806, 0x0F01, 0x0F02, 0x0F03]

/-- LANE_RETRAINED (R312): a lane in training joins its port at the next agreed flit boundary, or retires when training
failed; the status of a RESTORE whose training failed is free. DEDUCED: log entry 38. -/
def Mach.laneRetrained (m : Mach) (l : Nat) (ok : Bool) : Mach :=
  if m.fget (Reg.SW_LANE_STATE l) ≠ 1 then m
  else
    let mine := decide (m.sw.restoring = some l)
    let k := m.fresh
    let m0 := if mine then ((k.2.setSw { m.sw with restoring := none }).fset Reg.SW_LANE_STATUS_BUSY 0).fset
        Reg.SW_LANE_STATUS_STATUS (if ok then 0 else failCodes.getD ((Config.openWord 7 k.1).toNat % failCodes.length) 0x0F02) else m
    if ok then
      let m1 := ((m0.fset (Reg.SW_LANE_STATE l) 2).fset (Reg.SW_LANE_CAUSE l) 0).logE 0x0A 0 l noJob 0
      m1.fset (Reg.SW_PORT_LANES (l / 8)) (m1.lanesActive (l / 8))
    else m0.laneOut l 6

/-- LANE_RETRAINED (R309, R312). -/
def execLaneRetrained (l : Fin 64) (ok : Bool) (s : State) : Host.Outcome State Fault Refusal :=
  s.act (fun m => m.laneRetrained l.val ok)

/-- LASER_BAY_FAULT (R313): the bay's 16 lanes retire and its two ports go down. -/
def Mach.bayFault (m : Mach) (b : Nat) : Mach :=
  ((m.lanesOut 4 ((List.range 16).map (fun i => 16 * b + i))).portDown (2 * b)).portDown (2 * b + 1)

/-- LASER_BAY_FAULT (R313). -/
def execLaserBayFault (b : Fin 4) (s : State) : Host.Outcome State Fault Refusal := s.act (fun m => m.bayFault b.val)

/-! Membership (R314) -/

/-- Status of an entry of the membership table: version, reserved bits, then its route and identity. The entry of the
module's own rank has no route. DEDUCED: log entry 39. -/
def Mach.memberBad (m : Mach) (rank r : Nat) (w0 w1 : Word) : Option Nat :=
  let a := bits w1 0 4
  let b := bits w1 4 4
  let h := bits w1 8 5
  if bits w1 60 4 ≠ 1 then some 0x0202
  else if reservedSet w0 [(0, 48)] ∨ reservedSet w1 [(0, 13), (60, 4)] then some 0x0201
  else if r ≠ rank ∧ ((8 ≤ a ∧ a < 15) ∨ (8 ≤ b ∧ b < 15) ∨ h = 0 ∨ bits w0 0 48 = m.ident) then some 0x0204
  else none

/-- First status of a table's entries from rank `r` on. -/
def Mach.membersBad (m : Mach) (rank : Nat) : Nat → List Word → Option Nat
  | r, w0 :: w1 :: rest =>
    match m.memberBad rank r w0 w1 with
    | some st => some st
    | none => m.membersBad rank (r + 1) rest
  | _, _ => none

/-- The outcome of reading the table: its words, or the status that refuses it; none while the read waits. -/
def Mach.membership (m : Mach) (rank size : Nat) : Mach × Option (Except Nat (List Word)) :=
  let base := m.fget Reg.SW_RANK_BASE_BASE * 4096
  if size = 0 ∨ 4096 < size ∨ size ≤ rank then (m, some (.error 0x0204))
  else if !inStackOrShelf base (16 * size) then (m, some (.error 0x0206))
  else
    let t := m.hubWords 26 base (2 * size)
    (t.1, t.2.map (fun (d : List Word × Bool) =>
      if d.2 then .error 0x0304
      else
        match m.membersBad rank 0 d.1 with
        | some st => .error st
        | none => .ok d.1))

/-- MEMBERSHIP_LOAD (R314): SW_SELF written with EN = 1. -/
def execMembershipLoad (a : Agent) (rank : BitVec 12) (size : BitVec 13) (s : State) : Host.Outcome State Fault Refusal :=
  s.act (fun m => m.owned a Reg.SW_SELF (fun x =>
    let x1 := ((x.fset Reg.SW_SELF_RANK rank.toNat).fset Reg.SW_SELF_SIZE size.toNat).fset Reg.SW_SELF_EN 1
    let r := x1.membership rank.toNat size.toNat
    match r.2 with
    | none => r.1.anew (.membershipLoad a rank size)
    | some (.ok t) => (r.1.setSw { r.1.sw with table := t }).fset Reg.SW_SELF_STATUS 0
    | some (.error st) => (r.1.setSw { r.1.sw with table := [] }).fset Reg.SW_SELF_STATUS st))

/-! Connection contexts (R317, R318) -/

/-- Fields of a context entry's words (R9, R317). -/
def ctxFields (i : Nat) : List (Nat × Nat) :=
  if i = 0 then [(0, 38)] else if i = 1 then [(16, 36)] else if i = 2 then [(0, 24)] else if i = 7 then [(60, 4)] else []

/-- The checks of OPEN on an entry's words and whether they are poisoned, in the order of R318: the number and context allocated, or a
status. DEDUCED: log entry 39. -/
def Mach.openCheck (m : Mach) (ws : List Word) (bad : Bool) : Except Nat (Nat × SwCtx) :=
    let w := wd ws
    if bad then .error 0x0304
    else if bits (w 7) 60 4 ≠ 1 then .error 0x0202
    else if (List.range 8).any (fun i => reservedSet (w i) (ctxFields i)) then .error 0x0201
    else
      match m.job? (bits (w 0) 0 6) with
      | none => .error 0x0101
      | some j =>
        let peer := bits (w 0) 6 12
        let base := bits (w 1) 16 36 * 65536
        let units := bits (w 2) 0 24
        if m.fget Reg.SW_SELF_SIZE ≤ peer ∨ peer = m.fget Reg.SW_SELF_RANK then .error 0x0204
        else if units = 0 ∨ !inStackOrShelf base (units * 65536) then .error 0x0206
        else if !j.keyAllowed (bits (w 0) 32 6) then .error 0x0403
        else
          match (List.range 16384).find? (fun c => (m.ctx c).isNone) with
          | none => .error 0x0704
          | some c => .ok (c, ⟨bits (w 0) 0 6, peer, bits (w 0) 18 14, bits (w 0) 32 6, base, units, 0, 0, [], false, false⟩)

/-- OPEN (R318, R340). -/
def execOpenCtx (a : Agent) (s : State) : Host.Outcome State Fault Refusal :=
  s.act (fun m => m.owned a Reg.SW_CTX_CMD (fun x =>
    if x.flag Reg.SW_CTX_STATUS_BUSY then x
    else
      let pa := x.fget Reg.SW_CTX_ARG_ENTRY
      if pa % 64 ≠ 0 ∨ !inStackOrShelf pa 64 then x.fset Reg.SW_CTX_STATUS_STATUS 0x0206
      else
        let r := x.hubWords 26 pa 8
        match r.2 with
        | none => r.1.anew (.openCtx a)
        | some d =>
          match r.1.openCheck d.1 d.2 with
          | .error st => r.1.fset Reg.SW_CTX_STATUS_STATUS st
          | .ok (c, v) => ((r.1.setCtx c (some v)).fset Reg.SW_CTX_STATUS_CTX c).fset Reg.SW_CTX_STATUS_STATUS 0))

/-- A context whose sends in flight have completed is freed, and CLOSE is done (R318). -/
def Mach.ctxFree (m : Mach) (c : Nat) : Mach :=
  match m.ctx c with
  | none => m
  | some x =>
    if x.closing ∧ x.sends.isEmpty then
      ((m.setCtx c none).fset Reg.SW_CTX_STATUS_STATUS 0).fset Reg.SW_CTX_STATUS_BUSY 0
    else m

/-- CLOSE (R318): of a context that is not open it completes with 0x0101. -/
def execCloseCtx (a : Agent) (ctx : BitVec 14) (s : State) : Host.Outcome State Fault Refusal :=
  s.act (fun m => m.owned a Reg.SW_CTX_CMD (fun x =>
    if x.flag Reg.SW_CTX_STATUS_BUSY then x
    else
      match x.ctx ctx.toNat with
      | none => x.fset Reg.SW_CTX_STATUS_STATUS 0x0101
      | some v =>
        if v.closing then x.fset Reg.SW_CTX_STATUS_STATUS 0x0101
        else (x.setCtx ctx.toNat (some { v with closing := true })).fset Reg.SW_CTX_STATUS_BUSY 1))

/-- CLOSE_COMPLETE (R318). -/
def execCloseComplete (ctx : BitVec 14) (s : State) : Host.Outcome State Fault Refusal :=
  s.act (fun m => m.ctxFree ctx.toNat)

/-! Remote writes (R319, R320) -/

/-- A message is refused: it writes nothing, and it is counted. The answer tells the sender why: 1 outside the region. DEDUCED: log entry 40. -/
def Mach.rwRefuse (m : Mach) (g : RwMsg) (range : Bool) : Mach :=
  (m.fadd Reg.SW_FAB_CNT_REFUSED 1).sendTo g.rank.toNat
    [7, g.rank.toNat, g.ctx.toNat, g.num, if range then 1 else 0] []

/-- A message in its turn is written to the receive region under the context's key, and acknowledged once it is home (R319). -/
def Mach.rwTake (m : Mach) (c : Nat) (x : SwCtx) (g : RwMsg) : Mach :=
  let id := m.js.nextId
  let r : SwRecv := ⟨id, c, g.num, x.job, g.sig⟩
  let m2 := { m with
    js := { m.js with nextId := id + 1 }
    sw := { m.sw with recv := m.sw.recv ++ [r] } }
  (m2.ncWrite none (some ⟨id, 0⟩) (m2.keyId x.rkey) (x.base + g.off) g.data).rwHome

/-- A remote-write message arrives for a context: the next of its connection is written under RKEY, and refused outside the
receive region; one that came before is acknowledged again, and one ahead of its turn is not taken. -/
def Mach.remoteWrite (m : Mach) (c : Nat) (g : RwMsg) : Mach :=
  match m.ctx c with
  | none => m.rwRefuse g false
  | some x =>
    if x.closing ∨ x.peer ≠ g.rank.toNat ∨ x.peerCtx ≠ g.ctx.toNat then m.rwRefuse g false
    else if g.num < x.rxNext then
      if m.sw.recv.any (fun r => r.ctx == c && decide (r.num ≤ g.num)) then m
      else m.sendTo x.peer [6, x.peer, x.peerCtx, g.num] []
    else if x.rxNext < g.num then m
    else
      let m1 := m.setCtx c (some { x with rxNext := x.rxNext + 1 })
      if x.units * 65536 < g.off + g.data.length then m1.rwRefuse g true else m1.rwTake c x g

/-- REMOTE_WRITE (R319, R320). -/
def execRemoteWrite (ctx : BitVec 14) (msg : RwMsg) (s : State) : Host.Outcome State Fault Refusal :=
  s.act (fun m => m.remoteWrite ctx.toNat msg)

/-- The sends of a list have ended with a status; 0 says their data is home. -/
def Mach.sendsDone (m : Mach) (status : Nat) : List SwSend → Mach
  | [] => m
  | s :: rest => (m.accessDone (s.cmd.map (fun (c : Nat) => (⟨c, 0⟩ : AccRef))) (status != 0) status).sendsDone status rest

/-- A cumulative acknowledgement through a message number (R319): the remote writes through it have reached their home. Where
the receiver refused message `num`, that one ends with 0x0206 (outside the region) or 0x0504 (R320). -/
def Mach.rwAck (m : Mach) (c num : Nat) (refused : Option Bool) : Mach :=
  match m.ctx c with
  | none => m
  | some x =>
    if x.failed then m
    else
      let done := x.sends.filter (fun s => decide (s.num < num) || (s.num == num && refused.isNone))
      let bad := x.sends.filter (fun s => s.num == num && refused.isSome)
      let rest := x.sends.filter (fun s => decide (num < s.num))
      let m1 := m.setCtx c (some { x with sends := rest })
      (m1.sendsDone 0 done).sendsDone (if refused = some true then 0x0206 else 0x0504) bad

/-- REMOTE_WRITE_ACK (R319, R320). -/
def execRemoteWriteAck (ctx : BitVec 14) (num : Nat) (refused : Option Bool) (s : State) :
    Host.Outcome State Fault Refusal :=
  s.act (fun m => m.rwAck ctx.toNat num refused)

/-- Send a message of a connection again, unless it still waits to leave (R319, R334). -/
def Mach.resend (m : Mach) (c : Nat) (x : SwCtx) (k : SwSend) : Mach :=
  let ws := k.words x (m.fget Reg.SW_SELF_RANK) c
  if m.sw.queue.any (fun e => e.conn == some c && e.words == ws) then m else m.sendTagged x.peer k.tag k.slot (some c) ws k.data

/-- RESEND_TIMEOUT (R319): 100 µs after it was sent, the first unacknowledged message and those after it are sent again. -/
def execResendTimeout (ctx : BitVec 14) (s : State) : Host.Outcome State Fault Refusal :=
  s.act (fun m =>
    match m.ctx ctx.toNat with
    | none => m
    | some x =>
      if x.failed then m
      else x.sends.foldl (fun a (k : SwSend) => a.resend ctx.toNat x k) m)

/-- The connection has made no progress for 1 ms (R319): its unacknowledged writes complete with 0x0504, and it refuses new
sends until it is closed and opened again. -/
def Mach.ctxFail (m : Mach) (c : Nat) : Mach :=
  match m.ctx c with
  | none => m
  | some x =>
    if x.failed || x.sends.isEmpty then m
    else
      let m1 := m.setSw { m.sw with queue := m.sw.queue.filter (fun e => e.conn != some c) }
      (m1.setCtx c (some { x with
        sends := []
        failed := true })).sendsDone 0x0504 x.sends

end Sys2Proof.Machine
end

