-- ==== Sys2Proof/Machine/Collective.lean ====
section
/-!
DEFINITION. Collectives (R342 to R360): the command and its checks, groups, the reduction orders of RING, DBTREE and PAIRWISE,
compression and error feedback, messages, the flag round, PUT and COMMIT.
-/

namespace Sys2Proof.Machine

def Mach.setCl (m : Mach) (c : ClSt) : Mach := { m with cl := c }

/-! The command body (R345) -/

def Cmd.clOp (c : Cmd) : Nat := c.bf 0 0 4
def Cmd.clAlg (c : Cmd) : Nat := c.bf 0 4 8
def Cmd.clSty (c : Cmd) : Nat := c.bf 0 12 4
def Cmd.clDty (c : Cmd) : Nat := c.bf 0 16 4
def Cmd.clRop (c : Cmd) : Nat := c.bf 0 20 2
def Cmd.clLast (c : Cmd) : Bool := c.bf 0 24 1 == 1
def Cmd.clDies (c : Cmd) : List Nat := (List.range 4).filter (fun d => c.bf 0 (25 + d) 1 == 1)
def Cmd.clTag (c : Cmd) : Nat := c.bf 0 29 4
def Cmd.clComp (c : Cmd) : Nat := c.bf 0 33 2
def Cmd.clCount (c : Cmd) : Nat := c.bf 1 0 40
def Cmd.clGroup (c : Cmd) : Nat := c.bf 2 0 57
def Cmd.clSrc (c : Cmd) (d : Nat) : Nat := c.bf (3 + d) 0 57
def Cmd.clDst (c : Cmd) : Nat := c.bf 7 0 57
def Cmd.clResid (c : Cmd) : Nat := c.bf 8 0 57
def Cmd.clPend (c : Cmd) : Nat := c.bf 9 0 57
def Cmd.clMap (c : Cmd) : Nat := c.bf 10 0 57
def Cmd.clRoot (c : Cmd) : Nat := c.bf 11 0 12
/-- A reduction: ALLREDUCE or REDUCESCATTER. -/
def Cmd.clReduces (c : Cmd) : Bool := c.clOp == 1 || c.clOp == 2
/-- An operation among a group: all but PUT and COMMIT. -/
def Cmd.clGrouped (c : Cmd) : Bool := decide (c.clOp ≤ 5)
/-- The algorithm without its local stage. -/
def Cmd.clBase (c : Cmd) : Nat := c.clAlg % 16

/-- Bits of an element of the destination: DTYPE for a reduction, else the source's. -/
def Cmd.clDcode (c : Cmd) : Nat := if c.clReduces then c.clDty else c.clSty

/-- Buckets of the contribution (R353). -/
def Cmd.clBuckets (c : Cmd) : Nat := (c.clCount + 4095) / 4096

/-- Fields of body word `i` (R345). -/
def clFields (i : Nat) : List (Nat × Nat) :=
  if i = 0 then [(0, 48)]
  else if i = 1 ∨ i = 12 then [(0, 40)]
  else if i ≤ 10 then [(0, 57)]
  else if i = 11 then [(0, 26)]
  else if i = 13 then [(0, 9), (16, 48)]
  else if i = 23 then [(60, 4)]
  else []

/-- Fields that are zero where the operation does not use them (R145, R345, R354), and sources of dies that DIES does not name. -/
def Cmd.clUnused (c : Cmd) : Bool :=
  (c.clOp != 5 && c.clRoot != 0) ||
  (!c.clReduces && (c.clRop != 0 || (List.range 3).any (fun d => c.clSrc (1 + d) != 0))) ||
  (c.clComp != 1 && c.clComp != 3 && c.bf 0 35 13 != 0) ||
  (!c.clGrouped && (c.clGroup != 0 || c.clDst != 0 || c.bf 0 12 13 != 0)) ||
  (c.clOp == 7 && (c.clSrc 0 != 0 || c.clTag != 0)) ||
  (c.clOp != 6 && (c.bf 11 12 14 != 0 || (wd c.body 12).toNat != 0 || (wd c.body 13).toNat != 0)) ||
  (c.clComp != 3 && c.clMap != 0) ||
  (c.clComp == 0 && c.clOp != 7 && (c.clResid != 0 || c.clPend != 0)) ||
  (c.clReduces && (List.range 4).any (fun d => !c.clDies.contains d && c.clSrc d != 0))

/-- Algorithms allowed for an operation (R347). -/
def algAllowed (op alg : Nat) : Bool :=
  if op = 1 then [0x01, 0x02, 0x03, 0x11, 0x12, 0x13].contains alg
  else if op = 2 then [0x01, 0x03, 0x11, 0x13].contains alg
  else if op = 3 then [0x01, 0x03].contains alg
  else if op = 4 then alg == 0x03
  else if op = 5 then alg == 0x01
  else alg == 0x00

/-- The checks of R346 up to its codes; the map's entries follow. -/
def Cmd.clCheck1 (c : Cmd) : Option Nat :=
  if c.bf 23 60 4 ≠ 1 then some 0x0202
  else if (List.range 24).any (fun i => reservedSet (wd c.body i) (clFields i)) ∨ c.clUnused then some 0x0201
  else if c.clOp = 0 ∨ 7 < c.clOp ∨ c.clRop = 3 ∨ !algAllowed c.clOp c.clAlg ∨
      (c.clOp ≤ 5 ∧ (11 < c.clSty ∨ 11 < c.clDty)) then some 0x0203
  else none

/-- Sources a command reads: address and bytes. -/
def Cmd.clSources (c : Cmd) : List (Nat × Nat) :=
  if c.clReduces then c.clDies.map (fun d => (c.clSrc d, (c.clCount * memBits c.clSty + 7) / 8))
  else if c.clOp = 6 then [(c.clSrc 0, c.clCount)]
  else if c.clOp = 7 then [(c.clPend, c.clCount * 4)]
  else [(c.clSrc 0, (c.clCount * memBits c.clSty + 7) / 8)]

/-- Buffers a command reads beside its sources. -/
def Cmd.clAside (c : Cmd) : List (Nat × Nat) :=
  (if c.clComp ≠ 0 then [(c.clResid, c.clCount * 4)] else []) ++
  (if c.clComp = 3 then [(c.clMap, (c.clBuckets + 3) / 4)] else [])

/-- Buffers a command writes. -/
def Cmd.clDests (c : Cmd) : List (Nat × Nat) :=
  if c.clOp = 6 then []
  else if c.clOp = 7 then [(c.clResid, c.clCount * 4)]
  else [(c.clDst, (c.clCount * memBits c.clDcode + 7) / 8)] ++ (if c.clComp ≠ 0 then [(c.clPend, c.clCount * 4)] else [])

/-- The checks of R346 from its shapes to its alignment; the tiers and overlaps follow. -/
def Cmd.clCheck2 (c : Cmd) : Option Nat :=
  let nd := c.clDies.length
  if c.clCount = 0 ∨ (c.clReduces ∧ nd = 0) ∨ (1 < nd ∧ c.clAlg < 0x10) ∨ (!c.clReduces ∧ nd ≠ 0) then some 0x0204
  else if (c.clReduces ∧ (c.clSty < 5 ∨ 7 < c.clSty ∨ (c.clDty ≠ c.clSty ∧ c.clDty ≠ 7))) ∨
      (c.clComp ≠ 0 ∧ (!c.clReduces ∨ c.clRop ≠ 0 ∨ c.clBase ≠ 3 ∨ c.clSty = 6)) ∨ (c.clOp = 7 ∧ c.cond ≠ 1) then some 0x0205
  else if (c.clSources ++ c.clAside ++ c.clDests).any (fun b => b.1 % 256 != 0) ∨ (c.clGrouped ∧ c.clGroup % 64 ≠ 0) then
    some 0x0206
  else none

/-- Whether a written range meets a source. -/
def Cmd.clOverlap (c : Cmd) : Bool :=
  let meets (a b : Nat × Nat) : Bool := decide (a.1 < b.1 + b.2) && decide (b.1 < a.1 + a.2)
  let resid := if c.clComp ≠ 0 then [(c.clResid, c.clCount * 4)] else []
  (c.clDests ++ resid).any (fun w => c.clSources.any (meets w)) || c.clDests.any (fun w => c.clAside.any (meets w))

/-! Attempts by virtual address at position 16 -/

/-- How an attempt went: its result, or an end with a status and an address; `none` waits. -/
def Mach.clTry {α : Type} (jn : Nat) (r : Mach × Except XStop α) : Mach × Except (Option (Nat × Nat)) α :=
  match r.2 with
  | .ok a => (r.1, .ok a)
  | .error x =>
    let va := match x with
      | .status _ v => v
      | .fault v _ _ => v
      | .wait | .landward _ => 0
    let q := r.1.agentStop 16 jn x
    (q.1, .error (q.2.map (fun st => (st, va))))

def Mach.clRead (m : Mach) (j : Job) (jn va n : Nat) : Mach × Except (Option (Nat × Nat)) (List Byte) :=
  if n = 0 then (m, .ok []) else Mach.clTry jn (m.agentRead 16 j va n)

def Mach.clWrite (m : Mach) (j : Job) (jn cmd va : Nat) (bs : List Byte) : Mach × Except (Option (Nat × Nat)) Unit :=
  if bs.isEmpty then (m, .ok ()) else Mach.clTry jn (m.agentWrite j (some cmd) va bs)

/-- Read several ranges. DEDUCED: log entry 43. -/
def Mach.clReads (m : Mach) (j : Job) (jn : Nat) : List (Nat × Nat) → Mach × Except (Option (Nat × Nat)) (List (List Byte))
  | [] => (m, .ok [])
  | (va, n) :: rest =>
    let a := m.clRead j jn va n
    match a.2 with
    | .error e => (a.1, .error e)
    | .ok d =>
      let b := a.1.clReads j jn rest
      match b.2 with
      | .error e => (b.1, .error e)
      | .ok ds => (b.1, .ok (d :: ds))

/-- Tiers of a list of buffers (R346): none in the host range, a written one not in Shingle. -/
def Mach.clTier (m : Mach) (j : Job) (jn : Nat) (wr : Bool) : List (Nat × Nat) → Mach × Except (Option (Nat × Nat)) Unit
  | [] => (m, .ok ())
  | (va, n) :: rest =>
    let t := Mach.clTry jn (m.agentRange j va n (if wr then .write else .read))
    match t.2 with
    | .error e => (t.1, .error e)
    | .ok ps =>
      if ps.any (fun p => decide (tierOf p.pa = .host) || (wr && decide (tierOf p.pa = .shingle))) then
        (t.1, .error (some (0x0206, 0)))
      else t.1.clTier j jn wr rest

/-! Elements -/

/-- Elements of a byte string, `n` of them, of the given width. -/
def unpack (w n : Nat) (bs : List Byte) : List Nat :=
  if w = 4 then (List.range n).map (fun i => (bs.getD (i / 2) 0).toNat / 16 ^ (i % 2) % 16)
  else (List.range n).map (fun i => leNat ((bs.drop (i * (w / 8))).take (w / 8)))

/-- Bytes of elements of the given width. -/
def pack (w : Nat) (es : List Nat) : List Byte :=
  if w = 4 then (List.range ((es.length + 1) / 2)).map (fun i => BitVec.ofNat 8 (es.getD (2 * i) 0 + es.getD (2 * i + 1) 0 * 16))
  else es.flatMap (fun e => leBytes (w / 8) e)

/-- One addition of a reduction, or MAX or MIN (R348): operands in the format `sf`, the result in `df`. -/
def clAdd (sf df : Fmt) (rop a b : Nat) : Nat :=
  let x := sf.decode a
  let y := sf.decode b
  (df.encode .rne false (if rop = 1 then Num.maxOf x y else if rop = 2 then Num.minOf x y else Num.add x y)).1

/-- An element turned to another format; a NaN is the canonical one (R25). -/
def clTurn (sf df : Fmt) (a : Nat) : Nat :=
  if sf = df ∧ !(sf.decode a).isNan then a else (df.encode .rne false (sf.decode a)).1

/-- Element by element, the additions of further parts onto the first, in order, the last rounded to `df`. -/
def clFoldOn (sf df : Fmt) (rop : Nat) : List Nat → List (List Nat) → List Nat
  | acc, [] => acc.map (clTurn sf df)
  | acc, [b] => List.zipWith (clAdd sf df rop) acc b
  | acc, b :: rest => clFoldOn sf df rop (List.zipWith (clAdd sf sf rop) acc b) rest

/-- The sum of several parts. -/
def clFold (sf df : Fmt) (rop : Nat) (parts : List (List Nat)) : List Nat := clFoldOn sf df rop (parts.headD []) parts.tail

/-- Elements `lo` to `hi` − 1 of a list. -/
def slice (lo hi : Nat) (xs : List Nat) : List Nat := (xs.drop lo).take (hi - lo)

/-! Compression (R353, R354) -/

/-- Indexes of the elements TOPK sends: the largest magnitudes, NaN above all, the lower index first among equals. DEDUCED: log entry 43. -/
def topk (k : Nat) (vs : List Nat) : List Nat :=
  let key := fun (i : Nat) => vs.getD i 0 % 2 ^ 31
  (((List.range vs.length).mergeSort (fun a b => decide (key b < key a) || (key a == key b && decide (a ≤ b)))).take k).mergeSort
    (fun a b => decide (a ≤ b))

/-- A TOPK value as sent, in BF16 or FP32, and as decoded to FP32. -/
def topkVal (wide : Bool) (v : Nat) : Nat × Nat :=
  if wide then (v, v) else
    let b := clTurn .fp32 .bf16 v
    (b, clTurn .bf16 .fp32 b)

/-- The scale of a SIGN bucket with an element's sign (R353); a NaN stays the canonical one (R25). -/
def signOf (b s : Nat) : Nat := if b = 1 ∧ !(Fmt.fp32.decode s).isNan then (s + 2 ^ 31) % 2 ^ 32 else clTurn .fp32 .fp32 s

/-- A bucket as sent, and its decoded values in FP32: mode 0 none, 1 TOPK, 2 SIGN. -/
def bucketSend (sf : Fmt) (mode k : Nat) (wide : Bool) (vs : List Nat) : List Byte × List Nat :=
  if mode = 1 then
    let idx := topk k vs
    (idx.flatMap (fun i => leBytes 2 i ++ leBytes (if wide then 4 else 2) (topkVal wide (vs.getD i 0)).1),
     (List.range vs.length).map (fun i => if idx.contains i then (topkVal wide (vs.getD i 0)).2 else 0))
  else if mode = 2 then
    let neg := vs.map (fun v => v / 2 ^ 31 % 2)
    let sum := reduceLanes false 0 (vs.length / 256 + 1) 0 (vs.map (fun v => v % 2 ^ 31))
    let s := (Fmt.fp32.encode .rne false (f32div (Fmt.fp32.decode sum) (.fin false vs.length 0))).1
    (pack 8 ((List.range ((vs.length + 7) / 8)).map (fun b =>
        (List.range 8).foldl (fun a t => a + neg.getD (8 * b + t) 0 * 2 ^ t) 0)) ++ leBytes 4 s,
     neg.map (fun b => signOf b s))
  else (pack sf.width (vs.map (clTurn .fp32 sf)), vs.map (fun v => clTurn sf .fp32 (clTurn .fp32 sf v)))

/-- A bucket of `n` elements decoded from the front of a byte string, and what follows it. -/
def bucketTake (sf : Fmt) (mode k : Nat) (wide : Bool) (n : Nat) (bs : List Byte) : List Nat × List Byte :=
  if mode = 1 then
    let q := if wide then 6 else 4
    let c := min k n
    let prs := (List.range c).map (fun i =>
      (leNat ((bs.drop (i * q)).take 2), leNat ((bs.drop (i * q + 2)).take (q - 2))))
    ((List.range n).map (fun i => match prs.find? (fun p => p.1 == i) with
      | some p => if wide then p.2 else clTurn .bf16 .fp32 p.2
      | none => 0), bs.drop (c * q))
  else if mode = 2 then
    let nb := (n + 7) / 8
    let s := leNat ((bs.drop nb).take 4)
    ((List.range n).map (fun i => signOf ((bs.getD (i / 8) 0).toNat / 2 ^ (i % 8) % 2) s),
     bs.drop (nb + 4))
  else ((unpack sf.width n bs).map (clTurn sf .fp32), bs.drop (n * sf.width / 8))

/-- k, and whether values are FP32, of a compressing command. -/
def Cmd.clK (c : Cmd) : Nat := c.bf 0 36 12 + 1
def Cmd.clWide (c : Cmd) : Bool := c.bf 0 35 1 == 1

/-- Elements of bucket `b`. -/
def Cmd.clBucketLen (c : Cmd) (b : Nat) : Nat := min 4096 (c.clCount - b * 4096)

/-- Modes of the buckets, from COMP or the map's bytes. -/
def Cmd.clModes (c : Cmd) (map : List Byte) : List Nat :=
  (List.range c.clBuckets).map (fun b =>
    if c.clComp = 3 then (map.getD (b / 4) 0).toNat / 4 ^ (b % 4) % 4 else c.clComp)

/-- Buckets that a range of elements meets. -/
def bucketsOf (lo hi : Nat) : List Nat :=
  if hi ≤ lo then [] else (List.range ((hi - 1) / 4096 - lo / 4096 + 1)).map (fun i => lo / 4096 + i)

/-- The decoded elements of a block from the buckets a message carries. -/
def bucketsTake (c : Cmd) (sf : Fmt) (modes : List Nat) : List Nat → List Byte → List Nat
  | [], _ => []
  | b :: rest, bs =>
    let r := bucketTake sf (modes.getD b 0) c.clK c.clWide (c.clBucketLen b) bs
    r.1 ++ bucketsTake c sf modes rest r.2

/-! Groups (R342 to R344) -/

def gcdN : Nat → Nat → Nat → Nat
  | 0, a, _ => a
  | n + 1, a, b => if b = 0 then a else gcdN n b (a % b)

/-- A group as read: members, own position, channels, strides, ranks and contexts by position. -/
structure Group where
  n : Nat
  self : Nat
  ch : Nat
  strides : List Nat
  ranks : List Nat
  ctxs : List Nat

/-- The checks of a group header (R9, R10, R342, R344). -/
def groupHead (h : List Word) : Except Nat Group :=
  let n := bits (wd h 0) 0 13
  let self := bits (wd h 0) 13 12
  let ch := bits (wd h 0) 25 3 + 1
  let s := (List.range 8).map (fun c => bits (wd h (1 + c / 4)) (c % 4 * 12) 12)
  if bits (wd h 7) 60 4 ≠ 1 then .error 0x0202
  else if reservedSet (wd h 0) [(0, 28)] ∨ reservedSet (wd h 1) [(0, 48)] ∨ reservedSet (wd h 2) [(0, 48)] ∨
      (List.range 4).any (fun i => wd h (3 + i) != 0) ∨ reservedSet (wd h 7) [(60, 4)] then .error 0x0201
  else if n = 0 ∨ 4096 < n ∨ n ≤ self then .error 0x0204
  else if (List.range 8).any (fun c =>
      let v := s.getD c 0
      if n = 1 then v != 0 else decide (c < ch) && (v == 0 || decide (n ≤ v) || gcdN 13 n v != 1)) then .error 0x0204
  else .ok ⟨n, self, ch, s, [], []⟩

/-- The checks of a group's entries, with the header's own (R344). -/
def Mach.groupCheck (m : Mach) (g : Group) (es : List Word) : Except Nat Group :=
  let ranks := es.map (fun (w : Word) => bits w 0 12)
  if es.any (fun (w : Word) => bits w 60 4 != 1) then .error 0x0202
  else if es.any (fun w => reservedSet w [(0, 26), (60, 4)]) then .error 0x0201
  else if ranks.getD g.self 0 ≠ m.fget Reg.SW_SELF_RANK ∨ ranks.eraseDups.length ≠ g.n then .error 0x0204
  else .ok { g with
    ranks := ranks
    ctxs := es.map (fun (w : Word) => bits w 12 14) }

/-- The node of a position in a tree, and back (R350). -/
def treeNode (n t i : Nat) : Nat := if t = 0 then i + 1 else n - i
def treePos (n t k : Nat) : Nat := if t = 0 then k - 1 else n - k

/-- Largest power of two that divides `k`; the number bounds the halvings. -/
def lowBit : Nat → Nat → Nat
  | 0, _ => 1
  | f + 1, k => if k % 2 = 0 ∧ k ≠ 0 then 2 * lowBit f (k / 2) else 1

/-- Halve `h` until k + h is a node. -/
def fitHalf : Nat → Nat → Nat → Nat → Nat
  | 0, h, _, _ => h
  | f + 1, h, k, n => if 1 ≤ h ∧ n < k + h then fitHalf f (h / 2) k n else h

/-- The children of node `k` (R350). -/
def treeKids (k n : Nat) : List Nat :=
  let b := lowBit 13 k
  let h := fitHalf 13 (b / 2) k n
  (if 1 < b then [k - b / 2] else []) ++ (if 1 ≤ h then [k + h] else [])

/-- The parent of node `k`, none for the root. -/
def treeParent (k n : Nat) : Option Nat := (List.range n).findSome? (fun i => if (treeKids (i + 1) n).contains k then some (i + 1) else none)

/-- Positions of the children, and the parent's, of a position in a tree. -/
def kidsOf (n t i : Nat) : List Nat := (treeKids (treeNode n t i) n).map (treePos n t)
def parentOf (n t i : Nat) : Option Nat := (treeParent (treeNode n t i) n).map (treePos n t)

/-- Successor and predecessor of a position on a channel (R343). -/
def succOn (n stride i : Nat) : Nat := (i + stride) % n
def predOn (n stride i : Nat) : Nat := (i + n - stride) % n

/-- The positions whose contexts an algorithm needs (R344), the flag round's included for a LAST collective (R358). -/
def Cmd.clNeeds (c : Cmd) (g : Group) : List Nat :=
  let base := if c.clBase = 1 then
      (List.range g.ch).flatMap (fun x => [succOn g.n (g.strides.getD x 0) g.self, predOn g.n (g.strides.getD x 0) g.self])
    else if c.clBase = 2 then
      (List.range 2).flatMap (fun t => kidsOf g.n t g.self ++ (parentOf g.n t g.self).toList)
    else List.range g.n
  let flag := if c.clLast then kidsOf g.n 0 g.self ++ (parentOf g.n 0 g.self).toList else []
  (base ++ flag).filter (fun p => p != g.self)

/-- The checks of the contexts toward some positions: a status, and the first position whose connection has failed. -/
def Mach.clContexts (m : Mach) (jn : Nat) (g : Group) : List Nat → Except Nat (Option Nat)
  | [] => .ok none
  | p :: rest =>
    match m.ctx (g.ctxs.getD p 0) with
    | none => .error 0x0208
    | some x =>
      if g.ctxs.getD p 0 = 0x3FFF ∨ x.closing ∨ x.job ≠ jn ∨ x.peer ≠ g.ranks.getD p 0 then .error 0x0208
      else if x.units < 32 then .error 0x0204
      else
        match m.clContexts jn g rest with
        | .error e => .error e
        | .ok f => .ok (if x.failed then some p else f)

/-! Blocks (R349) -/

/-- First element of block `i` of `count` elements in `n` blocks. -/
def blockLo (n count i : Nat) : Nat := i * count / n

/-- Elements of part `x` of a range that `ch` channels share. -/
def partLo (lo hi ch x : Nat) : Nat := lo + x * (hi - lo) / ch

/-- The range of block `i`'s part for a channel; BROADCAST has one block, the whole. -/
def ClRun.part (r : ClRun) (c : Cmd) (i x : Nat) : Nat × Nat :=
  let lo := if c.clOp = 5 then 0 else blockLo r.n c.clCount i
  let hi := if c.clOp = 5 then c.clCount else blockLo r.n c.clCount (i + 1)
  (partLo lo hi r.ch x, partLo lo hi r.ch (x + 1))

def ClRun.block (r : ClRun) (c : Cmd) (i : Nat) : Nat × Nat := (blockLo r.n c.clCount i, blockLo r.n c.clCount (i + 1))

/-- The elements of a tree (R350). -/
def treeRange (count t : Nat) : Nat × Nat := if t = 0 then (0, count / 2) else (count / 2, count)

/-- Successor on a channel. -/
def ClRun.succ (r : ClRun) (x : Nat) : Nat := succOn r.n (r.strides.getD x 0) r.self

/-! Messages (R355) -/

/-- SEG of a message: phase 0 partial sums, 1 finished elements, 2 an ALLTOALL part; block or tree; channel. -/
def segOf (phase i x : Nat) : Nat := phase * 2 ^ 15 + i * 8 + x

/-- The two header words of a message. -/
def Mach.clHead (m : Mach) (c : Cmd) (r : ClRun) (flag : Bool) (nf : Bool) (seg : Nat) : List Word :=
  [BitVec.ofNat 64 (c.step % 2 ^ 32 + (if nf || m.nfBit c.job c.step then 2 ^ 32 else 0) + (if c.clLast then 2 ^ 33 else 0) +
      (if flag then 2 ^ 34 else 0) + c.clAlg * 2 ^ 40 + r.self * 2 ^ 48),
   BitVec.ofNat 64 (r.cseq % 2 ^ 32 + seg * 2 ^ 32 + 2 ^ 60)]

/-- The collective fails (R360): with its status, and the position whose connection or data failed it. -/
def Mach.clFail (m : Mach) (id status pos : Nat) : Mach :=
  match m.cmdOf id with
  | none => m
  | some c => if c.status.isSome then m else m.putCmd { c with
      status := some status
      row := pos }

/-- Send a message to a position, under the command's TAG; a message of the flag round is open traffic, and what follows from a
segment leaves from the slot after the segment's (R352). -/
def Mach.clSend (m : Mach) (c : Cmd) (r : ClRun) (pos : Nat) (flag nf : Bool) (seg : Nat) (data : List Byte) : Mach :=
  let first := match r.heard with
    | some k => k + 1
    | none => 0
  let s := m.ctxSend (r.ctxs.getD pos 0) 0 data none (m.clHead c r flag nf seg) (some c.id) (if flag then 0 else c.clTag)
    (if flag then 0 else first)
  match s.2 with
  | some st => s.1.clFail c.id st pos
  | none => s.1.rset Reg.HB_CL_BYTES (s.1.rget Reg.HB_CL_BYTES + BitVec.ofNat 64 data.length)

/-- Element formats of a command's source and destination. -/
def Cmd.clSf (c : Cmd) : Fmt := memFmt c.clSty
def Cmd.clDf (c : Cmd) : Fmt := memFmt c.clDty
/-- The format its contributions are added in: FP32 under compression. -/
def Cmd.clAf (c : Cmd) : Fmt := if c.clComp ≠ 0 then .fp32 else c.clSf

/-- Finished elements from `lo` on enter the result, and a reduction's are counted in CLS (R42, R353, R356). The elements that ALLGATHER,
ALLTOALL and BROADCAST move are not counted. DEDUCED: log entry 43. -/
def Mach.clPut (m : Mach) (c : Cmd) (r : ClRun) (lo : Nat) (es : List Nat) : Mach × ClRun :=
  let r1 := { r with res := (List.range es.length).foldl (fun a i => sset 0 (lo + i) (es.getD i 0) a) r.res }
  let n := if c.clReduces then (es.filter (fun e => (c.clDf.decode e).nonFinite)).length else 0
  (m.addStepNf c.job c.step c.cls n, r1)

def Mach.clStore (m : Mach) (r : ClRun) : Mach :=
  m.setCl { m.cl with runs := m.cl.runs.map (fun k => if k.id = r.id then r else k) }

/-! What a message does (R349 to R351, R357) -/

/-- Finished elements of the whole or of a block go to every other position, one message each (PAIRWISE). -/
def Mach.clSpread (m : Mach) (c : Cmd) (r : ClRun) (seg : Nat) (data : List Byte) : Mach :=
  ((List.range r.n).filter (fun p => p != r.self)).foldl (fun a p => a.clSend c r p false false seg data) m

/-- RING, a partial sum of block `i` on channel `x` arrives: add, and finish at `i` or send on. -/
def Mach.ringSum (m : Mach) (c : Cmd) (r : ClRun) (i x : Nat) (data : List Byte) : Mach × ClRun :=
  let p := r.part c i x
  let got := unpack c.clSf.width (p.2 - p.1) data
  let mine := slice p.1 p.2 r.x
  if i = r.self then
    let es := List.zipWith (clAdd c.clSf c.clDf c.clRop) got mine
    let q := m.clPut c r p.1 es
    (if c.clOp = 1 then q.1.clSend c q.2 (r.succ x) false false (segOf 1 i x) (pack c.clDf.width es) else q.1, q.2)
  else
    let es := List.zipWith (clAdd c.clSf c.clSf c.clRop) got mine
    (m.clSend c r (r.succ x) false false (segOf 0 i x) (pack c.clSf.width es), r)

/-- RING, finished elements of block `i` on channel `x` arrive: keep them, and pass them on until the ring closes. -/
def Mach.ringPass (m : Mach) (c : Cmd) (r : ClRun) (i x : Nat) (data : List Byte) : Mach × ClRun :=
  let p := r.part c i x
  let q := m.clPut c r p.1 (unpack (memBits c.clDcode) (p.2 - p.1) data)
  (if r.succ x = i then q.1 else q.1.clSend c q.2 (r.succ x) false false (segOf 1 i x) data, q.2)

/-- PAIRWISE, once every position's part of this block is here: add them in ascending position. -/
def Mach.pairSum (m : Mach) (c : Cmd) (r : ClRun) : Mach × ClRun :=
  let b := r.block c r.self
  let parts := (List.range r.n).map (fun p =>
    if p = r.self then slice b.1 b.2 r.x else sget [] (r.self * 4096 + p) r.parts)
  if (List.range r.n).any (fun p => p != r.self && (sget [] (r.self * 4096 + p) r.parts).isEmpty) then (m, r)
  else
    let es := clFold c.clAf c.clDf c.clRop parts
    let q := m.clPut c r b.1 es
    (if c.clOp = 1 then q.1.clSpread c q.2 (segOf 1 r.self 0) (pack c.clDf.width es) else q.1, q.2)

/-- DBTREE, once every child's sum of tree `t` is here: add them in order, and send up, or finish at the root and send down. -/
def Mach.treeSum (m : Mach) (c : Cmd) (r : ClRun) (t : Nat) : Mach × ClRun :=
  let e := treeRange c.clCount t
  let kids := kidsOf r.n t r.self
  if e.1 = e.2 ∨ kids.any (fun p => (sget [] (t * 4096 + p) r.parts).isEmpty) then (m, r)
  else
    let parts := slice e.1 e.2 r.x :: kids.map (fun p => sget [] (t * 4096 + p) r.parts)
    match parentOf r.n t r.self with
    | some p => (m.clSend c r p false false (segOf 0 t 0) (pack c.clSf.width (clFold c.clSf c.clSf c.clRop parts)), r)
    | none =>
      let es := clFold c.clSf c.clDf c.clRop parts
      let q := m.clPut c r e.1 es
      (kids.foldl (fun a p => a.clSend c q.2 p false false (segOf 1 t 0) (pack c.clDf.width es)) q.1, q.2)

/-- A data message from a position does its part. -/
def Mach.clTake (m : Mach) (c : Cmd) (r0 : ClRun) (pos seg : Nat) (data : List Byte) : Mach × ClRun :=
  let phase := seg / 2 ^ 15
  let i := seg / 8 % 4096
  let x := seg % 8
  let r := { r0 with left := r0.left - 1 }
  if c.clBase = 1 then (if phase = 0 then m.ringSum c r i x data else m.ringPass c r i x data)
  else if c.clBase = 2 then
    (if phase = 0 then
      let e := treeRange c.clCount i
      let es := unpack c.clSf.width (e.2 - e.1) data
      m.treeSum c { r with parts := sset [] (i * 4096 + pos) es r.parts } i
    else
      let e := treeRange c.clCount i
      let q := m.clPut c r e.1 (unpack c.clDf.width (e.2 - e.1) data)
      ((kidsOf r.n i r.self).foldl (fun a p => a.clSend c q.2 p false false seg data) q.1, q.2))
  else if phase = 0 then
    let b := r.block c r.self
    let es := if c.clComp ≠ 0 then
        let bs := bucketsOf b.1 b.2
        slice (b.1 - bs.headD 0 * 4096) (b.2 - bs.headD 0 * 4096) (bucketsTake c c.clSf r.modes bs data)
      else unpack c.clSf.width (b.2 - b.1) data
    m.pairSum c { r with parts := sset [] (r.self * 4096 + pos) es r.parts }
  else if phase = 1 then
    let b := r.block c i
    m.clPut c r b.1 (unpack (memBits c.clDcode) (b.2 - b.1) data)
  else
    let b := r.block c pos
    m.clPut c r b.1 (unpack (memBits c.clDcode) (b.2 - b.1) data)

/-- Data messages a member awaits. -/
def ClRun.awaits (r : ClRun) (c : Cmd) : Nat :=
  let some_ := fun (p : Nat × Nat) => decide (p.1 < p.2)
  let ring := fun (f : Nat → Nat → Bool) =>
    (List.range r.ch).foldl (fun a x => a + ((List.range r.n).filter (fun i => f i x && some_ (r.part c i x))).length) 0
  if r.n = 1 then 0
  else if c.clBase = 1 then
    let sums := if c.clReduces then ring (fun i x => r.self != succOn r.n (r.strides.getD x 0) i) else 0
    let whole := if c.clOp = 5 then (if r.self = c.clRoot then 0 else
        ((List.range r.ch).filter (fun x => some_ (r.part c c.clRoot x))).length)
      else if c.clOp = 2 then 0 else ring (fun i _ => i != r.self)
    sums + whole
  else if c.clBase = 2 then
    (List.range 2).foldl (fun a t =>
      if !some_ (treeRange c.clCount t) then a
      else a + (kidsOf r.n t r.self).length + (if (parentOf r.n t r.self).isSome then 1 else 0)) 0
  else
    let others := ((List.range r.n).filter (fun i => i != r.self && some_ (r.block c i))).length
    let mine := if c.clReduces ∧ some_ (r.block c r.self) then r.n - 1 else 0
    mine + (if c.clOp = 2 then 0 else if c.clOp = 4 then (if c.clCount / r.n = 0 then 0 else r.n - 1) else others)

/-- What a member sends when it starts (R349 to R351). `enc` holds the buckets as sent, under compression. -/
def Mach.clOpen (m : Mach) (c : Cmd) (r : ClRun) (enc : List (List Byte)) : Mach × ClRun :=
  let w := memBits c.clSty
  if r.n = 1 then m.clPut c r 0 (if c.clReduces then r.x.map (clTurn c.clAf c.clDf) else r.x)
  else if c.clBase = 1 then
    (if c.clReduces then
      let m1 := (List.range r.ch).foldl (fun a x =>
        let i := predOn r.n (r.strides.getD x 0) r.self
        let p := r.part c i x
        if p.1 < p.2 then a.clSend c r (r.succ x) false false (segOf 0 i x) (pack w (slice p.1 p.2 r.x)) else a) m
      (m1, r)
    else
      let i := if c.clOp = 5 then c.clRoot else r.self
      if i ≠ r.self then (m, r)
      else
        let b := if c.clOp = 5 then (0, c.clCount) else r.block c i
        let q := m.clPut c r b.1 (slice b.1 b.2 r.x)
        ((List.range r.ch).foldl (fun a x =>
          let p := r.part c i x
          if p.1 < p.2 then a.clSend c q.2 (r.succ x) false false (segOf 1 i x) (pack w (slice p.1 p.2 r.x)) else a) q.1, q.2))
  else if c.clBase = 2 then
    (List.range 2).foldl (fun a t => if (kidsOf r.n t r.self).isEmpty ∨ (parentOf r.n t r.self).isNone then a.1.treeSum c a.2 t
      else a) (m, r)
  else if c.clReduces then
    let m1 := (List.range (r.n - 1)).foldl (fun a k =>
      let p := (r.self + k + 1) % r.n
      let b := r.block c p
      if b.1 < b.2 then
        a.clSend c r p false false (segOf 0 p 0)
          (if c.clComp ≠ 0 then (bucketsOf b.1 b.2).flatMap (fun k => enc.getD k []) else pack w (slice b.1 b.2 r.x))
      else a) m
    (m1, r)
  else if c.clOp = 3 then
    let b := r.block c r.self
    let q := m.clPut c r b.1 (slice b.1 b.2 r.x)
    (if b.1 < b.2 then q.1.clSpread c q.2 (segOf 1 r.self 0) (pack w (slice b.1 b.2 r.x)) else q.1, q.2)
  else
    let own := r.block c r.self
    let q := m.clPut c r own.1 (slice own.1 own.2 r.x)
    ((List.range (r.n - 1)).foldl (fun a k =>
      let p := (r.self + k + 1) % r.n
      let b := r.block c p
      if b.1 < b.2 then a.clSend c q.2 p false false (segOf 2 p 0) (pack w (slice b.1 b.2 r.x)) else a) q.1, q.2)

/-! The end of the data phases, and the flag round (R358, R359) -/

/-- The bytes a collective writes, and where: the elements it holds. -/
def ClRun.output (r : ClRun) (c : Cmd) : Nat × List Byte :=
  let w := memBits c.clDcode
  let b := if c.clOp = 2 then r.block c r.self else (0, c.clCount)
  (c.clDst + b.1 * w / 8, pack w ((List.range (b.2 - b.1)).map (fun i => sget 0 (b.1 + i) r.res)))

/-- Once every awaited message is here, the results are written; a collective without LAST then only awaits its writes. -/
def Mach.clEnd (m : Mach) (id : Nat) : Mach :=
  match m.cl.runs.find? (fun r => r.id == id), m.cmdOf id with
  | some r, some c =>
    if r.stage ≠ 0 ∨ r.left ≠ 0 ∨ c.status.isSome then m
    else
      match m.job? c.job with
      | none => m
      | some j =>
        let o := r.output c
        let w := m.clWrite j c.job id o.1 o.2
        match w.2 with
        | .error none => w.1
        | .error (some (st, va)) =>
          (match w.1.cmdOf id with
           | some k => w.1.putCmd { k with
               status := some st
               va := va }
           | none => w.1)
        | .ok _ =>
          let m1 := w.1.clStore { r with stage := 1 }
          if c.clLast then m1
          else
            match m1.cmdOf id with
            | some k => if k.status.isSome then m1 else m1.putCmd { k with status := some 0 }
            | none => m1
  | _, _ => m

/-- A collective's work is over. -/
def Mach.clOver (m : Mach) (id : Nat) : Mach :=
  match m.cmdOf id with
  | some k => if k.status.isSome then m else m.putCmd { k with status := some 0 }
  | none => m

/-- The decision passes down tree 0 and becomes final here (R45, R358). -/
def Mach.flagDown (m : Mach) (c : Cmd) (r : ClRun) (nf : Bool) : Mach :=
  let m1 := (kidsOf r.n 0 r.self).foldl (fun a p => a.clSend c r p true nf 1 []) m
  (m1.flagFinal c.job nf).clOver c.id

/-- A member in its flag round, once its children's bits are here, sends the OR up; the root forms the reduced bit. -/
def Mach.flagUp (m : Mach) (c : Cmd) (r : ClRun) : Mach :=
  let kids := kidsOf r.n 0 r.self
  if r.stage ≠ 2 ∨ kids.any (fun p => !r.ups.any (fun u => u.1 == p)) ∨ c.status.isSome then m
  else
    let nf := m.nfBit c.job c.step || r.ups.any (fun u => u.2)
    match parentOf r.n 0 r.self with
    | some p => (m.clSend c r p true nf 0 []).markLast c.job
    | none => (m.markLast c.job).flagDown c r nf

/-- A LAST collective's flag round begins (R358, R359): not before its step is the job's current step, and not at all where the
flag is final already. -/
def Mach.flagBegin (m : Mach) (id : Nat) : Mach :=
  match m.cl.runs.find? (fun r => r.id == id), m.cmdOf id with
  | some r, some c =>
    match m.job? c.job with
    | none => m
    | some j =>
      if r.stage ≠ 1 ∨ !c.clLast ∨ c.step ≠ j.step ∨ c.status.isSome then m
      else if m.flag (Reg.HB_FIN_STATE_FINAL c.job) then m.clOver id
      else
        let early := m.cl.early.filter (fun e => e.1 == c.job)
        let r1 := { r with
          stage := 2
          ups := r.ups ++ early.map (fun e => e.2) }
        let m1 := m.clStore r1
        (m1.setCl { m1.cl with early := m1.cl.early.filter (fun e => e.1 != c.job) }).flagUp c r1
  | _, _ => m

/-- Each of a job's collectives whose messages are here writes its results. -/
def Mach.clEnds (m : Mach) (job : Nat) : Mach :=
  (m.cl.runs.filter (fun r => r.job == job)).foldl (fun a (r : ClRun) => a.clEnd r.id) m

/-- The collective of a job whose results are written and whose flag round is due. -/
def Mach.clDue (m : Mach) (job : Nat) : Option ClRun := m.cl.runs.find? (fun r => r.job == job && r.stage == 1)

/-- The collective of a job that is in its flag round. -/
def Mach.clRound (m : Mach) (job : Nat) : Option ClRun := m.cl.runs.find? (fun r => r.job == job && r.stage == 2)

/-- FLAG_ROUND_START (R358, R359). -/
def execFlagRoundStart (job : Fin 64) (s : State) : Host.Outcome State Fault Refusal :=
  s.act (fun m =>
    let m1 := m.clEnds job.val
    match m1.clDue job.val with
    | some r => m1.flagBegin r.id
    | none => m1)

/-- A flag-round message arrives from a position (R356, R358): an upward bit waits for its siblings, the downward one is the
decision. One that comes before this module's round belongs to the job's step, or to the next where the step's flag is final, and its bit
is recorded there (R44, R47). DEDUCED: log entry 43. -/
def Mach.flagMessage (m : Mach) (jn pos : Nat) (down nf : Bool) : Mach :=
  match m.clRound jn with
  | some r =>
    (match m.cmdOf r.id with
     | none => m
     | some c =>
       let m1 := m.headerRecord jn (c.step % 2 ^ 32) nf (r.cseq % 2 ^ 32) pos c.clAlg
       if c.status.isSome then m1
       else if down then m1.flagDown c r nf
       else
         let r1 := { r with ups := (pos, nf) :: r.ups }
         (m1.clStore r1).flagUp c r1)
  | none =>
    match m.job? jn with
    | none => m
    | some j =>
      if down then m
      else
        let step := if m.flag (Reg.HB_FIN_STATE_FINAL jn) then j.step + 1 else j.step
        let m1 := m.headerRecord jn (step % 2 ^ 32) nf 0 pos 0
        m1.setCl { m1.cl with early := m1.cl.early ++ [(jn, pos, nf)] }

/-- FLAG_ROUND_MESSAGE (R45, R356, R358). -/
def execFlagRoundMessage (job : Fin 64) (pos : BitVec 12) (down nf : Bool) (s : State) : Host.Outcome State Fault Refusal :=
  s.act (fun m => m.flagMessage job.val pos.toNat down nf)

/-! Received messages (R355 to R357) -/

def ClMsg.cseq (g : ClMsg) : Nat := bits g.w1 0 32
def ClMsg.alg (g : ClMsg) : Nat := bits g.w0 40 8
def ClMsg.pos (g : ClMsg) : Nat := bits g.w0 48 16
def ClMsg.step (g : ClMsg) : Nat := bits g.w0 0 32

/-- Discard a message and log it (R357). -/
def Mach.clDiscard (m : Mach) (g : ClMsg) (jn : Nat) : Mach := m.logD 0x19 0 0 jn g.step [g.cseq, g.pos, g.alg]

/-- Hand a message to its collective, let it wait, or discard it (R357). -/
def Mach.clDeliver (m : Mach) (g : ClMsg) (jn : Nat) : Mach :=
  match m.cl.runs.find? (fun r => r.ctxs.contains g.ctx) with
  | some r =>
    (match m.cmdOf r.id with
     | none => m
     | some c =>
       if g.cseq < r.cseq then m.clDiscard g jn
       else if r.cseq < g.cseq then m.setCl { m.cl with wait := m.cl.wait ++ [g] }
       else if g.alg ≠ c.clAlg ∨ r.ctxs.getD g.pos 0x3FFF ≠ g.ctx then m.clDiscard g jn
       else if c.status.isSome then m
       else
         let q := m.clTake c { r with heard := m.td.slot } g.pos (bits g.w1 32 24) g.data
         (q.1.clStore q.2).clEnd r.id)
  | none =>
    if g.cseq < sget 0 g.ctx m.cl.past then m.clDiscard g jn else m.setCl { m.cl with wait := m.cl.wait ++ [g] }

/-- Whether a message's header has its version and no reserved bit set (R9, R10, R355). -/
def ClMsg.fits (g : ClMsg) : Bool :=
  bits g.w1 60 4 == 1 && !reservedSet g.w0 [(0, 35), (40, 24)] && !reservedSet g.w1 [(0, 56), (60, 4)]

/-- Whether a message's number has passed, or its ALG or sender is not that of the collective it names (R357). -/
def Mach.clRefuses (m : Mach) (g : ClMsg) : Bool :=
  match m.cl.runs.find? (fun r => r.ctxs.contains g.ctx) with
  | some r =>
    (match m.cmdOf r.id with
     | none => false
     | some c => decide (g.cseq < r.cseq) || (g.cseq == r.cseq && (g.alg != c.clAlg || r.ctxs.getD g.pos 0x3FFF != g.ctx)))
  | none => decide (g.cseq < sget 0 g.ctx m.cl.past)

/-- A collective message arrives on a context, next in its connection's order: it is acknowledged, its header is recorded
(R356), and it is delivered. One for a context that is not open is refused and counted (R320). One that is to be discarded (R357), or
whose header does not fit, is logged and not acknowledged, so that the sender's collective fails. DEDUCED: log entry 43. -/
def Mach.clMessage (m : Mach) (g : ClMsg) : Mach :=
  match m.ctx g.ctx with
  | none => m.fadd Reg.SW_FAB_CNT_REFUSED 1
  | some x =>
    if x.closing then m.fadd Reg.SW_FAB_CNT_REFUSED 1
    else if !g.fits then m.clDiscard g x.job
    else if m.clRefuses g then (m.headerRecord x.job g.step (bits g.w0 32 1 == 1) g.cseq g.pos g.alg).clDiscard g x.job
    else
      let m1 := (m.setCtx g.ctx (some { x with rxNext := x.rxNext + 1 })).sendTo x.peer [6, x.peer, x.peerCtx, x.rxNext] []
      (m1.headerRecord x.job g.step (bits g.w0 32 1 == 1) g.cseq g.pos g.alg).clDeliver g x.job

/-- COLLECTIVE_MESSAGE (R355 to R357). -/
def execCollectiveMessage (ctx : BitVec 14) (w0 w1 : Word) (data : List Byte) (s : State) : Host.Outcome State Fault Refusal :=
  s.act (fun m => m.clMessage ⟨ctx.toNat, w0, w1, data⟩)

/-! Starting a command (R344 to R348, R357) -/

/-- The next collective that may start, of at most eight running: the first queued whose group has none before it. -/
def Mach.clNext (m : Mach) : Option Cmd :=
  let mine := m.js.cmds.filter (fun c => c.tgt == 192 && c.eng == 5)
  if 8 ≤ (mine.filter (fun c => c.phase == .running)).length then none
  else firstQ (mine.filter (fun c => c.phase == .queued && !(c.clGrouped &&
    mine.any (fun k => k.clGrouped && k.job == c.job && k.clGroup == c.clGroup &&
      (k.phase == .running || (k.phase == .queued && decide (k.qn < c.qn)))))))

/-- End a command that has not started. -/
def Mach.clStop (m : Mach) (c : Cmd) : Option (Nat × Nat) → Mach
  | none => m
  | some (st, va) => m.finish c st 0 va false

/-- The collective takes its number (R357). -/
def Mach.clNumber (m : Mach) (c : Cmd) : Nat × Mach :=
  let k := c.job * 2 ^ 57 + c.clGroup
  let n := sget 0 k m.cl.seq
  (n, m.setCl { m.cl with seq := sset 0 k (n + 1) m.cl.seq })

/-- End a numbered collective before it runs. -/
def Mach.clRefuse (m : Mach) (c : Cmd) (st pos : Nat) : Mach := (m.clNumber c).2.finish { c with row := pos } st 0 0 false

/-- The module's contribution from its sources (R348), and under compression the buckets as sent, their decoded values and the
pending residual (R353, R354). -/
def Cmd.clContribution (c : Cmd) (srcs : List (List Byte)) (modes : List Nat) (resid : List Byte) :
    List Nat × List (List Byte) × List Nat :=
  let vals := srcs.map (unpack (memBits c.clSty) c.clCount)
  let x := if c.clReduces then clFold c.clSf c.clSf c.clRop vals else vals.headD []
  if c.clComp = 0 then (x, [], [])
  else
    let es := unpack 32 c.clCount resid
    let vs := List.zipWith (fun a e => (Fmt.fp32.encode .rne false (Num.add (c.clSf.decode a) (Fmt.fp32.decode e))).1) x es
    let bk := (List.range c.clBuckets).map (fun b =>
      bucketSend c.clSf (modes.getD b 0) c.clK c.clWide (slice (b * 4096) (b * 4096 + c.clBucketLen b) vs))
    let d := bk.flatMap (fun b => b.2)
    (d, bk.map (fun b => b.1), List.zipWith (fun v w =>
      (Fmt.fp32.encode .rne false (Num.add (Fmt.fp32.decode v) (Fmt.fp32.decode w).negate)).1) vs d)

/-- The result of a reduction in a group of one with a local stage, whose last local addition is the element's last (R348). -/
def Cmd.clAlone (c : Cmd) (srcs : List (List Byte)) : List Nat :=
  clFold c.clSf c.clDf c.clRop (srcs.map (unpack (memBits c.clSty) c.clCount))

/-- A grouped collective starts, its group and sources read. -/
def Mach.clBegin (m : Mach) (c : Cmd) (j : Job) (g : Group) (srcs : List (List Byte)) (map resid : List Byte) : Mach :=
  let modes := c.clModes map
  let con := c.clContribution srcs modes resid
  let p := m.clWrite j c.job c.id c.clPend (pack 32 con.2.2)
  match p.2 with
  | .error e => p.1.clStop c e
  | .ok _ =>
    let k := p.1.clNumber c
    let r0 : ClRun := ⟨c.id, c.job, c.clGroup, k.1, g.n, g.self, g.ch, g.strides, g.ctxs, con.1, modes, [], [], 0, 0, [], none⟩
    let r := { r0 with left := r0.awaits c }
    let m1 := (k.2.run c).clCount
    let m2 := m1.setCl { m1.cl with runs := m1.cl.runs ++ [r] }
    let q := if g.n = 1 ∧ c.clReduces ∧ c.clComp = 0 then m2.clPut c r 0 (c.clAlone srcs) else m2.clOpen c r con.2.1
    let m3 := q.1.clStore q.2
    let mine := m3.cl.wait.filter (fun w => g.ctxs.contains w.ctx && decide (w.cseq ≤ k.1))
    let m4 := m3.setCl { m3.cl with wait := m3.cl.wait.filter (fun w => !(g.ctxs.contains w.ctx && decide (w.cseq ≤ k.1))) }
    (mine.foldl (fun a w => a.clDeliver w c.job) m4).clEnd c.id

/-- A grouped collective: its group, contexts and sources (R344). -/
def Mach.clGroupStart (m : Mach) (c : Cmd) (j : Job) (map : List Byte) : Mach :=
  let rh := m.clRead j c.job c.clGroup 64
  match rh.2 with
  | .error e => rh.1.clStop c e
  | .ok hb =>
    match groupHead (leWords 8 hb) with
    | .error st => rh.1.clRefuse c st 0
    | .ok g0 =>
      let re := rh.1.clRead j c.job (c.clGroup + 64) (8 * g0.n)
      match re.2 with
      | .error e => re.1.clStop c e
      | .ok eb =>
        match re.1.groupCheck g0 (leWords g0.n eb) with
        | .error st => re.1.clRefuse c st 0
        | .ok g =>
          if (c.clOp = 5 ∧ g.n ≤ c.clRoot) ∨ (c.clOp = 4 ∧ c.clCount % g.n ≠ 0) then re.1.clRefuse c 0x0204 0
          else
            match re.1.clContexts c.job g (c.clNeeds g) with
            | .error st => re.1.clRefuse c st 0
            | .ok (some p) => re.1.clRefuse c 0x0504 p
            | .ok none =>
              let reads := if c.clOp = 5 ∧ g.self ≠ c.clRoot then [] else c.clSources
              let rs := re.1.clReads j c.job reads
              match rs.2 with
              | .error (some (st, va)) => (rs.1.clNumber c).2.finish { c with row := g.self } st 0 va false
              | .error none => rs.1
              | .ok srcs =>
                let rr := rs.1.clRead j c.job c.clResid (if c.clComp ≠ 0 then c.clCount * 4 else 0)
                match rr.2 with
                | .error e => rr.1.clStop c e
                | .ok resid => rr.1.clBegin c j g srcs map resid

/-- PUT's bytes, read, leave in one remote write with its signal, and are counted. -/
def Mach.clPutSend (m : Mach) (c : Cmd) (bs : List Byte) : Mach :=
  let sig := if c.bf 13 8 1 = 1 then some ⟨BitVec.ofNat 8 (c.bf 13 0 8), BitVec.ofNat 48 (c.bf 13 16 48)⟩ else none
  let m1 := (m.run c).clCount
  let s := m1.ctxSend (c.bf 11 12 14) (c.bf 12 0 40) bs sig [] (some c.id) c.clTag 0
  match s.2 with
  | some st => s.1.clFail c.id st 0
  | none => (s.1.rset Reg.HB_CL_BYTES (s.1.rget Reg.HB_CL_BYTES + BitVec.ofNat 64 bs.length)).clOver c.id

/-- PUT (R345, R344, R319): one remote write of COUNT bytes over a context, with its signal. DEDUCED: log entry 44. -/
def Mach.clPutStart (m : Mach) (c : Cmd) (j : Job) : Mach :=
  let x := c.bf 11 12 14
  let used := m.cl.runs.any (fun r => r.ctxs.contains x)
  match m.ctx x with
  | none => m.finish c 0x0208 0 0 false
  | some v =>
    if v.closing ∨ v.job ≠ c.job ∨ used then m.finish c 0x0208 0 0 false
    else
      let r := m.clRead j c.job (c.clSrc 0) c.clCount
      match r.2 with
      | .error e => r.1.clStop c e
      | .ok bs =>
        r.1.clPutSend c bs

/-- COMMIT (R354): COUNT FP32 elements from PEND to RESID. DEDUCED: log entry 44. -/
def Mach.clCommitStart (m : Mach) (c : Cmd) (j : Job) : Mach :=
  let r := m.clRead j c.job c.clPend (c.clCount * 4)
  match r.2 with
  | .error e => r.1.clStop c e
  | .ok bs =>
    let w := r.1.clWrite j c.job c.id c.clResid bs
    match w.2 with
    | .error e => w.1.clStop c e
    | .ok _ => (((w.1.run c).clCount).clOver c.id)

/-- A collective command of an operation reaches its turn (R346): its checks in order, its state conditions, and its start. -/
def Mach.clStart (m : Mach) (op : Nat) : Mach :=
  if m.fget Reg.PW_MODE_MODE = 3 ∨ m.compDown 0 then m
  else
    match m.clNext with
    | none => m
    | some c =>
      if c.clOp ≠ op ∧ !(op = 1 ∧ (c.clOp = 0 ∨ 7 < c.clOp)) then m
      else if m.compHeld 0 then m.finish c 0x0F01 0 0 false
      else
        match m.job? c.job with
        | none => m
        | some j =>
          match c.clCheck1 with
          | some st => m.finish c st 0 0 false
          | none =>
            let rm := m.clRead j c.job c.clMap (if c.clComp = 3 then (c.clBuckets + 3) / 4 else 0)
            match rm.2 with
            | .error e => rm.1.clStop c e
            | .ok map =>
              if c.clComp = 3 ∧ (c.clModes map).contains 3 then rm.1.finish c 0x0203 0 0 false
              else
                match c.clCheck2 with
                | some st => rm.1.finish c st 0 0 false
                | none =>
                  let t1 := rm.1.clTier j c.job false (c.clSources ++ c.clAside ++ (if c.clGrouped then [(c.clGroup, 64)] else []))
                  match t1.2 with
                  | .error e => t1.1.clStop c e
                  | .ok _ =>
                    let t2 := t1.1.clTier j c.job true c.clDests
                    match t2.2 with
                    | .error e => t2.1.clStop c e
                    | .ok _ =>
                      if c.clOverlap then t2.1.finish c 0x0207 0 0 false
                      else
                        match t2.1.stateAux c false with
                        | some aux => t2.1.finish c 0x0101 aux 0 false
                        | none =>
                          if t2.1.condSkips c then t2.1.finish c 0 0 0 true
                          else if c.clOp = 6 then t2.1.clPutStart c j
                          else if c.clOp = 7 then t2.1.clCommitStart c j
                          else t2.1.clGroupStart c j map

/-- ALLREDUCE (R345, R347 to R351); a body with a reserved OP is checked, and refused, here too (R346). -/
def execAllreduce (s : State) : Host.Outcome State Fault Refusal := s.act (fun m => m.clStart 1)
/-- REDUCESCATTER (R345, R349, R351). -/
def execReducescatter (s : State) : Host.Outcome State Fault Refusal := s.act (fun m => m.clStart 2)
/-- ALLGATHER (R345, R349). -/
def execAllgather (s : State) : Host.Outcome State Fault Refusal := s.act (fun m => m.clStart 3)
/-- ALLTOALL (R345, R351). -/
def execAlltoall (s : State) : Host.Outcome State Fault Refusal := s.act (fun m => m.clStart 4)
/-- BROADCAST (R345, R349). -/
def execBroadcast (s : State) : Host.Outcome State Fault Refusal := s.act (fun m => m.clStart 5)
/-- PUT (R319, R345). -/
def execPut (s : State) : Host.Outcome State Fault Refusal := s.act (fun m => m.clStart 6)
/-- COMMIT (R354). -/
def execCommit (s : State) : Host.Outcome State Fault Refusal := s.act (fun m => m.clStart 7)

/-- A connection fails (R319, R360), and so does every collective that uses its context. -/
def Mach.connectionFails (m : Mach) (x : Nat) : Mach :=
  match m.ctx x with
  | none => m
  | some v =>
    if v.failed ∨ v.sends.isEmpty then m
    else
      let m1 := (m.cl.runs.filter (fun r => r.ctxs.contains x)).foldl (fun a (r : ClRun) =>
        a.clFail r.id 0x0504 (r.ctxs.idxOf x)) m
      m1.ctxFail x

end Sys2Proof.Machine
end

