-- ==== Sys2Proof/Machine/MemTier.lean ====
section
/-!
DEFINITION. Stack, Shelf and Shingle reads and writes at their controllers: the symbol code, its events, erasure and
retirement (R154 to R159), scrub, key slots (R163), and Shingle reads (R165).
-/

namespace Sys2Proof.Machine

/-! The symbol code of R154 -/

/-- Multiplication by α = x in GF(2^8) with x^8 + x^4 + x^3 + x^2 + 1. -/
def gfX (a : Nat) : Nat := if a < 128 then 2 * a else (2 * a - 256).xor 0x1D

/-- Product in GF(2^8); the first argument bounds the bits of the multiplier. -/
def gfMul : Nat → Nat → Nat → Nat
  | 0, _, _ => 0
  | n + 1, a, b => (if b % 2 = 1 then a else 0).xor (gfMul n (gfX a) (b / 2))

/-- Coefficients of the generator with roots α^0 to α^3 below its leading one, highest first. -/
def rsGen : List Nat := [15, 54, 120, 64]

/-- One step of the division that forms the four check symbols, highest first. -/
def rsStep (r : List Nat) (d : Nat) : List Nat :=
  let f := d.xor (r.getD 0 0)
  (List.range 4).map (fun i => (r.getD (i + 1) 0).xor (gfMul 8 (rsGen.getD i 0) f))

/-- The four check symbols of 32 data symbols, symbol 0 first. -/
def rsCheck (ds : List Nat) : List Nat := ds.foldl rsStep [0, 0, 0, 0]

/-- Data symbol `i` of a codeword's 32 bytes: bit `i mod 8` of bytes `4t + i div 8` (R154). -/
def rsSymbol (bs : List Byte) (i : Nat) : Nat :=
  (List.range 8).foldl (fun a t => a + ((bs.getD (4 * t + i / 8) 0).toNat / 2 ^ (i % 8) % 2) * 2 ^ t) 0

/-- The 36 symbols that store 32 bytes. -/
def rsEncode (bs : List Byte) : List Nat :=
  let ds := (List.range 32).map (rsSymbol bs)
  ds ++ rsCheck ds

/-- The poison pattern: data symbols 0x00, check symbols 0xFF (R156). -/
def rsPoison : List Nat := List.replicate 32 0 ++ List.replicate 4 255

/-! Locations -/

/-- The controller of an address: 0 to 7 a stack, 8 + c Shelf channel c (R147, R150). -/
def devOf (pa : Nat) : Nat := if tierOf pa = .stack then stackOf pa else 8 + shelfChan pa
/-- Its codeword group: a pseudo-channel, or a Shelf group. -/
def grpOf (pa : Nat) : Nat := if tierOf pa = .stack then pchOf pa else shelfGrp pa

/-- The register of a group's erasures; its fields lie alike in SK_PCH and SF_GRP. -/
def grpReg (pa : Nat) : Nat :=
  if tierOf pa = .stack then Reg.SK_PCH (stackOf pa) (pchOf pa) else Reg.SF_GRP (shelfChan pa) (shelfGrp pa)

/-- A field of the group's register, of its ECC counters, of its last event or of its device's state. -/
def stateReg (pa : Nat) : Nat := if tierOf pa = .stack then Reg.SK_STATE (stackOf pa) else Reg.SF_STATE (shelfChan pa)
def eccReg (pa : Nat) : Nat := if tierOf pa = .stack then Reg.SK_ECC_CNT (stackOf pa) else Reg.SF_ECC_CNT (shelfChan pa)
def lastReg (pa : Nat) : Nat := if tierOf pa = .stack then Reg.SK_LAST (stackOf pa) else Reg.SF_LAST (shelfChan pa)

/-- The erased pins of a codeword's group (R158). -/
def Mach.erased (m : Mach) (pa : Nat) : List Nat :=
  (if m.flag ⟨grpReg pa, 6, 1⟩ then [m.fget ⟨grpReg pa, 0, 6⟩] else []) ++
  (if m.flag ⟨grpReg pa, 14, 1⟩ then [m.fget ⟨grpReg pa, 8, 6⟩] else [])

/-- How a codeword decodes (R155): clean, corrected at the listed symbols outside erasures, uncorrectable, or a pattern
with no guarantee. -/
inductive Decoded where
  | clean | corrected (events : List Nat) | bad | beyond
  deriving DecidableEq, Repr

/-- The decoder's table (R155), by the erased pins and the symbols in error. DESIGN CHOICE: log entry 13. -/
def decodeRs (erased wrong : List Nat) : Decoded :=
  let others := wrong.filter (fun i => !erased.contains i)
  let n := others.length
  match erased.length with
  | 0 => if n = 0 then .clean else if n = 1 then .corrected others else if n ≤ 3 then .bad else .beyond
  | 1 => if n ≤ 1 then (if wrong.isEmpty then .clean else .corrected others) else if n = 2 then .bad else .beyond
  | _ => if n = 0 then (if wrong.isEmpty then .clean else .corrected []) else if n ≤ 2 then .bad else .beyond

/-- The symbols of an error pattern that differ, each once. -/
def wrongSymbols (errs : List (Fin 36 × Byte)) : List Nat :=
  (List.range 36).filter (fun i =>
    (errs.foldl (fun (a : Nat) e => if e.1.val = i then a.xor e.2.toNat else a) 0) != 0)

/-- Record the last event or uncorrectable read of a device. -/
def Mach.setLast (m : Mach) (pa sym : Nat) : Mach :=
  ((m.fset ⟨lastReg pa, 0, 52⟩ pa).fset ⟨lastReg pa, 52, 6⟩ sym).fset ⟨lastReg pa, 58, 1⟩ 1

/-- A Shelf group is retired outright (R158, R428): its codewords read poisoned, and its device is degraded. -/
def Mach.shelfRetire (m : Mach) (c g : Nat) : Mach :=
  if m.flag (Reg.SF_GRP_RETIRED c g) then m
  else ((m.fset (Reg.SF_GRP_RETIRED c g) 1).fset (Reg.SF_STATE_DEGRADED c) 1).logE 0x05 0 (8 + c) noJob 0

/-- Both groups of a Shelf channel are retired. -/
def Mach.channelRetire (m : Mach) (c : Nat) : Mach := (m.shelfRetire c 0).shelfRetire c 1

/-- A location is judged lasting (R158): its pin is erased, or a third such pin retires the group. -/
def Mach.lasting (m : Mach) (pa pin : Nat) : Mach :=
  let dev := devOf pa
  match (m.erased pa).length with
  | 0 => (((m.fset ⟨grpReg pa, 0, 6⟩ pin).fset ⟨grpReg pa, 6, 1⟩ 1).logE 0x03 0 dev noJob pa)
  | 1 => (((m.fset ⟨grpReg pa, 8, 6⟩ pin).fset ⟨grpReg pa, 14, 1⟩ 1).logE 0x03 0 dev noJob pa)
  | _ => (((m.fset ⟨grpReg pa, 15, 1⟩ 1).fset ⟨stateReg pa, 12, 1⟩ 1).logE 0x05 0 dev noJob pa)

/-- The window of R157 in nanoseconds, and its threshold. -/
def Mach.faultWindow (m : Mach) (pa : Nat) : Nat :=
  60000000000 * (if tierOf pa = .stack then m.fget Reg.SK_FAULT_CFG_WINDOW else m.fget Reg.SF_FAULT_CFG_WINDOW)
def Mach.faultThresh (m : Mach) (pa : Nat) : Nat :=
  if tierOf pa = .stack then m.fget Reg.SK_FAULT_CFG_THRESH else m.fget Reg.SF_FAULT_CFG_THRESH

/-- Keep the last 256 events of a controller (R157), newest first; a controller is a stack's or a Shelf channel's. DESIGN
CHOICE: log entry 13. -/
def keepEvents (dev : Nat) (e : SymEvent) (es : List SymEvent) : List SymEvent :=
  let mine := es.filter (fun x => x.loc / 4096 == dev)
  e :: (mine.take 255 ++ es.filter (fun x => x.loc / 4096 != dev))

/-- A correction at a pin (R157): counted once per codeword address and window; the THRESH-th within the window of the
first of those before it makes the location a lasting fault, and one below it is a weak cell for the log. -/
def Mach.correction (m : Mach) (pa pin : Nat) : Mach :=
  let loc := devOf pa * 4096 + grpOf pa * 64 + pin
  let cw := pa / 32 * 32
  let t := m.now
  let win := m.faultWindow pa
  let recent := m.mem.events.filter (fun e => e.loc == loc && decide (t ≤ e.time + win))
  let m0 := m.setLast cw pin
  if recent.any (fun e => e.addr == cw) then m0
  else
    let m1 := { m0 with mem := { m0.mem with events := keepEvents (devOf pa) ⟨loc, cw, t⟩ m0.mem.events } }
    if m.faultThresh pa ≤ recent.length + 1 then m1.lasting pa pin
    else m1.logE 0x04 0 (devOf pa) noJob cw

/-- An uncorrectable read (R156): counted, and the codeword rewritten as the poison pattern. -/
def Mach.uncorrectable (m : Mach) (pa : Nat) : Mach :=
  ((m.fadd ⟨eccReg pa, 32, 32⟩ 1).setLast (pa / 32 * 32) 63).setPoison (pa / 32) true

/-- Read a codeword at its controller with an error pattern on its pins (R155 to R158). The answer is the bytes, or none
when poisoned. -/
def Mach.readCw (m : Mach) (key pa : Nat) (errs : List (Fin 36 × Byte)) : Mach × Option (List Byte) :=
  let base := pa / 32 * 32
  if m.cwBad (base / 32) then (m, none)
  else
    match decodeRs (m.erased base) (wrongSymbols errs) with
    | .clean => (m, some (m.peeks key base 32))
    | .corrected ev =>
      let m1 := m.fadd ⟨eccReg base, 0, 32⟩ 1
      (ev.foldl (fun a pin => a.correction base pin) m1, some (m.peeks key base 32))
    | .bad => (m.uncorrectable base, none)
    | .beyond =>
      let pat := errs.map (fun e => (e.1.val, e.2.toNat))
      if Config.beyondDetected base pat then (m.uncorrectable base, none)
      else (m, some (Config.miscorrected base pat (m.peeks key base 32)))

/-- Whether an address is of a tier that the symbol code protects. -/
def coded (pa : Nat) : Bool := tierOf pa = .stack || tierOf pa = .shelf

/-- DEMAND_READ (R155). -/
def execDemandRead (pa : BitVec 52) (key : Fin 64) (errs : List (Fin 36 × Byte)) (s : State) :
    Host.Outcome State Fault Refusal :=
  s.act (fun m =>
    if !coded pa.toNat then m
    else
      let r := m.readCw (m.keyId key.val) pa.toNat errs
      match r.2 with
      | some bs => r.1.emit (.data 255 (pa.toNat / 32 * 32) bs false)
      | none => r.1.emit (.data 255 (pa.toNat / 32 * 32) [] true))

/-- CODEWORD_WRITE (R156, R160): bytes at their controller; a part that fails is answered 0x0304. -/
def execCodewordWrite (pa : BitVec 52) (key : Fin 64) (data : List Byte) (s : State) : Host.Outcome State Fault Refusal :=
  s.act (fun m =>
    if !coded pa.toNat then m
    else
      let r := m.memWrite (m.keyId key.val) pa.toNat data
      if r.2 then r.1.emit (.data 255 pa.toNat [] true) else r.1)

/-- SCRUB (R159): one read and rewrite, while scrub is enabled; a codeword in the poison pattern is left, and where an error beyond R155 goes
undetected the stored bytes are left as they are. DESIGN CHOICE: log entry 13. -/
def execScrub (pa : BitVec 52) (errs : List (Fin 36 × Byte)) (s : State) : Host.Outcome State Fault Refusal :=
  s.act (fun m =>
    let on := if tierOf pa.toNat = .stack then m.flag Reg.SK_SCRUB_CFG_EN else m.flag Reg.SF_SCRUB_CFG_EN
    if !coded pa.toNat || !on then m else (m.readCw 0 pa.toNat errs).1)

/-! Key slots (R163) -/

/-- Whether a live context's KEYMASK allows a selector. -/
def Mach.keyInUse (m : Mach) (sel : Nat) : Bool :=
  m.js.jobs.any (fun p => match p.2 with
    | some j => j.keyAllowed sel
    | none => false)

/-- A key command (R163): ignored while BUSY, refused, or begun. -/
def Mach.keyCommand (m : Mach) (gen : Bool) (sel : Nat) : Mach :=
  if m.flag Reg.SK_KEY_STATUS_BUSY then m
  else if sel = 0 then m.fset Reg.SK_KEY_STATUS_STATUS 0x0203
  else if m.keyInUse sel then m.fset Reg.SK_KEY_STATUS_STATUS 0x0101
  else ({ m with mem := { m.mem with keyCmd := some (gen, sel) } }).fset Reg.SK_KEY_STATUS_BUSY 1

/-- GENERATE (R163, R258). -/
def execGenerate (a : Agent) (sel : Fin 64) (s : State) : Host.Outcome State Fault Refusal :=
  s.act (fun m => m.owned a Reg.SK_KEY_CMD (fun x => x.keyCommand true sel.val))

/-- ERASE (R163, R258). -/
def execErase (a : Agent) (sel : Fin 64) (s : State) : Host.Outcome State Fault Refusal :=
  s.act (fun m => m.owned a Reg.SK_KEY_CMD (fun x => x.keyCommand false sel.val))

/-- KEY_COMMAND_DONE (R163): the slot holds a fresh key, or is zeroised. -/
def execKeyCommandDone (s : State) : Host.Outcome State Fault Refusal :=
  s.act (fun m =>
    match m.mem.keyCmd with
    | none => m
    | some (gen, sel) =>
      let m1 := { m with mem := { m.mem with
        keyCmd := none
        keys := sset 1 sel (if gen then m.mem.keyNext else 1) m.mem.keys
        keyNext := if gen then m.mem.keyNext + 1 else m.mem.keyNext } }
      ((m1.fset ⟨Reg.SK_KEY_LOADED, sel, 1⟩ (if gen then 1 else 0)).fset Reg.SK_KEY_STATUS_STATUS 0).fset
        Reg.SK_KEY_STATUS_BUSY 0)

/-- The read of a page: an uncorrectable read of the flash poisons the page's unit until it is rewritten (R165, R169). -/
def Mach.flashRead (m : Mach) (page : Nat) (uncorrectable : Bool) : Mach :=
  let r := m.pageRead page
  if r.2 && uncorrectable then { r.1 with sg := { r.1.sg with bad := sset false (page / 4) true r.1.sg.bad } } else r.1

/-- SHINGLE_READ (R165, R169, R365): the 256 bytes at an address of user capacity. Until the Harbour image runs the read completes
as a reserved-range access. -/
def execShingleRead (pa : BitVec 52) (uncorrectable : Bool) (s : State) : Host.Outcome State Fault Refusal :=
  s.act (fun m =>
    let a := pa.toNat / 256 * 256
    if tierOf a ≠ .shingle then m
    else if !m.harbourRuns then m.emit (.data 255 a [] true)
    else
      let m1 := m.flashRead ((a - shingleBase) / 16384) uncorrectable
      let d := m1.load 0 a 256
      m1.emit (.data 255 a (if d.2 then [] else d.1) d.2))

end Sys2Proof.Machine
end

