-- ==== Sys2Proof/Machine/Shingle.lean ====
section
/-!
DEFINITION. The Shingle translation layer's queue and upkeep (R164 to R171, R179): descriptors, commits, completion
records, SANITIZE, wear levelling, read-disturb refresh and retired blocks.
-/

namespace Sys2Proof.Machine

/-- Write the completion records that wait, while the ring is configured and has space (R127, R167). DESIGN CHOICE: log entry 29. -/
def Mach.sgDrain (m : Mach) : List (List Word) → Mach
  | [] => { m with sg := { m.sg with held := [] } }
  | ws :: rest =>
    let log2 := m.fget Reg.SG_CQ_BASE_LOG2
    let used := (m.fget Reg.SG_CQ_TAIL_TAIL + 2 ^ 32 - m.fget Reg.SG_CQ_HEAD_HEAD) % 2 ^ 32
    if log2 < 6 ∨ 16 < log2 ∨ 2 ^ log2 ≤ used then { m with sg := { m.sg with held := ws :: rest } }
    else
      let p := ringSlot (m.fget Reg.SG_CQ_BASE_BASE * 4096) (2 ^ log2) m.sg.seq
      let m1 := m.hubWrite p.1 (wordBytes (stamp ws p.2 16 (m.sg.seq + 1)))
      let m2 := { m1 with sg := { m1.sg with seq := m1.sg.seq + 1 } }
      ((m2.fset Reg.SG_CQ_TAIL_TAIL (m2.fget Reg.SG_CQ_TAIL_TAIL + 1)).raise 130).sgDrain rest

/-- The record of a descriptor (R167). -/
def Mach.sgRecord (m : Mach) (ws : List Word) (status done : Nat) : Mach :=
  m.sgDrain (m.sg.held ++ [[BitVec.ofNat 64 status, 0, BitVec.ofNat 64 (bits (wd ws 0) 32 32),
    BitVec.ofNat 64 (done + 2 ^ 60)]])

def sgOp (ws : List Word) : Nat := bits (wd ws 0) 0 2
def sgSrc (ws : List Word) : Nat := bits (wd ws 1) 0 52
def sgDst (ws : List Word) : Nat := bits (wd ws 2) 0 44
def sgUnits (ws : List Word) : Nat := bits (wd ws 3) 0 28

/-- The checks of R166, in order. DEDUCED: log entry 21. -/
def sgCheck (ws : List Word) : Option Nat :=
  let write := sgOp ws = 0
  let n := sgUnits ws * 65536
  if bits (wd ws 3) 60 4 ≠ 1 then some 0x0202
  else if reservedSet (wd ws 0) [(0, 2), (8, 6), (32, 32)] || reservedSet (wd ws 1) [(0, 52)] ||
      reservedSet (wd ws 2) [(0, 44)] || reservedSet (wd ws 3) [(0, 28), (60, 4)] then some 0x0201
  else if 2 ≤ sgOp ws then some 0x0203
  else if sgUnits ws = 0 then some 0x0204
  else if sgDst ws % 65536 ≠ 0 ∨ shingleCap < sgDst ws + n ∨ (write ∧ (sgSrc ws % 256 ≠ 0 ∨ !inStackOrShelf (sgSrc ws) n)) then
    some 0x0206
  else none

/-- Whether descriptors are queued, and the queue is configured, idle and served (R166, R365). -/
def Mach.sgReady (m : Mach) : Bool :=
  let log2 := m.fget Reg.SG_WQ_BASE_LOG2
  m.sg.cur.isNone && m.harbourRuns && !m.compDown 2 && decide (6 ≤ log2) && decide (log2 ≤ 16) &&
    m.fget Reg.SG_WQ_HEAD_HEAD != m.fget Reg.SG_WQ_TAIL_TAIL

/-- Address of the descriptor at the head. -/
def Mach.sgHeadAddr (m : Mach) : Nat :=
  m.fget Reg.SG_WQ_BASE_BASE * 4096 + m.fget Reg.SG_WQ_HEAD_HEAD % 2 ^ m.fget Reg.SG_WQ_BASE_LOG2 * 32

/-- Queued descriptors complete with 0x0102 in ring order, as far as they stand current at their home (R205); one that an agent holds
Modified is asked for, and the rest follow it (`sgResume`). The number bounds them. -/
def Mach.sgCancel (m : Mach) : Nat → Mach
  | 0 => m
  | n + 1 =>
    if m.sg.resetTo = none ∨ m.fget Reg.SG_WQ_HEAD_HEAD = m.sg.resetTo.getD 0 then { m with sg := { m.sg with resetTo := none } }
    else
      let rd := m.hubWords 24 m.sgHeadAddr 4
      match rd.2 with
      | none => rd.1
      | some ws => ((rd.1.fset Reg.SG_WQ_HEAD_HEAD (m.fget Reg.SG_WQ_HEAD_HEAD + 1)).sgRecord ws.1 0x0102 0).sgCancel n

/-- A QRESET in progress goes on. -/
def Mach.sgResume (m : Mach) : Mach := m.sgCancel (2 ^ m.fget Reg.SG_WQ_BASE_LOG2 + 1)

/-- Take the descriptor at the head, current at its home, when `mine` accepts its OP; a failed check completes it, and so does a
locked Shingle (R400, R428) or a held component (R362). -/
def Mach.sgTake (m : Mach) (mine : Nat → Bool) (go : Mach → List Word → Mach) : Mach :=
  if m.sg.resetTo.isSome then m.sgResume
  else if !m.sgReady then m
  else
    let got := m.hubWords 24 m.sgHeadAddr 4
    match got.2 with
    | none => got.1
    | some rd =>
      if !mine (sgOp rd.1) then got.1
      else
        let m1 := got.1.fset Reg.SG_WQ_HEAD_HEAD (m.fget Reg.SG_WQ_HEAD_HEAD + 1)
        if rd.2 then m1.sgRecord rd.1 0x0304 0
        else
          match sgCheck rd.1 with
          | some st => m1.sgRecord rd.1 st 0
          | none =>
            if m1.lh.locked then m1.sgRecord rd.1 0x0605 0
            else if m1.compHeld 2 then m1.sgRecord rd.1 0x0F01 0
            else go m1 rd.1

/-- WRITE (R168, R170): its descriptor is taken; a locked layer completes it with 0x0705. Reserved OPs are met here too. -/
def execWrite (s : State) : Host.Outcome State Fault Refusal :=
  s.act (fun m => m.sgTake (fun op => op != 1) (fun a ws =>
    if a.flag Reg.SG_STATE_WRITE_LOCK then a.sgRecord ws 0x0705 0
    else { a with sg := { a.sg with cur := some (ws, 0) } }))

/-- Set a run of bytes of user capacity. -/
def shinPut (off : Nat) : List Byte → SMap Byte → SMap Byte
  | [], d => d
  | b :: bs, d => shinPut (off + 1) bs (sset 0 off b d)

/-- Rated bytes written (R169). -/
def ratedWrites : Nat := 24000000000000000

/-- Commit one unit with its bytes: it is programmed into a free block, the old data is replaced whole and leaves the read buffer, and a
poisoned unit is whole again (R165, R168, R169). -/
def Mach.commitUnit (m : Mach) (u : Nat) (bs : List Byte) : Mach :=
  let p := m.programUnit u
  let m1 := { p with sg := { p.sg with
    data := shinPut (u * 65536) bs p.sg.data
    bad := sset false u false p.sg.bad
    pages := p.sg.pages.filter (fun q => q / 4 != u)
    written := p.sg.written + 65536 } }
  m1.fset Reg.SG_STATE_WEAR (min 255 (m1.sg.written * 100 / ratedWrites))

/-- Whether writes wait because Shingle stands at 80 °C, or has not yet fallen below 77 °C (R437): LH_TEMP holds sixteenths. -/
def Mach.sgHot (m : Mach) : Bool := m.lh.sgWait

/-- UNIT_COMMIT (R168): the running WRITE reads its next unit, programs it and switches its map entry; a poisoned source
stops it with 0x0304; the record follows the last commit. -/
def execUnitCommit (s : State) : Host.Outcome State Fault Refusal :=
  s.act (fun m =>
    match m.sg.cur with
    | none => m
    | some (ws, done) =>
      if m.sgHot then m else
      let src := sgSrc ws + done * 65536
      let cur := m.current 24 src 65536
      if !cur.2 then cur.1
      else
        let d := m.load (m.keyId (bits (wd ws 0) 8 6)) src 65536
        let stop := fun (a : Mach) => { a with sg := { a.sg with cur := none } }
        if d.2 then (stop m).sgRecord ws 0x0304 done
        else
          let m1 := m.commitUnit (sgDst ws / 65536 + done) d.1
          if done + 1 = sgUnits ws then (stop m1).sgRecord ws 0 (done + 1)
          else { m1 with sg := { m1.sg with cur := some (ws, done + 1) } })

/-- TRIM (R168): its units read zero. -/
def execTrim (s : State) : Host.Outcome State Fault Refusal :=
  s.act (fun m => m.sgTake (fun op => op == 1) (fun a ws =>
    let lo := sgDst ws
    let n := sgUnits ws
    let f := a.freeUnits (lo / 65536) n
    ({ f with sg := { f.sg with
      data := serase (fun k => decide (lo ≤ k) && decide (k < lo + n * 65536)) f.sg.data
      bad := serase (fun u => decide (lo / 65536 ≤ u) && decide (u < lo / 65536 + n)) f.sg.bad
      pages := f.sg.pages.filter (fun q => !(decide (lo / 65536 ≤ q / 4) && decide (q / 4 < lo / 65536 + n))) } }).sgRecord ws 0 n))

/-- A write to SG_WQ_TAIL (R166, R258). -/
def execShingleDoorbell (a : Agent) (tail : BitVec 32) (s : State) : Host.Outcome State Fault Refusal :=
  s.act (fun m => m.owned a Reg.SG_WQ_TAIL (fun x => x.fset Reg.SG_WQ_TAIL_TAIL tail.toNat))

/-- QRESET of SG_CTRL (R179): HEAD goes to TAIL, and the queued descriptors complete with 0x0102. -/
def execQreset (a : Agent) (s : State) : Host.Outcome State Fault Refusal :=
  s.act (fun m => m.owned a Reg.SG_CTRL (fun x =>
    ({ x with sg := { x.sg with resetTo := some (x.fget Reg.SG_WQ_TAIL_TAIL) } }).sgResume))

/-- SANITIZE of SG_CTRL (R171): the erase waits until the queue is empty. -/
def execSanitize (a : Agent) (s : State) : Host.Outcome State Fault Refusal :=
  s.act (fun m => m.owned a Reg.SG_CTRL (fun x => { x with sg := { x.sg with sanitize := true } }))

/-- Every unit unwritten under a new media key, the Tidemark partition with it (R171). -/
def Mach.sgErase (m : Mach) : Mach :=
  { m with
    sg := { m.sg with
      data := []
      bad := []
      part := []
      map := []
      pages := []
      sanitize := false
      mediaKey := m.sg.mediaKey + 1 }
    tm := { m.tm with part := [] } }

/-- SANITIZE_DONE (R171). -/
def execSanitizeDone (s : State) : Host.Outcome State Fault Refusal :=
  s.act (fun m =>
    if m.sg.sanitize ∧ m.sg.cur = none ∧ m.fget Reg.SG_WQ_HEAD_HEAD = m.fget Reg.SG_WQ_TAIL_TAIL then m.sgErase else m)

/-! Upkeep (R169, R170) -/

/-- A block's unit moves to the free block with the lowest erase count and the block is erased: the data of every unit stands. -/
def Mach.relocate (m : Mach) (b : Nat) : Mach :=
  match m.unitOf b with
  | some u => m.programUnit u
  | none => m

/-- WEAR_LEVELLING: a block of data whose erase count lags the mean by more than 500. -/
def execWearLevelling (block : Nat) (s : State) : Host.Outcome State Fault Refusal :=
  s.act (fun m => if !(m.block block).retired && decide ((m.block block).erases + 500 < m.meanErases) then m.relocate block else m)

/-- READ_DISTURB_REFRESH: a block that has counted 60,000 page reads. -/
def execReadDisturbRefresh (block : Nat) (s : State) : Host.Outcome State Fault Refusal :=
  s.act (fun m => if !(m.block block).retired && decide (60000 ≤ (m.block block).reads) then m.relocate block else m)

/-- BLOCK_RETIRE: a program or erase failure retires the block; a failed program is repeated elsewhere before its unit
commits. A spare of 0.5 TB or less locks writes (R164, R170). -/
def execBlockRetire (block : Nat) (s : State) : Host.Outcome State Fault Refusal :=
  s.act (fun m =>
    if (m.block block).retired ∨ flashBlocks ≤ block then m
    else
      ((m.setBlock block { m.block block with retired := true }).relocate block).showSpare)

end Sys2Proof.Machine
end

