-- ==== Sys2Proof/Machine/Tidemark.lean ====
section
/-!
DEFINITION. Tidemarks (R371 to R387): the plan, requests, capture, placement, sealing, restore and replay, and the step
boundary, where they and the other module actions take effect (R22, R116, R134).
-/

namespace Sys2Proof.Machine

/-! CRC-64/XZ (R377) -/

/-- One bit of the reflected CRC. -/
def crc64Bit (c : BitVec 64) : BitVec 64 := if c.getLsbD 0 then (c >>> 1) ^^^ 0xC96C5795D7870F42#64 else c >>> 1

def crc64Bits : Nat → BitVec 64 → BitVec 64
  | 0, c => c
  | n + 1, c => crc64Bits n (crc64Bit c)

/-- CRC-64/XZ of bytes. -/
def crc64 (bs : List Byte) : Word := ~~~(bs.foldl (fun c b => crc64Bits 8 (c ^^^ BitVec.setWidth 64 b)) (BitVec.allOnes 64))

/-! Reads and writes as directory position 20 -/

/-- How an attempt went: its result, or an end with a status; `none` waits. -/
def Mach.tmTry {α : Type} (jn : Nat) (r : Mach × Except XStop α) : Mach × Except (Option Nat) α :=
  match r.2 with
  | .ok a => (r.1, .ok a)
  | .error x =>
    let q := r.1.agentStop 20 jn x
    (q.1, .error q.2)

def Mach.tmRead (m : Mach) (j : Job) (jn va n : Nat) : Mach × Except (Option Nat) (List Byte) :=
  if n = 0 then (m, .ok []) else Mach.tmTry jn (m.agentRead 20 j va n)

def Mach.tmWrite (m : Mach) (j : Job) (jn va : Nat) (bs : List Byte) : Mach × Except (Option Nat) Unit :=
  if bs.isEmpty then (m, .ok ()) else Mach.tmTry jn (m.agentWrite j none va bs)

/-- Whether every piece of a range lies in a tier that the test accepts. -/
def Mach.tmTiers (m : Mach) (j : Job) (jn va n : Nat) (acc : Access) (good : Tier → Bool) : Mach × Except (Option Nat) Unit :=
  let t := Mach.tmTry jn (m.agentRange j va n acc)
  match t.2 with
  | .error e => (t.1, .error e)
  | .ok ps => if ps.all (fun p => good (tierOf p.pa)) then (t.1, .ok ()) else (t.1, .error (some 0x0206))

/-- Read several ranges. -/
def Mach.tmReads (m : Mach) (j : Job) (jn : Nat) : List (Nat × Nat) → Mach × Except (Option Nat) (List (List Byte))
  | [] => (m, .ok [])
  | (va, n) :: rest =>
    let a := m.tmRead j jn va n
    match a.2 with
    | .error e => (a.1, .error e)
    | .ok d =>
      let b := a.1.tmReads j jn rest
      match b.2 with
      | .error e => (b.1, .error e)
      | .ok ds => (b.1, .ok (d :: ds))

/-- Write several ranges. -/
def Mach.tmWrites (m : Mach) (j : Job) (jn : Nat) : List (Nat × List Byte) → Mach × Except (Option Nat) Unit
  | [] => (m, .ok ())
  | (va, bs) :: rest =>
    let a := m.tmWrite j jn va bs
    match a.2 with
    | .error e => (a.1, .error e)
    | .ok _ => a.1.tmWrites j jn rest

/-! The plan (R372 to R374) -/

def TmSeg.seals (s : TmSeg) : Bool := s.kind == 8 || s.kind == 9
/-- Bytes of a segment in the image. -/
def TmSeg.padded (s : TmSeg) : Nat := (s.len + 4095) / 4096 * 4096
/-- Bytes of a plan's image (R378). -/
def imageLen (segs : List TmSeg) : Nat := 4096 + ((segs.filter (fun s => !s.seals)).map TmSeg.padded).sum

def shardBytes : Nat := 268435456

/-- Shards of an image. -/
def shardsOf (len : Nat) : Nat := (len + shardBytes - 1) / shardBytes

def planFields (i : Nat) : List (Nat × Nat) :=
  if i = 0 then [(0, 16)] else if i = 1 then [(0, 48)] else if i = 3 then [(0, 40)] else if i = 5 then [(0, 13)]
  else if i = 7 then [(0, 57), (60, 4)] else [(0, 57)]

def segFields (i : Nat) : List (Nat × Nat) :=
  if i = 0 then [(0, 57)] else if i = 1 then [(0, 40)] else if i = 2 then [(0, 4)] else [(60, 4)]

def segsOf (n : Nat) (es : List Word) : List TmSeg :=
  (List.range n).map (fun k => ⟨bits (wd es (4 * k)) 0 57, bits (wd es (4 * k + 1)) 0 40, bits (wd es (4 * k + 2)) 0 4⟩)

/-- R9 and R10 over a plan: header, entries, candidates. DEDUCED: log entry 46. -/
def planWords (h es cs : List Word) : Option Nat :=
  let n := es.length / 4
  if bits (wd h 7) 60 4 ≠ 1 ∨ (List.range n).any (fun k => bits (wd es (4 * k + 3)) 60 4 != 1) ∨
      cs.any (fun (w : Word) => bits w 60 4 != 1) then some 0x0202
  else if (List.range 8).any (fun i => reservedSet (wd h i) (planFields i)) ∨
      (List.range (4 * n)).any (fun i => reservedSet (wd es i) (segFields (i % 4))) ∨
      cs.any (fun w => reservedSet w [(0, 12), (60, 4)]) then some 0x0201
  else none

/-- The checks of R374 on a plan's own values: kinds, then shapes, then alignment. -/
def planValues (h : List Word) (segs : List TmSeg) : Option Nat :=
  let ncand := bits (wd h 5) 0 13
  if bits (wd h 0) 6 2 = 3 ∨ segs.any (fun s => s.kind == 0 || s.kind == 7 || decide (9 < s.kind)) then some 0x0203
  else if (segs.filter (fun s => s.kind == 8)).length ≠ 1 ∨ segs.any (fun s => s.len == 0) ∨
      segs.any (fun s => s.kind == 8 && (decide (64 < s.len) || decide (s.len < 4))) ∨
      segs.any (fun s => s.kind != 8 && s.len % 64 != 0) ∨ bits (wd h 3) 0 40 < 2 * imageLen segs ∨ ncand = 0 ∨ 4096 < ncand then
    some 0x0204
  else if bits (wd h 2) 0 57 % 0x200000 ≠ 0 ∨ segs.any (fun s => s.va % 64 != 0) ∨ bits (wd h 7) 0 57 % 64 ≠ 0 then some 0x0206
  else none

/-- The ranges of a plan lie where they must: STAGE in Shelf, no segment in the host range or Shingle (R374), and neither the candidate
list nor the placement record in the host range (R264). -/
def Mach.planTiers (m : Mach) (j : Job) (jn : Nat) (h : List Word) (segs : List TmSeg) : Mach × Except (Option Nat) Unit :=
  let within := fun (r : Mach × Except (Option Nat) Unit) (x : (Nat × Nat) × Access × (Tier → Bool)) =>
    match r.2 with
    | .error _ => r
    | .ok _ => r.1.tmTiers j jn x.1.1 x.1.2 x.2.1 x.2.2
  let inner := fun (t : Tier) => !(decide (t = .host) || decide (t = .shingle))
  let here := fun (t : Tier) => !decide (t = .host)
  ([((bits (wd h 2) 0 57, bits (wd h 3) 0 40), Access.write, fun (t : Tier) => decide (t = .shelf))] ++
    segs.map (fun s => ((s.va, s.len), Access.read, inner)) ++
    [((bits (wd h 4) 0 57, 8 * bits (wd h 5) 0 13), Access.read, here),
      ((bits (wd h 7) 0 57, 64 + 32 * shardsOf (imageLen segs)), Access.write, here)]).foldl within (m, .ok ())

/-- The Tidemark group of a plan (R342, R344): any failure of it is 0x0204. -/
def Mach.planGroup (m : Mach) (j : Job) (jn va : Nat) : Mach × Except (Option Nat) Group :=
  let rh := m.tmRead j jn va 64
  match rh.2 with
  | .error e => (rh.1, .error e)
  | .ok hb =>
    match groupHead (leWords 8 hb) with
    | .error _ => (rh.1, .error (some 0x0204))
    | .ok g0 =>
      let re := rh.1.tmRead j jn (va + 64) (8 * g0.n)
      match re.2 with
      | .error e => (re.1, .error e)
      | .ok eb =>
        match re.1.groupCheck g0 (leWords g0.n eb) with
        | .error _ => (re.1, .error (some 0x0204))
        | .ok g =>
          match re.1.clContexts jn g (kidsOf g.n 0 g.self ++ (parentOf g.n 0 g.self).toList) with
          | .error _ => (re.1, .error (some 0x0204))
          | .ok _ => (re.1, .ok g)

/-- A plan's last checks (R374): its ranges, its group and candidates, and the feed groups; the plan that ARM puts into force. -/
def Mach.planFinish (m : Mach) (j : Job) (jn : Nat) (h : List Word) (segs : List TmSeg) (cand : List Nat) :
    Mach × Except (Option Nat) TmPlan :=
  let t := m.planTiers j jn h segs
  match t.2 with
  | .error e => (t.1, .error e)
  | .ok _ =>
    let g := t.1.planGroup j jn (bits (wd h 6) 0 57)
    match g.2 with
    | .error e => (g.1, .error e)
    | .ok gr =>
      if cand.contains (g.1.fget Reg.SW_SELF_RANK) then (g.1, .error (some 0x0204))
      else if g.1.fget Reg.LH_GROUP_FEED = 0 ∨ g.1.fget Reg.LH_GROUP_SLED = 0 then (g.1, .error (some 0x0104))
      else (g.1, .ok ⟨segs, bits (wd h 0) 6 2 + 1, bits (wd h 0) 8 8, bits (wd h 1) 0 48, bits (wd h 2) 0 57, bits (wd h 3) 0 40,
        cand, gr.n, gr.self, gr.ranks, bits (wd h 7) 0 57⟩)

/-- Read and check a plan (R374). -/
def Mach.planRead (m : Mach) (j : Job) (jn : Nat) : Mach × Except (Option Nat) TmPlan :=
  let base := m.fget (Reg.HB_TM_PLAN_BASE jn)
  let rh := m.tmRead j jn base 64
  match rh.2 with
  | .error e => (rh.1, .error e)
  | .ok hb =>
    let h := leWords 8 hb
    let n := bits (wd h 0) 0 6 + 1
    let re := rh.1.tmRead j jn (base + 64) (32 * n)
    match re.2 with
    | .error e => (re.1, .error e)
    | .ok eb =>
      let es := leWords (4 * n) eb
      let nc := min 4096 (bits (wd h 5) 0 13)
      let rc := re.1.tmRead j jn (bits (wd h 4) 0 57) (8 * nc)
      match rc.2 with
      | .error e => (rc.1, .error e)
      | .ok cb =>
        let cs := leWords nc cb
        let segs := segsOf n es
        match planWords h es cs with
        | some st => (rc.1, .error (some st))
        | none =>
          match planValues h segs with
          | some st => (rc.1, .error (some st))
          | none => rc.1.planFinish j jn h segs (cs.map (fun (w : Word) => bits w 0 12))

/-- TIDEMARK_ARM (R374): a refused plan leaves the one in force; an ARM during a Tidemark completes with 0x0101. -/
def Mach.tmArm (m : Mach) (i : Instr) (jn : Nat) : Mach :=
  let t := m.tmJob jn
  match m.job? jn with
  | none => m.fset (Reg.HB_TM_STATE_STATUS jn) 0x0101
  | some j =>
    if t.cur.isSome then m.fset (Reg.HB_TM_STATE_STATUS jn) 0x0101
    else
      let r := m.planRead j jn
      match r.2 with
      | .error none => r.1.anew i
      | .error (some st) => r.1.fset (Reg.HB_TM_STATE_STATUS jn) st
      | .ok p => (r.1.setTmJob jn { t with plan := some p }).fset (Reg.HB_TM_STATE_STATUS jn) 0

/-- TIDEMARK_ARM (R374). -/
def execTidemarkArm (a : Agent) (job : Fin 64) (s : State) : Host.Outcome State Fault Refusal :=
  s.act (fun m0 => m0.byAgent a (Reg.HB_TM_CTRL job.val) (fun m => m.tmArm (.tidemarkArm a job) job.val))

/-! Requests (R375, R376) -/

/-- Send a request (kind 12) or a REFUSE (kind 13) to some positions of the Tidemark group. -/
def Mach.tmTell (m : Mach) (p : TmPlan) (kind jn target : Nat) (down : Bool) (who : List Nat) : Mach :=
  who.foldl (fun a i => a.sendTo (p.ranks.getD i 0) [kind, p.ranks.getD i 0, jn, target, if down then 1 else 0] []) m

/-- Pass a request or a REFUSE on along tree 0 of R350: up to the root, and from there down. -/
def Mach.tmPass (m : Mach) (p : TmPlan) (kind jn target : Nat) (down : Bool) : Mach :=
  match down, parentOf p.n 0 p.self with
  | false, some i => m.tmTell p kind jn target false [i]
  | _, _ => m.tmTell p kind jn target true (kidsOf p.n 0 p.self)

/-- The boundary a member has yet to reach, as a global step (R372). -/
def Mach.tmAt (m : Mach) (p : TmPlan) (jn : Nat) : Nat :=
  match m.job? jn with
  | some j => p.base + j.step
  | none => p.base

/-- A request with a target reaches this member (R376): pending, absorbed, in place of a later one, or refused. -/
def Mach.tmArrive (m : Mach) (jn : Nat) (p : TmPlan) (target : Nat) (risky : Bool) : Mach :=
  let t := m.tmJob jn
  if target < m.tmAt p jn then m.tmPass p 13 jn target false
  else
    match t.pending with
    | some q => if target < q then m.setTmJob jn { t with
        pending := some target
        risky := risky } else m
    | none => m.setTmJob jn { t with
        pending := some target
        risky := risky }

/-- The module requests a Tidemark of a job (R375): the boundary of step s + 2, for itself and for the group. -/
def Mach.tmRequest (m : Mach) (jn : Nat) (risky : Bool) : Mach :=
  let t := m.tmJob jn
  match t.plan, m.job? jn with
  | some p, some j =>
    let g := p.base + j.step + 2
    let m1 := (m.setTmJob jn { t with asked := some g }).tmArrive jn p g risky
    m1.tmPass p 12 jn g false
  | _, _ => m

/-- Whether a job may request a Tidemark: armed, live and not verifying a replay. -/
def Mach.tmReady (m : Mach) (jn : Nat) : Bool := (m.tmJob jn).plan.isSome && m.live jn && (m.tmJob jn).verify.isNone

/-- TAKE (R375): of a job that is not armed it completes with 0x0101. -/
def execTake (a : Agent) (job : Fin 64) (s : State) : Host.Outcome State Fault Refusal :=
  s.act (fun m0 => m0.byAgent a (Reg.HB_TM_CTRL job.val) (fun m => if m.tmReady job.val then m.tmRequest job.val false else m.fset (Reg.HB_TM_STATE_STATUS job.val) 0x0101))

/-- TIDEMARK_CANCEL (R387): the pending target is dropped on this module only. -/
def execTidemarkCancel (a : Agent) (job : Fin 64) (s : State) : Host.Outcome State Fault Refusal :=
  s.act (fun m0 => m0.byAgent a (Reg.HB_TM_CTRL job.val) (fun m =>
    let t := m.tmJob job.val
    if t.pending.isSome then m.setTmJob job.val { t with
      pending := none
      asked := none } else m))

/-- INTERVAL_EXPIRY (R375). -/
def execIntervalExpiry (job : Fin 64) (s : State) : Host.Outcome State Fault Refusal :=
  s.act (fun m => if m.flag (Reg.HB_TM_CFG_INTERVAL_EN job.val) && m.tmReady job.val then m.tmRequest job.val false else m)

/-- TIDEMARK_REQUEST (R376): a request received from the tree, going up or down; a member with no plan takes none. -/
def execTidemarkRequest (job : Fin 64) (target : Word) (down : Bool) (s : State) : Host.Outcome State Fault Refusal :=
  s.act (fun m =>
    match (m.tmJob job.val).plan with
    | none => m
    | some p => if m.live job.val then (m.tmArrive job.val p target.toNat false).tmPass p 12 job.val target.toNat down else m)

/-- REFUSE (R376): its target is dropped here and passed on; the requester requests again with a new one. -/
def execRefuse (job : Fin 64) (target : Word) (down : Bool) (s : State) : Host.Outcome State Fault Refusal :=
  s.act (fun m =>
    let t := m.tmJob job.val
    match t.plan with
    | none => m
    | some p =>
      let mine := decide (t.asked = some target.toNat)
      let m1 := m.setTmJob job.val { t with
        pending := if t.pending = some target.toNat then none else t.pending
        asked := if mine then none else t.asked }
      let m2 := m1.tmPass p 13 job.val target.toNat down
      if mine then m2.tmRequest job.val t.risky else m2)

/-! The risk score (R371, R375) -/

/-- Every event of the memory controllers in the last hour, and the locations erased and groups retired now. -/
def Mach.riskMemory (m : Mach) : Nat :=
  let evs := (m.mem.events.filter (fun e => decide (m.now < e.time + 3600000000000))).length
  let pchs := (List.range 8).flatMap (fun s => (List.range 64).map (fun p => (m.flag (Reg.SK_PCH_E0 s p), m.flag (Reg.SK_PCH_E1 s p),
    m.flag (Reg.SK_PCH_RETIRED s p))))
  let grps := (List.range 24).flatMap (fun c => (List.range 2).map (fun g => (m.flag (Reg.SF_GRP_E0 c g), m.flag (Reg.SF_GRP_E1 c g),
    m.flag (Reg.SF_GRP_RETIRED c g))))
  let all := pchs ++ grps
  let er := (all.map (fun x => (if x.1 then 1 else 0) + (if x.2.1 then 1 else 0))).sum
  min 255 (8 * evs + 64 * er + (if all.any (fun x => x.2.2) then 255 else 0))

/-- A sensor's reading in sixteenths of a degree (R412, R422). -/
def Mach.temp16 (m : Mach) (n : Nat) : Int := (BitVec.ofNat 16 (m.fget (Reg.LH_TEMP_TEMP n))).toInt

/-- Points of a margin: 16 for each whole degree or percent below 20, by its sixteenths or tenths. DEDUCED: log entry 48. -/
def marginPoints (unit : Int) (v : Int) : Nat := min 255 (16 * (20 * unit - v) / unit).toNat

/-- Smallest margin of a stack or die to its trip, in sixteenths of a degree. -/
def Mach.riskMargin (m : Mach) : Int :=
  let die := (List.range 336).map (fun n => 110 * 16 - m.temp16 n)
  let stack := (List.range 32).map (fun n => 100 * 16 - m.temp16 (340 + n))
  (die ++ stack).foldl min (20 * 16)

/-- Smallest headroom of a laser source, in tenths of a percent. -/
def Mach.riskHeadroom (m : Mach) : Int := ((List.range 4).map (fun b => (m.fget (Reg.LH_LASER_HEADROOM b) : Int))).foldl min 200

/-- Lane health: wires spared, groups lost, narrowed ports, seaward lanes retired for a fault. -/
def Mach.riskLanes (m : Mach) : Nat :=
  let spares := ((List.range 5).map (fun p => m.fget (Reg.HB_LT_STATE_SPARES_USED p))).sum
  let groups := ((List.range 5).map (fun p => m.fget (Reg.HB_LT_STATE_GROUPS_LOST p))).sum
  let narrow := ((List.range 5).filter (fun p => m.fget (Reg.HB_LT_STATE_WIDTH p) == 1)).length
  let lanes := ((List.range 64).filter (fun l => m.fget (Reg.SW_LANE_STATE l) == 3 && m.fget (Reg.SW_LANE_CAUSE l) != 5)).length
  min 255 (4 * spares + 32 * groups + 128 * narrow + 32 * lanes)

/-- Peer failures: notices of the last 10 minutes. -/
def Mach.riskPeers (m : Mach) : Nat :=
  min 255 (16 * (m.sw.notices.filter (fun t => decide (m.now < t + 600000000000))).length)

/-- The risk trigger of a job at a score (R375): it fires at THRESH, and re-arms below THRESH − 64 or RISK_GAP minutes after the
last Tidemark on a risk trigger. -/
def Mach.riskJob (m : Mach) (score jn : Nat) : Mach :=
  let t := m.tmJob jn
  let th := m.fget (Reg.HB_TM_CFG_THRESH jn)
  let gap := match t.riskAt with
    | some x => decide (x + m.fget (Reg.HB_TM_CFG_RISK_GAP jn) * 60000000000 ≤ m.now)
    | none => false
  let armed := !t.fired || decide (score + 64 < th) || gap
  if !m.tmReady jn then m
  else if m.flag (Reg.HB_TM_CFG_RISK_EN jn) && decide (th ≤ score) && armed then
    (m.setTmJob jn { t with
      fired := true
      riskAt := if gap then none else t.riskAt }).tmRequest jn true
  else m.setTmJob jn { t with fired := !armed }

/-- RISK_UPDATE (R371, R375, R388). -/
def execRiskUpdate (s : State) : Host.Outcome State Fault Refusal :=
  s.act (fun m =>
    let cm := m.riskMemory
    let ct := marginPoints 16 m.riskMargin
    let cl := marginPoints 10 m.riskHeadroom
    let ch := m.riskLanes
    let cp := m.riskPeers
    let w := m.fget Reg.LH_RISK_W_W_M * cm + m.fget Reg.LH_RISK_W_W_T * ct + m.fget Reg.LH_RISK_W_W_L * cl +
      m.fget Reg.LH_RISK_W_W_H * ch + m.fget Reg.LH_RISK_W_W_P * cp
    let score := min 1023 (w / 64)
    let m1 := m.rset Reg.LH_RISK (BitVec.ofNat 64 (score + cm * 2 ^ 10 + ct * 2 ^ 18 + cl * 2 ^ 26 + ch * 2 ^ 34 + cp * 2 ^ 42))
    (m1.tm.jobs.map Prod.fst).foldl (fun a jn => a.riskJob score jn) m1)

/-! Capture (R377, R378) -/

/-- Where a staging half begins. DEDUCED: log entry 46. -/
def TmPlan.half (p : TmPlan) (h : Nat) : Nat := p.stage + (if h = 0 then 0 else p.stageLen / 2 / 4096 * 4096)

/-- The 4 KiB header of an image: `crc k` of segment `k`, and the flag of step s + 1 once known. -/
def Mach.tmHeader (m : Mach) (p : TmPlan) (seed : Nat) (k : TmMark) (finNext : Bool) (crc : Nat → Word) : List Byte :=
  let w := fun (i : Nat) =>
    if i = 0 then BitVec.ofNat 64 m.ident
    else if i = 1 then BitVec.ofNat 64 k.gstep
    else if i = 2 then BitVec.ofNat 64 seed
    else if i = 3 then BitVec.ofNat 64 ((if k.fin then 1 else 0) + (if finNext then 2 else 0) + m.fget Reg.LH_GROUP_FEED * 2 ^ 16 +
      m.fget Reg.LH_GROUP_SLED * 2 ^ 32)
    else if i = 4 then BitVec.ofNat 64 p.segs.length
    else if i = 5 then BitVec.ofNat 64 (imageLen p.segs)
    else if i = 7 then BitVec.ofNat 64 (2 ^ 60)
    else if 32 ≤ i ∧ (i - 32) / 4 < p.segs.length then
      let s := p.segs.getD ((i - 32) / 4) ⟨0, 0, 0⟩
      if i % 4 = 0 then BitVec.ofNat 64 s.kind else if i % 4 = 1 then BitVec.ofNat 64 s.len else if i % 4 = 2 then crc ((i - 32) / 4)
      else (0 : Word)
    else (0 : Word)
  wordBytes ((List.range 512).map w)

/-- Segments of a plan with a property, with their numbers. -/
def TmPlan.pick (p : TmPlan) (f : TmSeg → Bool) : List (Nat × TmSeg) :=
  ((List.range p.segs.length).zip p.segs).filter (fun s => f s.2)

/-- CRCs of some segments by number, 0 for any other. -/
def crcBy (segs : List (Nat × TmSeg)) (ds : List (List Byte)) (k : Nat) : Word :=
  match (segs.zip ds).find? (fun x => x.1.1 == k) with
  | some x => crc64 x.2
  | none => 0

/-- The image of a Tidemark from its take-time segments. -/
def Mach.tmImage (m : Mach) (p : TmPlan) (seed : Nat) (k : TmMark) (segs : List (Nat × TmSeg)) (ds : List (List Byte)) : List Byte :=
  m.tmHeader p seed k false (crcBy segs ds) ++
    (segs.zip ds).flatMap (fun x => x.2 ++ List.replicate (x.1.2.padded - x.2.length) 0)

/-! Placement (R379) -/


/-- Bytes of shard `i` of an image. -/
def shardLen (len i : Nat) : Nat := min shardBytes (len - i * shardBytes)

/-- Free bytes of the Shingle partition, of 1 TB. -/
def Mach.partFree (m : Mach) : Nat := 1000000000000 - (m.tm.part.map (fun c => c.len)).sum

/-- First byte past what a list of placed copies takes, each with its place and size. -/
def pastEnd (size : TmCopy → Nat) (cs : List TmCopy) : Nat := cs.foldl (fun a c => max a (c.off + size c)) 0

/-- A place of `n` units that no copy takes: the first that fits after the start or after a copy; none where none does. -/
def findRoom (size : TmCopy → Nat) (cap n : Nat) (cs : List TmCopy) : Option Nat :=
  (0 :: cs.map (fun c => c.off + size c)).find? (fun o =>
    decide (o + n ≤ cap) && cs.all (fun c => decide (c.off + size c ≤ o) || decide (o + n ≤ c.off)))

/-- The bytes of a shard in the staging area. -/
def Mach.tmShard (m : Mach) (j : Job) (jn : Nat) (p : TmPlan) (k : TmMark) (i : Nat) : Mach × Except (Option Nat) (List Byte) :=
  m.tmRead j jn (p.half k.half + i * shardBytes) (shardLen k.len i)

/-- A copy goes to the module's own Shingle partition: 0x0706 in STATUS and the log; a locked Shingle or a full partition fails
the Tidemark. -/
def Mach.tmToShingle (m : Mach) (j : Job) (jn : Nat) (p : TmPlan) (k : TmMark) (i : Nat) : Mach × Except (Option Nat) TmMark :=
  if m.lh.locked then (m, .error (some 0x0605))
  else
    let n := shardLen k.len i
    match findRoom (fun c => c.len) 1000000000000 n m.tm.part with
    | none => (m, .error (some 0x0705))
    | some off =>
      let r := m.tmShard j jn p k i
      match r.2 with
      | .error e => (r.1, .error e)
      | .ok bs =>
        let c : TmCopy := ⟨r.1.ident, r.1.rtagOf jn, k.gstep, i, off, n, k.sealData⟩
        let m1 := { r.1 with
          sg := { r.1.sg with part := shinPut off bs r.1.sg.part }
          tm := { r.1.tm with part := r.1.tm.part ++ [c] } }
        let m2 := ((m1.fset (Reg.HB_TM_STATE_STATUS jn) 0x0706).fset (Reg.HB_TM_STATE_SHINGLE jn) 1).logE 0x12 0x0706 0 jn k.gstep
        (m2, .ok { k with
          holds := k.holds ++ [⟨i, ownShingle, 0⟩]
          todo := k.todo.drop 1
          next := 0
          offer := none })

/-- Whether a candidate is passed over for a shard: it holds a copy of it, or its feed group is known to be a holder's. -/
def Mach.tmSkips (m : Mach) (t : TmJob) (k : TmMark) (i rank : Nat) : Bool :=
  let mine := k.holds.filter (fun h => h.shard == i && h.id != ownShingle)
  mine.any (fun h => h.id == m.rankIdent rank) ||
    (match t.feeds.find? (fun x => x.1 == rank) with
     | some (_, f) => mine.any (fun h => h.feed == f)
     | none => false)

/-- Candidate at step `t` of the walk for a copy of shard `i` (R379). -/
def TmPlan.candAt (p : TmPlan) (i c t : Nat) : Nat := p.cand.getD ((i * p.copies + c + t) % p.cand.length) 0

/-- Walk on for the first copy to be placed: offer it to the next candidate, or write it to Shingle and go on with the next
copy. The number bounds the copies. -/
def Mach.tmPlace (m : Mach) (j : Job) (jn : Nat) (p : TmPlan) (t : TmJob) : Nat → TmMark → Mach × Except (Option Nat) TmMark
  | 0, k => (m, .ok k)
  | n + 1, k =>
    match k.todo with
    | [] => (m, .ok k)
    | i :: _ =>
      let c := (k.holds.filter (fun h => h.shard == i)).length
      match (List.range p.cand.length).find? (fun x => decide (k.next ≤ x) && !m.tmSkips t k i (p.candAt i c x)) with
      | some x =>
        if (List.range 16384).all (fun q => (m.ctx q).isSome) then (m, .error (some 0x0704))
        else
          let r := p.candAt i c x
          let m1 := m.sendTo r [14, r, jn, m.ident, m.fget Reg.LH_GROUP_FEED, m.fget Reg.LH_GROUP_SLED, (m.rtagOf jn).toNat, k.gstep, i,
            shardLen k.len i] []
          (m1, .ok { k with
            next := x + 1
            offer := some r })
      | none =>
        let s := m.tmToShingle j jn p k i
        match s.2 with
        | .error e => (s.1, .error e)
        | .ok k1 => s.1.tmPlace j jn p t n k1

/-- The placement record of R379. -/
def Mach.tmRecord (m : Mach) (k : TmMark) : List Byte :=
  let n := shardsOf k.len
  let v := BitVec.ofNat 64 (2 ^ 60)
  wordBytes ([BitVec.ofNat 64 m.ident, BitVec.ofNat 64 k.gstep, BitVec.ofNat 64 k.len, BitVec.ofNat 64 n, 0, 0, 0, v] ++
    (List.range n).flatMap (fun i =>
      let hs := (k.holds.filter (fun h => h.shard == i)).map (fun h => h.id)
      [BitVec.ofNat 64 (hs.getD 0 0), BitVec.ofNat 64 (hs.getD 1 0), BitVec.ofNat 64 (hs.getD 2 0), v]))

/-- Partners that hold copies. -/
def TmMark.partners (k : TmMark) : List Nat := ((k.holds.map (fun h => h.id)).filter (fun i => i != ownShingle)).eraseDups

/-- Send the completed header and the seal-time segments to every holder that has not acknowledged them (R381), its own
partition's copies included. -/
def Mach.tmSendSeal (m : Mach) (jn : Nat) (k : TmMark) : Mach :=
  match k.sealData with
  | none => m
  | some d =>
    let m1 := (k.partners.filter (fun i => !k.acks.contains i)).foldl (fun a i =>
      a.sendIdent i [15, jn, a.ident, (a.rtagOf jn).toNat, k.gstep] d) m
    m1.setTm { m1.tm with part := m1.tm.part.map (fun c =>
      if c.rtag = m1.rtagOf jn ∧ c.gstep = k.gstep then { c with sealData := some d } else c) }

/-- Seal a Tidemark once every shard is placed and every holder has acknowledged (R381): the older one's copies go, SEVENT is
signalled with the count, and HB_TM_LAST shows it. DEDUCED: log entry 47. -/
def Mach.trySeal (m : Mach) (jn : Nat) : Mach :=
  let t := m.tmJob jn
  match t.cur, t.plan with
  | some k, some p =>
    (match k.sealData with
     | none => m
     | some d =>
       if !k.todo.isEmpty || k.len = 0 || !k.partners.all (fun i => k.acks.contains i) then m
       else
         let tag := m.rtagOf jn
         let m1 := m.setTm { m.tm with
           part := m.tm.part.filter (fun c => !(c.rtag == tag && c.gstep != k.gstep))
           locals := ⟨tag, k.gstep, k.half, d⟩ :: m.tm.locals.filter (fun l => l.rtag != tag) }
         let m2 := m1.setTmJob jn { t with
           cur := none
           last := some k
           sealedN := t.sealedN + 1 }
         (m2.rset (Reg.HB_TM_LAST jn) (BitVec.ofNat 64 k.gstep)).signal jn 192 p.sevent (t.sealedN + 1))
  | _, _ => m

/-- Carry a Tidemark's placement on (R379, R381): its offers, then the placement record and the seal. `old` is for copies of
the newest sealed Tidemark that are placed anew. -/
def Mach.tmOn (m : Mach) (jn : Nat) (old : Bool) : Mach :=
  let t := m.tmJob jn
  match (if old then t.last else t.cur), t.plan, m.job? jn with
  | some k, some p, some j =>
    let r := m.tmPlace j jn p t (k.todo.length + 1) k
    (match r.2 with
     | .error none => r.1
     | .error (some st) => if old then r.1.logE 0x12 st 0 jn k.gstep else r.1.tmFail jn st
     | .ok k1 =>
       let put := fun (a : Mach) => a.setTmJob jn (if old then { a.tmJob jn with last := some k1 } else { a.tmJob jn with cur := some k1 })
       if !k1.todo.isEmpty then put r.1
       else
         let w := (put r.1).tmWrite j jn p.index ((put r.1).tmRecord k1)
         match w.2 with
         | .error none => w.1
         | .error (some st) => if old then w.1.logE 0x12 st 0 jn k.gstep else w.1.tmFail jn st
         | .ok _ => if old then w.1.tmSendSeal jn k1 else (w.1.tmSendSeal jn k1).trySeal jn)
  | _, _, _ => m

/-- A captured image: its job goes on, and the copies of its shards are to be placed (R377, R379). -/
def Mach.captured (m : Mach) (jn : Nat) (t : TmJob) (k : TmMark) (p : TmPlan) : Mach :=
  let len := imageLen p.segs
  let k1 := { k with
    len := len
    todo := (List.range (shardsOf len)).flatMap (fun i => List.replicate p.copies i) }
  ((m.setTmJob jn { t with cur := some k1 }).holdJob 1 false jn).tmOn jn false

/-- CAPTURE_DONE (R377 to R379): the image is written to its half, the job is released, and placement begins. -/
def Mach.captureDone (m : Mach) (jn : Nat) : Mach :=
  let t := m.tmJob jn
  match t.cur, t.plan, m.job? jn with
  | some k, some p, some j =>
    if k.len ≠ 0 then m
    else
      let segs := p.pick (fun s => !s.seals)
      let r := m.tmReads j jn (segs.map (fun s => (s.2.va, s.2.len)))
      match r.2 with
      | .error none => r.1
      | .error (some st) => r.1.tmFail jn st
      | .ok ds =>
        let w := r.1.tmWrite j jn (p.half k.half) (r.1.tmImage p j.seed k segs ds)
        match w.2 with
        | .error none => w.1
        | .error (some st) => w.1.tmFail jn st
        | .ok _ =>
          w.1.captured jn t k p
  | _, _, _ => m

/-- CAPTURE_DONE (R377). -/
def execCaptureDone (job : Fin 64) (s : State) : Host.Outcome State Fault Refusal := s.act (fun m => m.captureDone job.val)

/-- OFFER_ANSWER (R379): the partner that answered an offer is recorded, or the walk goes on. One whose feed group is a holder's
takes no copy. DEDUCED: log entry 47. -/
def Mach.offerAnswer (m : Mach) (jn : Nat) (accept : Bool) (id feed : Nat) : Mach :=
  let t := m.tmJob jn
  let old := (match t.cur with
    | some k => k.offer.isNone
    | none => true)
  match (if old then t.last else t.cur) with
  | none => m
  | some k =>
    match k.offer, k.todo with
    | some r, i :: rest =>
      let clash := k.holds.any (fun h => h.shard == i && h.id != ownShingle && h.feed == feed)
      let k1 := if accept && !clash then { k with
          holds := k.holds ++ [⟨i, id, feed⟩]
          todo := rest
          next := 0
          offer := none } else { k with offer := none }
      let m1 := if accept && clash then m.sendIdent id [16, m.ident, (m.rtagOf jn).toNat, k.gstep] [] else m
      let t1 := { t with feeds := sset 0 r feed t.feeds }
      (m1.setTmJob jn (if old then { t1 with last := some k1 } else { t1 with cur := some k1 })).tmOn jn old
    | _, _ => m

/-- OFFER_ANSWER (R379). -/
def execOfferAnswer (job : Fin 64) (accept : Bool) (id : BitVec 48) (feed : BitVec 16) (s : State) :
    Host.Outcome State Fault Refusal :=
  s.act (fun m => m.offerAnswer job.val accept id.toNat feed.toNat)

/-- SEAL_ACK (R381): a holder of the Tidemark in progress acknowledges the seal. -/
def execSealAck (job : Fin 64) (holder : BitVec 48) (s : State) : Host.Outcome State Fault Refusal :=
  s.act (fun m =>
    let t := m.tmJob job.val
    match t.cur with
    | none => m
    | some k =>
      if k.sealData.isNone ∨ !k.partners.contains holder.toNat ∨ k.acks.contains holder.toNat then m
      else (m.setTmJob job.val { t with cur := some { k with acks := holder.toNat :: k.acks } }).trySeal job.val)

/-! Holders lost (R316, R382) -/

/-- Whether a job has an offer out. -/
def TmJob.offers (t : TmJob) : Bool :=
  (match t.cur with
   | some k => k.offer.isSome
   | none => false) ||
  (match t.last with
   | some k => k.offer.isSome
   | none => false)

/-- A holder is lost: what it held is offered again. -/
def Mach.holderLost (m : Mach) (id : Nat) : Mach :=
  (m.tm.jobs.map Prod.fst).foldl (fun a jn =>
    let t := a.tmJob jn
    if t.offers then a
    else if (match t.cur with
      | some k => k.len != 0 && !k.todo.isEmpty
      | none => false) then a.tmOn jn false
    else if (match t.last with
      | some k => !k.todo.isEmpty
      | none => false) then a.tmOn jn true
    else a) (m.tmHolderLost id)

/-- PORT_DOWN_NOTICE (R316, R371, R382). -/
def execPortDownNotice (source lost : BitVec 48) (s : State) : Host.Outcome State Fault Refusal :=
  s.act (fun m => (m.portNotice source.toNat lost.toNat).holderLost lost.toNat)

/-- CONNECTION_FAILURE (R319, R360, R382): a peer whose connection fails may be a holder. -/
def execConnectionFailure (ctx : BitVec 14) (s : State) : Host.Outcome State Fault Refusal :=
  s.act (fun m =>
    match m.ctx ctx.toNat with
    | none => m
    | some v => if v.failed ∨ v.sends.isEmpty then m else (m.connectionFails ctx.toNat).holderLost (m.rankIdent v.peer))

/-! Shards held for other modules (R379, R380) -/

/-- The area's first byte. -/
def Mach.areaBase (m : Mach) : Nat := m.fget Reg.HB_TM_AREA_BASE * 0x200000

/-- Whether a shard is accepted (R379), and where it goes. -/
def Mach.areaPlace (m : Mach) (o : ShardOffer) : Option Nat :=
  let feed := m.fget Reg.LH_GROUP_FEED
  let sled := m.fget Reg.LH_GROUP_SLED
  if feed = 0 ∨ sled = 0 ∨ feed = o.feed.toNat ∨ sled = o.sled.toNat ∨ !o.sameReach then none
  else findRoom (fun c => tmUnits c.len) (m.fget Reg.HB_TM_AREA_LEN_UNITS) (tmUnits o.data.length) m.tm.area

/-- Tidemarks of a source and tag kept in the area once the named one is new or sealed: the newest sealed one and at most one
newer, unsealed. -/
def areaKeep (cs : List TmCopy) (source : Nat) (rtag : Word) : List TmCopy :=
  let mine := cs.filter (fun c => c.source == source && c.rtag == rtag)
  let newest := (mine.filter (fun c => c.sealData.isSome)).foldl (fun a c => max a c.gstep) 0
  let fresh := (mine.filter (fun c => c.sealData.isNone)).foldl (fun a c => max a c.gstep) 0
  cs.filter (fun c => !(c.source == source && c.rtag == rtag) || (c.sealData.isSome && c.gstep == newest) ||
    (c.sealData.isNone && c.gstep == fresh && (mine.all (fun x => x.sealData.isNone) || decide (newest < fresh))))

/-- SHARD_OFFER (R379, R380): accepted and stored under the area's key, or refused; or the seal of shards held, acknowledged
(kind 18). The answer (kind 17) carries this module's identity and FEED. DEDUCED: log entry 47. -/
def Mach.takeShard (m : Mach) (o : ShardOffer) : Mach :=
  let src := o.source.toNat
  let g := o.gstep.toNat
  let mine := fun (c : TmCopy) => c.source == src && c.rtag == o.rtag && c.gstep == g
  if o.sealing then
    if m.tm.area.any mine then
      (m.setArea (areaKeep (m.tm.area.map (fun c => if mine c then { c with sealData := some o.data } else c)) src o.rtag)).sendIdent src
        [18, src, m.ident, g] []
    else m
  else
    let say := fun (a : Mach) (ok : Nat) => a.sendIdent src [17, src, ok, a.ident, a.fget Reg.LH_GROUP_FEED, g, o.shard] []
    let m0 := m.setArea (m.tm.area.filter (fun c => !(mine c && c.shard == o.shard)))
    match m0.areaPlace o with
    | none => say m 0
    | some off =>
      let m1 := m0.ncWrite none none (m0.keyId (m0.fget Reg.HB_TM_AREA_KEY)) (m0.areaBase + off * 0x200000) o.data
      say (m1.setArea (areaKeep (m1.tm.area ++ [⟨src, o.rtag, g, o.shard, off, o.data.length, none⟩]) src o.rtag)) 1

/-- SHARD_OFFER (R379, R380). -/
def execShardOffer (o : ShardOffer) (s : State) : Host.Outcome State Fault Refusal := s.act (fun m => m.takeShard o)

/-! Restore (R383, R384) -/

def rstFields (i : Nat) : List (Nat × Nat) :=
  if i = 0 then [(0, 2)] else if i = 1 ∨ i = 4 then [(0, 48)] else if i = 2 ∨ i = 3 then [(0, 64)] else if i = 5 then [(0, 57)]
  else if i = 7 then [(60, 4)] else []

/-- The restore descriptor of a job, checked (R9, R10, R384). -/
def Mach.rstRead (m : Mach) (j : Job) (jn : Nat) : Mach × Except (Option Nat) (List Word) :=
  let r := m.tmRead j jn (m.fget Reg.HB_TM_RST_ARG_DESC) 64
  match r.2 with
  | .error e => (r.1, .error e)
  | .ok b =>
    let w := leWords 8 b
    if bits (wd w 7) 60 4 ≠ 1 then (r.1, .error (some 0x0202))
    else if (List.range 8).any (fun i => reservedSet (wd w i) (rstFields i)) then (r.1, .error (some 0x0201))
    else if bits (wd w 0) 0 2 = 3 then (r.1, .error (some 0x0203))
    else (r.1, .ok w)

/-- Whether a sealed Tidemark named by a descriptor is present in this module: its local area, or its Shingle partition. -/
def Mach.rstPresent (m : Mach) (src source gstep : Nat) (rtag : Word) (shards : Nat) : Bool :=
  if src = 0 then source == m.ident && m.tm.locals.any (fun l => l.rtag == rtag && l.gstep == gstep)
  else !m.lh.locked && decide (0 < shards) && (List.range shards).all (fun i => m.tm.part.any (fun c =>
    c.source == source && c.rtag == rtag && c.gstep == gstep && c.shard == i && c.sealData.isSome))

/-- Fields of an image header (R378). -/
def tmHeadFields (n i : Nat) : List (Nat × Nat) :=
  if i = 0 then [(0, 48)] else if i = 1 ∨ i = 2 then [(0, 64)] else if i = 3 then [(0, 2), (16, 32)] else if i = 4 then [(0, 8)]
  else if i = 5 then [(0, 40)] else if i = 7 then [(60, 4)] else if i < 32 ∨ 32 + 4 * n ≤ i then []
  else if i % 4 = 0 then [(0, 4)] else if i % 4 = 1 then [(0, 40)] else if i % 4 = 2 then [(0, 64)] else []

/-- R9 and R10 over an image header: its version, then its reserved bits. -/
def tmHeadBad (h : List Byte) : Option Nat :=
  let ws := cutWords h 0 512
  if bits (wd ws 7) 60 4 ≠ 1 then some 0x0202
  else if (List.range 512).any (fun i => reservedSet (wd ws i) (tmHeadFields (bits (wd ws 4) 0 8) i)) then some 0x0201
  else none

/-- Whether a header's segments are a plan's, and the replay's step follows it (R384). -/
def headerFits (p : TmPlan) (h : List Byte) (gstep replay : Nat) : Bool :=
  let w := wd (cutWords h 0 512)
  bits (w 4) 0 8 == p.segs.length && (List.range p.segs.length).all (fun k =>
    let s := p.segs.getD k ⟨0, 0, 0⟩
    bits (w (32 + 4 * k)) 0 4 == s.kind && bits (w (33 + 4 * k)) 0 40 == s.len) && p.base + replay == gstep + 1

/-- The completed header and seal-time segments of a Tidemark that this module holds. -/
def Mach.rstHeader (m : Mach) (src : Nat) (source gstep : Nat) (rtag : Word) : Option (List Byte) :=
  if src = 0 then (m.tm.locals.find? (fun l => l.rtag == rtag && l.gstep == gstep)).map (fun l => l.sealData)
  else (m.tm.part.find? (fun c => c.source == source && c.rtag == rtag && c.gstep == gstep)).bind (fun c => c.sealData)

def Mach.rstStatus (m : Mach) (st : Nat) : Mach := m.fset Reg.HB_TM_RST_STATUS_STATUS st

/-- A restore that may begin: it fetches, from partners by their retrieval requests (kind 19). -/
def Mach.rstBegin (m : Mach) (r : TmRestore) (holders : List Nat) : Mach :=
  let m1 := (m.setTm { m.tm with restore := some r }).fset Reg.HB_TM_RST_STATUS_BUSY 1
  holders.foldl (fun a i => a.sendIdent i [19, a.ident, r.source, r.rtag.toNat, r.gstep] []) m1

/-- R9 and R10 over a placement record of `n` entries (R379): its versions, then its reserved bits. -/
def recordBad (hw es : List Word) (n : Nat) : Option Nat :=
  let head := fun (i : Nat) => if i = 0 then [(0, 48)] else if i = 1 then [(0, 64)] else if i = 2 then [(0, 40)]
    else if i = 3 then [(0, 16)] else if i = 7 then [(60, 4)] else []
  if bits (wd hw 7) 60 4 ≠ 1 ∨ (List.range n).any (fun i => bits (wd es (4 * i + 3)) 60 4 != 1) then some 0x0202
  else if (List.range 8).any (fun i => reservedSet (wd hw i) (head i)) ||
      (List.range (4 * n)).any (fun i => reservedSet (wd es i) (if i % 4 = 3 then [(60, 4)] else [(0, 48)])) then some 0x0201
  else none

/-- Shards of a placement record, and its holders; none where the record is not one of the Tidemark named. -/
def recordOf (hw es : List Word) (source gstep : Nat) : Option (List Nat) :=
  if bits (wd hw 0) 0 48 ≠ source ∨ (wd hw 1).toNat ≠ gstep then none
  else some ((es.map (fun (w : Word) => bits w 0 48)).filter (fun i => i != 0 && i != ownShingle)).eraseDups

/-- RESTORE (R384), up to what this module can check before it fetches. -/
def Mach.restoreCmd (m : Mach) (i : Instr) (jn : Nat) : Mach :=
  if m.flag Reg.HB_TM_RST_STATUS_BUSY then m
  else
    match m.job? jn with
    | none => m.rstStatus 0x0101
    | some j =>
      let d := m.rstRead j jn
      match d.2 with
      | .error none => d.1.anew i
      | .error (some st) => d.1.rstStatus st
      | .ok w =>
        let src := bits (wd w 0) 0 2
        let source := bits (wd w 1) 0 48
        let gstep := (wd w 2).toNat
        let replay := bits (wd w 4) 0 48
        match (d.1.tmJob jn).plan with
        | none => d.1.rstStatus 0x0101
        | some p =>
          let n := shardsOf (imageLen p.segs)
          if (d.1.tmJob jn).code ≠ 1 ∨ j.fetched then d.1.rstStatus 0x0101
          else if src = 1 then
            let rr := d.1.tmRead j jn (bits (wd w 5) 0 57) 64
            match rr.2 with
            | .error none => rr.1.anew i
            | .error (some st) => rr.1.rstStatus st
            | .ok hb =>
              let hw := leWords 8 hb
              let ns := bits (wd hw 3) 0 16
              let re := rr.1.tmRead j jn (bits (wd w 5) 0 57 + 64) (32 * ns)
              match re.2 with
              | .error none => re.1.anew i
              | .error (some st) => re.1.rstStatus st
              | .ok eb =>
                let es := leWords (4 * ns) eb
                match recordBad hw es ns with
                | some st => re.1.rstStatus st
                | none =>
                  match recordOf hw ((List.range (4 * ns)).filterMap (fun i => if i % 4 = 3 then none else es[i]?)) source gstep with
                  | none => re.1.rstStatus 0x0101
                  | some hs => re.1.rstBegin ⟨jn, 1, source, gstep, wd w 3, replay, ns⟩ hs
          else if !d.1.rstPresent src source gstep (wd w 3) n then d.1.rstStatus 0x0101
          else
            match d.1.rstHeader src source gstep (wd w 3) with
            | none => d.1.rstStatus 0x0101
            | some h =>
              match tmHeadBad h with
              | some st => d.1.rstStatus st
              | none =>
                if headerFits p h gstep replay then d.1.rstBegin ⟨jn, src, source, gstep, wd w 3, replay, n⟩ [] else d.1.rstStatus 0x0204

/-- RESTORE (R384, R387). -/
def execRestore (a : Agent) (job : Fin 64) (s : State) : Host.Outcome State Fault Refusal :=
  s.act (fun m => m.owned a Reg.HB_TM_RST_CMD (fun x => x.restoreCmd (.restore a job) job.val))

/-- RELEASE (R380, R383): the named Tidemark leaves the area; a GSTEP of 0 names every one of its source and tag. -/
def Mach.releaseCmd (m : Mach) (i : Instr) (jn : Nat) : Mach :=
  if m.flag Reg.HB_TM_RST_STATUS_BUSY then m
  else
    match m.job? jn with
    | none => m.rstStatus 0x0101
    | some j =>
      let d := m.rstRead j jn
      match d.2 with
      | .error none => d.1.anew i
      | .error (some st) => d.1.rstStatus st
      | .ok w =>
        let hit := fun (c : TmCopy) => c.source == bits (wd w 1) 0 48 && c.rtag == wd w 3 && (wd w 2 == 0 || c.gstep == (wd w 2).toNat)
        if d.1.tm.area.any hit then (d.1.setArea (d.1.tm.area.filter (fun c => !hit c))).rstStatus 0 else d.1.rstStatus 0x0101

/-- TIDEMARK_RELEASE (R380, R383). -/
def execTidemarkRelease (a : Agent) (job : Fin 64) (s : State) : Host.Outcome State Fault Refusal :=
  s.act (fun m => m.owned a Reg.HB_TM_RST_CMD (fun x => x.releaseCmd (.tidemarkRelease a job) job.val))

/-- The image of a restore and its completed header with the seal-time segments: read from the staging half or the Shingle
partition, or as the partners answered. A partner restore's last element is the header and the seal-time segments. -/
def Mach.rstImage (m : Mach) (j : Job) (p : TmPlan) (r : TmRestore) (shards : List (List Byte)) :
    Mach × Except (Option Nat) (List Byte × List Byte) :=
  if r.src = 1 then
    if shards.length ≠ r.shards + 1 ∨ shards.any (fun x => x.isEmpty) then (m, .error (some 0x0504))
    else (m, .ok ((shards.take r.shards).flatMap id, shards.getLastD []))
  else
    match m.rstHeader r.src r.source r.gstep r.rtag with
    | none => (m, .error (some 0x0101))
    | some h =>
      if r.src = 2 then
        let of := fun (i : Nat) => match m.tm.part.find? (fun c => c.source == r.source && c.rtag == r.rtag && c.gstep == r.gstep && c.shard == i) with
          | some c => (List.range c.len).map (fun o => sget (0 : Byte) (c.off + o) m.sg.part)
          | none => []
        (m, .ok ((List.range r.shards).flatMap of, h))
      else
        let half := match m.tm.locals.find? (fun l => l.rtag == r.rtag && l.gstep == r.gstep) with
          | some l => l.half
          | none => 0
        let d := m.tmRead j r.job (p.half half) (imageLen p.segs)
        match d.2 with
        | .error e => (d.1, .error e)
        | .ok b => (d.1, .ok (b, h))

/-- The bytes of every segment of a plan, in its order: take-time ones from the image, seal-time ones after the header. -/
def segBytes (img sealed : List Byte) : List TmSeg → Nat → Nat → List (List Byte)
  | [], _, _ => []
  | s :: rest, a, b =>
    if s.seals then cut sealed b s.len :: segBytes img sealed rest a (b + s.len)
    else cut img a s.len :: segBytes img sealed rest (a + s.padded) b

/-- A journal segment as a restore writes it: every record's STEP is the replay's (R384). -/
def replayStepped (step : Nat) (bs : List Byte) : List Byte :=
  let ws := leWords (bs.length / 8) bs
  wordBytes ((List.range ws.length).map (fun i => if i % 4 = 1 then BitVec.ofNat 64 ((wd ws i).toNat / 2 ^ 48 * 2 ^ 48 + step) else wd ws i))

/-- What a restore writes: every segment at its address, a journal with the replay's step (R384). -/
def restoreOuts (p : TmPlan) (replay : Nat) (ds : List (List Byte)) : List (Nat × List Byte) :=
  (p.segs.zip ds).map (fun x => (x.1.va, if x.1.kind = 9 then replayStepped replay x.2 else x.2))

/-- The loss segment's bytes. -/
def lossOf (p : TmPlan) (ds : List (List Byte)) : List Byte :=
  match (p.segs.zip ds).find? (fun x => x.1.kind == 8) with
  | some x => x.2
  | none => []

/-- A restore's segments are written: the job verifies its replay (R385). -/
def Mach.restored (m : Mach) (r : TmRestore) (v : TmVerify) : Mach :=
  (m.setTmJob r.job { m.tmJob r.job with verify := some v }).restoreEnd r.job 0

/-- RESTORE_DONE (R384, R385): every CRC matches and every segment is written through the plan, and the context is VERIFYING. -/
def Mach.restoreDone (m : Mach) (shards : List (List Byte)) : Mach :=
  match m.tm.restore with
  | none => m
  | some r =>
    let t := m.tmJob r.job
    match t.plan, m.job? r.job with
    | some p, some j =>
      let d := m.rstImage j p r shards
      (match d.2 with
       | .error none => d.1
       | .error (some st) => d.1.restoreEnd r.job st
       | .ok (img, sealed) =>
         if (tmHeadBad sealed).isSome then d.1.restoreEnd r.job ((tmHeadBad sealed).getD 0)
         else if !headerFits p sealed r.gstep r.replay then d.1.restoreEnd r.job 0x0204
         else
           let ds := segBytes img (sealed.drop 4096) p.segs 4096 0
           let h := wd (cutWords sealed 0 512)
           if (List.range p.segs.length).any (fun k => crc64 (ds.getD k []) != h (34 + 4 * k)) then d.1.restoreEnd r.job 0x0304
           else
             let w := d.1.tmWrites j r.job (restoreOuts p r.replay ds)
             match w.2 with
             | .error none => w.1
             | .error (some st) => w.1.restoreEnd r.job st
             | .ok _ => w.1.restored r ⟨r.replay, lossOf p ds, bits (h 3) 1 1 == 1⟩)
    | _, _ => m.restoreEnd r.job 0x0101

/-- RESTORE_DONE (R384, R385). -/
def execRestoreDone (shards : List (List Byte)) (s : State) : Host.Outcome State Fault Refusal := s.act (fun m => m.restoreDone shards)

/-! The step boundary (R22, R47, R116, R134, R377, R381, R385) -/

/-- What a boundary finds to compare (R385): none where no replay ends there; otherwise whether loss and flag match. A wait
leaves the boundary to fall later. -/
def Mach.replayCheck? (m : Mach) (jn : Nat) (j : Job) : Mach × Except (Option Nat) (Option Bool) :=
  let t := m.tmJob jn
  match t.verify, t.plan with
  | some v, some p =>
    if j.step ≠ v.step then (m, .ok none)
    else
      let final := m.flag (Reg.HB_FIN_STATE_FINAL jn)
      let fin := m.flag (Reg.HB_FIN_STATE_FINITE jn)
      match p.segs.find? (fun s => s.kind == 8) with
      | none => (m, .ok none)
      | some s =>
        let r := m.tmRead j jn s.va s.len
        match r.2 with
        | .error e => (r.1, .error e)
        | .ok b => (r.1, .ok (some (b == v.loss && final && fin == v.fin)))
  | _, _ => (m, .ok none)

/-- The Tidemark whose seal-time segments are due at this boundary. -/
def Mach.sealDue (m : Mach) (jn : Nat) (j : Job) : Option (TmMark × TmPlan) :=
  let t := m.tmJob jn
  match t.cur, t.plan with
  | some k, some p => if k.step + 1 = j.step ∧ k.sealData.isNone ∧ k.len ≠ 0 then some (k, p) else none
  | _, _ => none

/-- The seal-time segments of a Tidemark due, read at the boundary. DEDUCED: log entry 46. -/
def Mach.sealRead (m : Mach) (jn : Nat) (j : Job) : Mach × Except (Option Nat) (List (List Byte)) :=
  match m.sealDue jn j with
  | none => (m, .ok [])
  | some (_, p) => m.tmReads j jn ((p.pick TmSeg.seals).map (fun s => (s.2.va, s.2.len)))

/-- Complete the header of a Tidemark (R381): the CRCs of its seal-time segments and the final flag of step s + 1; it is written
to the staging half and goes to every holder. -/
def Mach.sealCapture (m : Mach) (jn : Nat) (j : Job) (k : TmMark) (p : TmPlan) (ds : List (List Byte)) (fin : Bool) : Mach :=
  let segs := p.pick TmSeg.seals
  let old := m.tmRead j jn (p.half k.half) 4096
  match old.2 with
  | .error none => old.1.tmFail jn 0x0304
  | .error (some st) => old.1.tmFail jn st
  | .ok hb =>
    let ow := wd (leWords 512 hb)
    let crc := fun (n : Nat) => if segs.any (fun s => s.1 == n) then crcBy segs ds n else ow (34 + 4 * n)
    let h := old.1.tmHeader p j.seed k fin crc
    let w := old.1.tmWrite j jn (p.half k.half) h
    match w.2 with
    | .error none => w.1.tmFail jn 0x0304
    | .error (some st) => w.1.tmFail jn st
    | .ok _ =>
      let k1 := { k with sealData := some (h ++ ds.flatMap id) }
      let m1 := w.1.setTmJob jn { w.1.tmJob jn with cur := some k1 }
      if k1.todo.isEmpty then (m1.tmSendSeal jn k1).trySeal jn else m1

/-- Begin the capture of a pending target whose boundary has come (R377, R382): an unsealed Tidemark is abandoned, and its half
taken again. -/
def Mach.captureBegin (m : Mach) (jn : Nat) (p : TmPlan) (gstep step : Nat) (fin : Bool) : Mach :=
  let m1 := m.tmEnd jn 0
  let t := m1.tmJob jn
  let half := match m1.tm.locals.find? (fun l => l.rtag == m1.rtagOf jn) with
    | some l => 1 - l.half
    | none => 0
  let k : TmMark := ⟨gstep, step, half, 0, t.risky, fin, [], [], 0, none, none, []⟩
  let _ := p
  ((m1.setTmJob jn { t with
    pending := none
    asked := none
    risky := false
    riskAt := if t.risky then some m1.now else t.riskAt
    cur := some k }).fset (Reg.HB_TM_STATE_SHINGLE jn) 0).holdJob 1 true jn

/-- Tidemark work at a boundary just crossed, `step` the step that ended. -/
def Mach.tmBoundary (m : Mach) (jn step : Nat) (due : Option (TmMark × TmPlan)) (ds : List (List Byte)) : Mach :=
  let decided := m.flag (Reg.HB_FIN_PREV_DECIDED jn)
  let fin := m.flag (Reg.HB_FIN_PREV_FINITE jn)
  let m1 := match due, m.job? jn with
    | some (k, p), some j => if decided then m.sealCapture jn j k p ds fin else m.tmEnd jn 0
    | _, _ => m
  let t := m1.tmJob jn
  match t.plan, t.pending with
  | some p, some g => if g = p.base + step then m1.captureBegin jn p g step fin else m1
  | _, _ => m1

/-- Module actions at a boundary (R134, R367, R431, R432). -/
def Mach.boundaryActions (m : Mach) (jn : Nat) (j : Job) : Mach :=
  let m1 := m.notDue jn
  let m2 := match m1.pw.phase with
    | .waiting _ => m1.holdJob 0 true jn
    | .changing _ => m1.holdJob 0 true jn
    | _ => m1
  let m3 := match m2.fw.op with
    | some o => if o.reload && j.usesDie o.target then m2.holdJob (2 + o.target) true jn else m2
    | none => m2
  m3.tryActions

/-- STEP_BOUNDARY (R22, R116): the boundary of a job's step falls; the flag moves on, its STEPENDs complete, and the actions
that wait for it take effect. A replay that does not match holds the job there until it is destroyed. -/
def Mach.stepBoundary (m : Mach) (jn : Nat) : Mach :=
  match m.job? jn with
  | none => m
  | some j =>
    if j.dying || j.failed || !m.atBoundary jn j then m
    else
      let c := m.replayCheck? jn j
      match c.2 with
      | .error none => c.1
      | .error (some st) =>
        ((c.1.crossBoundary jn j 0x0806).holdJob 1 true jn).fset (Reg.HB_TM_STATE_STATUS jn) st
      | .ok res =>
        let r := c.1.sealRead jn j
        match r.2 with
        | .error none => r.1
        | .error (some st) => ((r.1.tmFail jn st).crossBoundary jn j 0).boundaryActions jn j
        | .ok ds =>
          if res = some false then
            ((r.1.crossBoundary jn j 0x0806).holdJob 1 true jn).fset (Reg.HB_TM_STATE_STATUS jn) 0x0806
          else
            let due := r.1.sealDue jn j
            let m1 := r.1.crossBoundary jn j 0
            let m2 := if res = some true then m1.setTmJob jn { m1.tmJob jn with verify := none } else m1
            (m2.tmBoundary jn j.step due ds).boundaryActions jn j

/-- STEP_BOUNDARY (R22, R47, R116, R134). -/
def execStepBoundary (job : Fin 64) (s : State) : Host.Outcome State Fault Refusal := s.act (fun m => m.stepBoundary job.val)

end Sys2Proof.Machine
end

