-- ==== Sys2Proof/Machine/Power.lean ====
section
/-!
DEFINITION. Power and heat (R423 to R442): loss of the input, the domains, the power modes and Slack, the cap controller, the
reference, the sensors with their throttle steps and trips, and the module shutdown.
-/

namespace Sys2Proof.Machine

/-! What survives (R440, R441) -/

/-- The module as it starts from flash and fuses: host memory, which is not the module's, and Shingle's committed units stand;
the model's own counters and trace go on. DEDUCED: log entry 51. -/
def Mach.coldStart (m : Mach) : Mach :=
  let m1 : Mach := { Mach.reset with
    free := m.free
    out := m.out
    nv := m.nv
    regs := sset (BitVec.ofNat 64 (Reg.resetOf Reg.SG_STATE)) Reg.SG_STATE (m.rget Reg.SG_STATE) []
    mem := { MemSt.reset with
      bytes := m.mem.bytes.filter (fun e => decide (hostBase ≤ e.1))
      keyNext := m.mem.keyNext }
    sg := { SgSt.reset with
      data := m.sg.data
      bad := m.sg.bad
      part := m.sg.part
      mediaKey := m.sg.mediaKey
      blocks := m.sg.blocks
      map := m.sg.map
      spareBad := m.sg.spareBad
      written := m.sg.written }
    tm := { Mach.reset.tm with part := m.tm.part } }
  m1.nv.fused.foldl (fun a e => a.rset e.1 e.2) m1

/-- Only Lighthouse is left on (R440, R452): every domain but 135 to 137 is off, and what they held is gone. -/
def Mach.lighthouseOnly (m : Mach) (why : Power) : Mach :=
  let c := m.coldStart
  let m1 : Mach := { c with
    down := true
    ns := m.ns
    log := m.log
    lh := { m.lh with
      power := why
      att := false
      upd := none
      copy := none
      spdm := [] }
    regs := m.regs.filter (fun e => decide (e.1 = Reg.SG_STATE) || decide (0xF0001A000000 ≤ e.1) && decide (e.1 < 0xF0001C000000)) }
  let m2 := m1.setDoms 0 ((List.range 164).filter (fun n => decide (n < 135) || decide (137 < n)))
  (List.range 4).foldl (fun a d => a.fset (Reg.PW_CLK_MHZ d) 0) (m2.fset Reg.PW_MODE_BUSY 0)

/-- A module shutdown (R440) with its cause as STATUS of R446 gives it: a sensor, 512 + a domain, or 1023 the reference. -/
def Mach.shutdown (m : Mach) (cause : Nat) : Mach :=
  if m.down then m
  else
    let m1 := (m.lighthouseOnly .shutdown).logE 0x16 0 (cause % 256) noJob cause
    { m1 with nv := { m1.nv with cause := cause } }

/-! The input (R423, R424, R440) -/

/-- A power loss is the removal of 52 V; it ends a shutdown once it has lasted a second. DEDUCED: log entry 51. -/
def Mach.powerLoss (m : Mach) (us : Nat) : Mach :=
  if m.lh.power = .shutdown ∧ us < 1000000 then m
  else
    let c := m.coldStart
    { c with
      down := true
      lh := { c.lh with power := .off } }

/-- UNDER_VOLTAGE (R423, R424): below 45 V for 2 ms. -/
def execUnderVoltage (mv us : Nat) (s : State) : Host.Outcome State Fault Refusal :=
  s.actAlways (fun m => if mv < 45000 ∧ 2000 ≤ us then m.powerLoss us else m.fset Reg.PW_INPUT_MV mv)

/-- OVER_VOLTAGE (R423, R424): above 57 V for 100 µs. -/
def execOverVoltage (mv us : Nat) (s : State) : Host.Outcome State Fault Refusal :=
  s.actAlways (fun m => if 57000 < mv ∧ 100 ≤ us then m.powerLoss us else m.fset Reg.PW_INPUT_MV mv)

/-- OVER_CURRENT (R423, R424): 90 A for 100 µs. -/
def execOverCurrent (ma us : Nat) (s : State) : Host.Outcome State Fault Refusal :=
  s.actAlways (fun m => if 90000 ≤ ma ∧ 100 ≤ us then m.powerLoss us else m.fset Reg.PW_INPUT_CURRENT (ma / 10))

/-! Domains (R426, R428) -/

/-- A die goes out of service (R428, R389): what it held is gone as at a fence, and it does not come back. -/
def Mach.dieOutOfService (m : Mach) (d : Nat) : Mach :=
  let st := m.fget (Reg.HB_DIE_STATE_STATE d)
  if st = dieOut then m
  else
    let m1 := if st = dieFenced then m else (m.fenceReef d).dieMoves d
    (m1.dieTo d dieOut (m1.fget (Reg.HB_DIE_STATE_CAUSE d)) 0x0F02).setClocks

/-- The Reef die or stack a domain serves, and what its failure makes unusable. -/
def Mach.domainOutcome (m : Mach) (n : Nat) : Mach :=
  if n < 96 then m.dieOutOfService (n / 24)
  else if n < 120 then
    let s := (n - 96) / 3
    (m.fset (Reg.SK_STATE_TRAINED s) 0).dieOutOfService (s / 2)
  else if n < 135 then m.shutdown (512 + n)
  else if n < 138 then m
  else if n < 148 then (m.fence 4 2).rset Reg.HL_HART_RUN 0
  else if n < 150 then m.bwLinkDown
  else if n < 158 then m.lanesOut 6 (portLanes (n - 150))
  else if n < 162 then m.lanesOut 4 ((List.range 16).map (fun i => 16 * (n - 158) + i))
  else if n = 162 then
    (List.range 24).foldl (fun a c => a.channelRetire c) m
  else { m with lh := { m.lh with locked := true } }

/-- DOMAIN_FAIL (R426, R428): logged, and what the domain serves is unusable. -/
def Mach.domainFailed (m : Mach) (n : Nat) : Mach :=
  ((m.setDoms 3 [n]).logE 0x16 0 n noJob 0).domainOutcome n

def execDomainFail (n : Fin 164) (s : State) : Host.Outcome State Fault Refusal := s.act (fun m => m.domainFailed n.val)

/-! Modes (R429, R431 to R433) -/

/-- A mode takes effect: it shows with the one before it, with its cap and voltages, and the cap controller starts afresh. -/
def Mach.enterMode (m : Mach) (mode : Nat) : Mach :=
  let m1 := (m.fset Reg.PW_MODE_PREV (m.fget Reg.PW_MODE_MODE)).fset Reg.PW_MODE_MODE mode
  let m2 := (((m1.fset Reg.PW_MODE_STATUS 0).fset Reg.PW_MODE_BUSY 0).fset Reg.PW_CAP_CAP_W (modeCap mode)).fset Reg.PW_CAP_STEP 0
  let m3 := m2.fset Reg.PW_CAP_HEADLAND 0
  let m4 := { m3 with pw := { m3.pw with
    phase := .idle
    due := []
    above := 0
    under := 0
    atMax := 0 } }
  let dies := (List.range 4).filter (fun d => m4.dieUp d)
  (dies.foldl (fun a d => a.coreVolts d) m4).setClocks

/-- An entry into Slack begins (R432): the jobs in the middle of a step have their boundaries to reach first. DEDUCED: log entry 49. -/
def Mach.slackBegin (m : Mach) : Mach :=
  { m with pw := { m.pw with
    phase := .entering
    due := m.liveJobs.filter (fun jn => match m.job? jn with
      | some j => j.begun
      | none => false) } }

/-- MODE_REQUEST (R431 to R433, R258): the write abandons a Slack entry in progress; while BUSY reads 1 nothing else comes of
it. DEDUCED: log entry 49. -/
def execModeRequest (a : Agent) (req : BitVec 2) (s : State) : Host.Outcome State Fault Refusal :=
  s.act (fun m => m.owned a Reg.PW_MODE (fun x =>
    let r := req.toNat
    if x.pw.phase = .entering then x.abandonMode
    else if x.flag Reg.PW_MODE_BUSY then x
    else if r = x.fget Reg.PW_MODE_MODE then x.fset Reg.PW_MODE_STATUS 0
    else if x.fget Reg.PW_MODE_MODE = 3 then x.slackWake r
    else
      let x1 := x.fset Reg.PW_MODE_BUSY 1
      if r = 3 then x1.slackBegin
      else ((x1.setMode (.waiting r)).holdIdle 0 (fun _ => true)).tryActions))

/-- MODE_CHANGE_DONE (R431): the held jobs are released. -/
def execModeChangeDone (s : State) : Host.Outcome State Fault Refusal :=
  s.act (fun m => match m.pw.phase with
    | .changing req => (m.enterMode req).releaseAll 0
    | _ => m)

/-- MODE_QLIMIT_EXPIRY (R431). -/
def execModeQlimitExpiry (s : State) : Host.Outcome State Fault Refusal :=
  s.act (fun m =>
    if m.fget Reg.PW_CFG_MODE_QLIMIT = 0 then m
    else match m.pw.phase with
      | .waiting _ => m.abandonMode
      | .entering => m.abandonMode
      | _ => m)

/-- IDLE_SLACK_EXPIRY (R432). -/
def execIdleSlackExpiry (s : State) : Host.Outcome State Fault Refusal :=
  s.act (fun m =>
    if m.fget Reg.PW_CFG_IDLE_SLACK = 0 ∨ m.pw.phase ≠ .idle ∨ m.fget Reg.PW_MODE_MODE = 3 ∨ !m.liveJobs.isEmpty then m
    else { m.fset Reg.PW_MODE_BUSY 1 with pw := { m.pw with
      phase := .entering
      due := [] } })

/-- Whether all three conditions of R432 hold. -/
def Mach.slackReady (m : Mach) : Bool :=
  !m.pw.due.any (fun jn => m.live jn) && m.js.cmds.all (fun (k : Cmd) => k.phase == .pending || k.phase == .ended) && m.ik.run.isEmpty &&
    m.cl.runs.isEmpty && m.js.pf.isEmpty

/-- SLACK_ENTRY (R432): the arrays' domains go off; dispatch, Intake, the collective engine and the prefetcher stand while MODE
shows Slack. -/
def execSlackEntry (s : State) : Host.Outcome State Fault Refusal :=
  s.act (fun m =>
    if m.pw.phase = .entering ∧ m.slackReady then
      (List.range 4).foldl (fun a d => if a.dieUp d then a.setDoms 0 (arrayDoms d) else a) (m.enterMode 3)
    else m)

/-- SLACK_EXIT_DONE (R433). -/
def execSlackExitDone (s : State) : Host.Outcome State Fault Refusal :=
  s.act (fun m => match m.pw.phase with
    | .leaving req =>
      (List.range 4).foldl (fun a d => if a.dieUp d then a.setDoms 2 (arrayDoms d) else a) (m.enterMode req)
    | _ => m)

/-! The cap (R434) -/

/-- Time spent below the full factor is counted in whole milliseconds. -/
def Mach.capCount (m : Mach) (us : Nat) : Mach :=
  let c := m.pw.capped + us
  { m.fadd Reg.PW_CAP_CAPPED_MS (c / 1000) with pw := { m.pw with capped := c % 1000 } }

/-- Above the cap for a time: the factor falls a step each 100 µs, and after 10 ms at 50 % Headland slows. -/
def Mach.capOver (m : Mach) (us : Nat) : Mach :=
  let st := m.fget Reg.PW_CAP_STEP
  let t := m.pw.above + us
  let need := (10 - st) * 100
  let m1 : Mach := if t < need then
      { m.fset Reg.PW_CAP_STEP (st + t / 100) with pw := { m.pw with
        above := t % 100
        under := 0
        atMax := 0 } }
    else
      { m.fset Reg.PW_CAP_STEP 10 with pw := { m.pw with
        above := 0
        under := 0
        atMax := m.pw.atMax + (t - need) } }
  let m2 := if 10000 ≤ m1.pw.atMax then m1.fset Reg.PW_CAP_HEADLAND 1 else m1
  m2.capCount (if 0 < st then us else min us (t - 100))

/-- Below 97 % of the cap for a time: the factor rises a step each 10 ms. -/
def Mach.capUnder (m : Mach) (us : Nat) : Mach :=
  let st := m.fget Reg.PW_CAP_STEP
  let t := m.pw.under + us
  let n := min st (t / 10000)
  let m1 : Mach := { m.fset Reg.PW_CAP_STEP (st - n) with pw := { m.pw with
    above := 0
    under := t % 10000
    atMax := 0 } }
  let m2 := if 0 < n then m1.fset Reg.PW_CAP_HEADLAND 0 else m1
  m2.capCount (min us (st * 10000 - m.pw.under))

/-- Between the two the factor stands. -/
def Mach.capBetween (m : Mach) (us : Nat) : Mach :=
  ({ m with pw := { m.pw with
    above := 0
    under := 0
    atMax := 0 } } : Mach).capCount (if 0 < m.fget Reg.PW_CAP_STEP then us else 0)

/-- CAP_CONTROL (R434): input power averaged at `watts` for a time. -/
def execCapControl (watts us : Nat) (s : State) : Host.Outcome State Fault Refusal :=
  s.act (fun m0 =>
    let m := m0.fset Reg.PW_INPUT_WATTS watts
    let cap := m.fget Reg.PW_CAP_CAP_W
    (if cap < watts then m.capOver us
     else if watts * 100 < cap * 97 then m.capUnder us
     else m.capBetween us).setClocks)

/-- REFERENCE_FAIL (R436): a module shutdown. -/
def execReferenceFail (s : State) : Host.Outcome State Fault Refusal := s.act (fun m => m.shutdown 1023)

/-! Heat (R176, R412, R437, R438) -/

/-- Trip temperature of a sensor's class. -/
def tripOf (n : Nat) : Int :=
  if n < 336 then 110 else if n < 340 then 105 else if n < 372 then 100 else if n < 380 then 95 else if n < 384 then 75
  else if n < 408 then 105 else if n < 410 then 90 else 125

/-- A throttle step with its hysteresis of 3 °C: thresholds passed now, or still held of the step before. `t` is in sixteenths. -/
def stepNow (ths : List Int) (old : Nat) (t : Int) : Nat :=
  let up := (ths.filter (fun x => decide (x * 16 ≤ t))).length
  let stay := (ths.filter (fun x => decide ((x - 3) * 16 ≤ t))).length
  max up (min old stay)

/-- Hottest of `k` sensors from one on. -/
def Mach.hottest (m : Mach) (n k : Nat) : Int := ((List.range k).map (fun i => m.temp16 (n + i))).foldl max (m.temp16 n)

/-- Whole degrees, as a register of 8 bits shows them. -/
def degrees (t : Int) : Nat := min 255 (t / 16).toNat

/-- The user offset of a calibration item (R397), in its own unit; 0 where the image gives none. -/
def Mach.userOffset (m : Mach) (item n : Nat) : Int :=
  match m.lh.ucal.find? (fun u => u.1 == item && u.2.1 == n) with
  | some u => u.2.2
  | none => 0

/-- Take a domain's voltage, in mV, and current, in 10 mA, with the user's offset and gain (R397, R412, R422). -/
def Mach.takeRail (m : Mach) (n : Nat) (mv : BitVec 16) (current : BitVec 20) : Mach :=
  let v : Int := mv.toNat + m.userOffset 3 n
  let i : Int := (current.toNat : Int) * (10000 + m.userOffset 2 n) / 10000
  (m.fset (Reg.LH_VI_MV n) (min 65535 v.toNat)).fset (Reg.LH_VI_CURRENT n) (min (2 ^ 20 - 1) i.toNat)

/-- Take one reading: the register, its greatest value, and a warning as it comes within 10 °C of its trip (R416). DEDUCED: log entry 50. -/
def Mach.takeTemp (m : Mach) (n : Nat) (raw : BitVec 16) : Mach :=
  let old := m.temp16 n
  let v := raw.toInt + m.userOffset 1 n
  let enc := (BitVec.ofInt 16 v).toNat
  let top : Int := (BitVec.ofNat 16 (m.fget (Reg.LH_TEMP_MAX n))).toInt
  let m1 := m.fset (Reg.LH_TEMP_TEMP n) enc
  let m2 := if top < v then m1.fset (Reg.LH_TEMP_MAX n) enc else m1
  let near := (tripOf n - 10) * 16
  if old < near ∧ near ≤ v then (m2.logE 0x18 0 (n % 256) noJob n).alert Reg.LH_ALERT_SENSOR else m2

/-- The steps that the temperatures impose: each stack, each Reef die, Headland, Shelf refresh and Shingle writes. -/
def Mach.takeSteps (m : Mach) : Mach :=
  let stack := fun (a : Mach) (s : Nat) =>
    let t := a.hottest (340 + 4 * s) 4
    ((a.fset (Reg.SK_STATE_TSTEP s) (stepNow [90, 93, 95] (a.fget (Reg.SK_STATE_TSTEP s)) t)).fset (Reg.SK_STATE_REFRESH2X s)
      (stepNow [85] (a.fget (Reg.SK_STATE_REFRESH2X s)) t)).fset (Reg.SK_STATE_TEMP s) (degrees t)
  let shelf := fun (a : Mach) (c : Nat) =>
    let t := a.temp16 (384 + c)
    (a.fset (Reg.SF_STATE_REFRESH2X c) (stepNow [85] (a.fget (Reg.SF_STATE_REFRESH2X c)) t)).fset (Reg.SF_STATE_TEMP c) (degrees t)
  let die := fun (a : Mach) (d : Nat) =>
    let t := a.hottest (64 * d) 64
    let own := stepNow [100, 103, 106] (sget 0 d a.lh.dieStep) t
    let near := max (a.fget (Reg.SK_STATE_TSTEP (2 * d))) (a.fget (Reg.SK_STATE_TSTEP (2 * d + 1)))
    let b := { a with lh := { a.lh with dieStep := sset 0 d own a.lh.dieStep } }
    (b.fset (Reg.PW_CLK_TSTEP d) (max own near)).fset (Reg.PW_CLK_TEMP d) (degrees t)
  let m1 := (List.range 24).foldl shelf ((List.range 8).foldl stack m)
  let m2 := (List.range 4).foldl die m1
  let hl := m2.hottest 304 32
  let sg := m2.hottest 408 2
  ({ m2 with lh := { m2.lh with
    hlStep := stepNow [100, 105] m2.lh.hlStep hl
    sgWait := stepNow [80] (if m2.lh.sgWait then 1 else 0) sg != 0 } }).setClocks

/-- Record a trip of a die, of Headland or of the partner's site (R437, R442). -/
def Mach.tripRecord (m : Mach) (n unit : Nat) : Mach :=
  ((m.fset Reg.PW_TRIP_SENSOR n).fset Reg.PW_TRIP_VALID 1).logE 0x16 0 unit noJob n

/-- A trip resets a Reef die, or Headland at 4: its domains go off and stay off until it has cooled. -/
def Mach.tripDie (m : Mach) (n d : Nat) : Mach :=
  if m.lh.hot.contains d then m
  else
    let m1 := (m.tripRecord n d).fence d 2
    let m2 := { m1 with lh := { m1.lh with hot := d :: m1.lh.hot } }
    m2.setDoms 0 (if d = 4 then (List.range 10).map (fun i => 138 + i) else dieDoms d)

/-- The outcome of a trip (R437). -/
def Mach.trip (m : Mach) (n : Nat) : Mach :=
  if m.down then m
  else if n < 256 then m.tripDie n (n / 64)
  else if n < 304 then m.shutdown n
  else if n < 336 then m.tripDie n 4
  else if n < 340 then
    if m.fget (Reg.PW_DOM_STATE 148) = 0 ∧ m.fget (Reg.PW_DOM_STATE 149) = 0 then m
    else ((m.tripRecord n 15).setDoms 0 [148, 149]).bwLinkDown
  else if n < 372 then m.tripDie n ((n - 340) / 8)
  else if n < 380 then m.shutdown n
  else if n < 384 then (m.logE 0x16 0 (n - 380) noJob n).bayFault (n - 380)
  else m.shutdown n

/-- Dies that have cooled may have their domains on again. -/
def Mach.coolDies (m : Mach) : Mach :=
  { m with lh := { m.lh with hot := m.lh.hot.filter (fun d =>
      if d = 4 then decide (102 * 16 ≤ m.hottest 304 32) else decide (103 * 16 ≤ m.hottest (64 * d) 64)) } }

/-- SENSOR_SAMPLE (R412, R437, R438): the readings listed; a sensor or a domain not listed keeps its last. -/
def execSensorSample (r : Readings) (s : State) : Host.Outcome State Fault Refusal :=
  s.act (fun m0 =>
    let m := r.rails.foldl (fun a e => a.takeRail e.1.val e.2.1 e.2.2) m0
    let m1 := (r.temps.foldl (fun a e => a.takeTemp e.1.val e.2) m).takeSteps
    let tripped := (r.temps.map (fun e => e.1.val)).filter (fun n =>
      decide (tripOf n * 16 ≤ m1.temp16 n) && (decide (n < 380 ∨ 383 < n) || decide (m.temp16 n < tripOf n * 16)))
    (tripped.foldl (fun a n => a.trip n) m1.coolDies))

end Sys2Proof.Machine
end

