-- ==== Sys2Proof/Machine/Boot.lean ====
section
/-!
DEFINITION. POWER_ON (R389 to R397, R405, R411, R418 to R420, R427): the slots, the configuration image, the region, the domains,
training, the Headland image and the landward ports; and ROM recovery over the sideband (R446).
-/

namespace Sys2Proof.Machine

/-! Slots (R417, R419) -/

def SlotPair.image (p : SlotPair) : List Byte := if p.active = 0 then p.a else p.b
def SlotPair.spare (p : SlotPair) : List Byte := if p.active = 0 then p.b else p.a

/-- Put an image in the slot that is not ACTIVE, with its state. -/
def SlotPair.putSpare (p : SlotPair) (bs : List Byte) (st : Nat) : SlotPair :=
  if p.active = 0 then { p with b := bs, other := st } else { p with a := bs, other := st }

/-- The other slot becomes ACTIVE, and the former one INACTIVE. -/
def SlotPair.swap (p : SlotPair) : SlotPair := { p with active := 1 - p.active, other := 1 }

/-- The slot to boot (R391, R419): its image, the pair after, and the log's event and status where something failed. `bad` gives
the status an image fails with. -/
def SlotPair.select (bad : List Byte → Option Nat) (p : SlotPair) : Option (List Byte) × SlotPair × List (Nat × Nat) :=
  let act := bad p.image
  let oth := bad p.spare
  let own := fun (q : SlotPair) (l : List (Nat × Nat)) => match act with
    | none => (some p.image, q, l)
    | some st => (none, q, l ++ [(0x13, st)])
  if p.other = 2 then
    match oth with
    | none => (some p.spare, { p with other := 3 }, [])
    | some st => own { p with other := 4 } [(0x14, st)]
  else if p.other = 3 then own { p with other := 4 } [(0x14, 0)]
  else
    match act, oth with
    | some st, none => if p.other = 1 then (some p.spare, p, [(0x13, st)]) else (none, p, [(0x13, st)])
    | _, _ => own p []

/-- The slot pair of a target of R417: 0 Lighthouse firmware, 1 configuration, 2 Headland boot. -/
def Mach.pair (m : Mach) (t : Nat) : SlotPair := if t = 0 then m.nv.fwSlots else if t = 1 then m.nv.cfgSlots else m.nv.hlSlots

/-- Write a slot pair, with what LH_SLOT shows of it. -/
def Mach.setPair (m : Mach) (t : Nat) (p : SlotPair) : Mach :=
  let nv := if t = 0 then { m.nv with fwSlots := p } else if t = 1 then { m.nv with cfgSlots := p } else { m.nv with hlSlots := p }
  let ver := if t = 1 then 0 else (imageOf p.image).ver
  (((({ m with nv := nv }).fset (Reg.LH_SLOT_ACTIVE t) p.active).fset (Reg.LH_SLOT_OTHER t) p.other).fset (Reg.LH_SLOT_FWVER t) ver)

/-- Log what a selection met. -/
def Mach.logSlots (m : Mach) (t : Nat) (l : List (Nat × Nat)) : Mach :=
  l.foldl (fun a e => (a.logE e.1 e.2 t noJob 0).logRefusal e.2 t) m

/-! What an image must pass (R394 to R397, R418) -/

/-- Bytes a target's slot takes (R392, R396). -/
def slotLimit (t : Nat) : Nat := if t = 0 then 2 * 2 ^ 20 else if t = 1 then 2 ^ 20 else 8 * 2 ^ 20

/-- The checks of R418 on Lighthouse firmware. While the ROM boots it, only the kinds of R364 that name silicon can be met. -/
def Mach.lhImageBad (m : Mach) (boot : Bool) (bs : List Byte) : Option Nat :=
  let im := imageOf bs
  if slotLimit 0 < bs.length then some 0x0204
  else
    match headerBad bs 3 with
    | some st => some st
    | none =>
      if !m.imageSigned 1 im.sigOff bs then some 0x0601
      else if im.svn < m.minSvn 0 then some 0x0602
      else
        match manifestGood [4, 6] bs with
        | none => some 0x0603
        | some es =>
          let es' := if boot then es.filter (fun e => e.1 == 4 || e.1 == 5) else es
          if m.tested es' 3 none then none else some 0x0604

/-- The checks of R418 on a Headland boot image. -/
def Mach.hlImageBad (m : Mach) (bs : List Byte) : Option Nat :=
  let im := imageOf bs
  if slotLimit 2 < bs.length then some 0x0204
  else
    match headerBad bs 4 with
    | some st => some st
    | none =>
      if !m.imageSigned 2 im.sigOff bs then some 0x0601
      else if im.svn < m.minSvn 2 then some 0x0602
      else none

/-! The configuration image (R394 to R397) -/

/-- Its records, each the word that opens it and its payload; none where one runs past the end. The number bounds them. -/
def cfgRecords : Nat → List Word → Option (List (Word × List Word))
  | 0, _ => some []
  | _ + 1, [] => some []
  | n + 1, h :: t =>
    let k := bits h 8 16
    if t.length < k then none
    else
      match cfgRecords n (t.drop k) with
      | some rs => some ((h, t.take k) :: rs)
      | none => none

def cfgOf (bs : List Byte) : Option (List (Word × List Word)) :=
  let sig := bits (wd (cutWords bs 0 32) 2) 32 32
  if sig < 256 ∨ sig % 8 ≠ 0 ∨ bs.length < sig then none else cfgRecords (sig / 8) (cutWords bs 256 ((sig - 256) / 8))

/-- Fields of payload word `i` of a record type. -/
def cfgFields (typ i : Nat) : List (Nat × Nat) :=
  if typ = 1 then (if i = 0 then [(0, 52)] else [(0, 64)])
  else if typ = 2 then [(0, 2)]
  else if typ = 3 then [(0, 20), (32, 16)]
  else if i = 0 then [(0, 48)]
  else [(0, 64)]

/-- Payload words a record type has; any number for UCAL. -/
def cfgShape (typ n : Nat) : Bool := if typ = 1 then n == 3 else if typ = 2 then n == 1 else if typ = 4 then n == 1025 else true

/-- Fields of header word `i` of a configuration image. -/
def cfgHeader (i : Nat) : List (Nat × Nat) :=
  if i = 0 then [(0, 24)] else if i = 1 then [(32, 32)] else if i = 2 then [(0, 64)] else if i = 3 then [(0, 48)]
  else if i = 31 then [(60, 4)] else []

/-- Bits of a register that only Lighthouse sets, from the image (R8, R395). -/
def rwlMask (a : Nat) : Nat :=
  if a % 8 ≠ 0 then 0
  else
    match Reg.rowAt a with
    | some r => (r.fields.filter (fun f => f.acc == .rwl)).foldl (fun v f => v + (2 ^ f.w - 1) * 2 ^ f.lo) 0
    | none => 0

/-- A UCAL item: item, index, offset (R397). -/
def ucalOf (w : Word) : Nat × Nat × Int := (bits w 0 8, bits w 8 12, (BitVec.ofNat 16 (bits w 32 16)).toInt)

/-- The bounds of R397, in each item's own unit. -/
def ucalGood (u : Nat × Nat × Int) : Bool :=
  let within := fun (n : Nat) (b : Int) => decide (u.2.1 < n) && decide (-b ≤ u.2.2) && decide (u.2.2 ≤ b)
  if u.1 = 1 then within 412 32 else if u.1 = 2 then within 164 200 else if u.1 = 3 then within 164 10
  else if u.1 = 4 then within 4 50 else false

/-- Whether a DEBUG record names this module and its block verifies over the word (R395, R396). -/
def Mach.debugGood (m : Mach) (ws : List Word) : Bool :=
  let w := wd ws 0
  bits w 0 48 == m.fget Reg.SW_ID_IDENTITY && m.verifies 1 (wordBytes (ws.drop 1)) (leBytes 8 w.toNat)

/-- Order 1 of R396, and order 2 of R418: the form of header and records. -/
def cfgForm (bs : List Byte) : Option Nat :=
  let w := wd (cutWords bs 0 32)
  let rs := (cfgOf bs).getD []
  let typ := fun (r : Word × List Word) => bits r.1 0 8
  if bits (w 31) 60 4 ≠ 1 ∨ rs.any (fun r => bits r.1 60 4 != 1) then some 0x0202
  else if (List.range 32).any (fun i => reservedSet (w i) (cfgHeader i)) || rs.any (fun r => reservedSet r.1 [(0, 24), (60, 4)] ||
      (decide (1 ≤ typ r) && decide (typ r ≤ 4) && (List.range r.2.length).any (fun i => reservedSet (wd r.2 i) (cfgFields (typ r) i)))) then
    some 0x0201
  else if bits (w 0) 0 8 ≠ 0x10 ∨ rs.any (fun r => typ r == 0 || decide (4 < typ r) || (typ r == 2 && bits (wd r.2 0) 0 2 == 3)) then
    some 0x0203
  else none

/-- The signature and security version of a configuration image. -/
def Mach.cfgSigned (m : Mach) (bs : List Byte) : Option Nat :=
  let w := wd (cutWords bs 0 32)
  if !m.imageSigned 2 (bits (w 2) 32 32) bs then some 0x0601 else if bits (w 1) 32 32 < m.minSvn 1 then some 0x0602 else none

/-- Orders 5 to 7 of R396. -/
def Mach.cfgFits (m : Mach) (bs : List Byte) : Option Nat :=
  let w := wd (cutWords bs 0 32)
  let typ := fun (r : Word × List Word) => bits r.1 0 8
  if bits (w 0) 8 8 ≠ 1 ∨ bits (w 0) 16 8 ≠ 1 then some 0x0603
  else if bits (w 3) 0 48 ≠ 0 ∧ bits (w 3) 0 48 ≠ m.fget Reg.SW_ID_IDENTITY then some 0x0605
  else if ((cfgOf bs).getD []).any (fun r =>
      if typ r = 1 then !decide ((wd r.2 2).toNat &&& rwlMask (bits (wd r.2 0) 0 52) = (wd r.2 2).toNat)
      else if typ r = 3 then r.2.any (fun x => !ucalGood (ucalOf x))
      else if typ r = 4 then !m.debugGood r.2
      else false) then some 0x0204
  else none

/-- The checks of R396 in their order. -/
def Mach.cfgBad (m : Mach) (bs : List Byte) : Option Nat :=
  let w := wd (cutWords bs 0 32)
  match cfgForm bs with
  | some st => some st
  | none =>
    if 2 ^ 20 < bits (w 2) 0 32 ∨ bits (w 2) 0 32 < bits (w 2) 32 32 ∨ cfgOf bs = none ∨
        ((cfgOf bs).getD []).any (fun r => !cfgShape (bits r.1 0 8) r.2.length) then some 0x0204
    else
      match m.cfgSigned bs with
      | some st => some st
      | none => m.cfgFits bs

/-- The checks of R418 on a configuration image to be staged. -/
def Mach.cfgStageBad (m : Mach) (bs : List Byte) : Option Nat :=
  if slotLimit 1 < bs.length then some 0x0204
  else
    match cfgForm bs with
    | some st => some st
    | none => m.cfgSigned bs

/-- Apply one record (R228, R232, R395, R399): a later one replaces an earlier. -/
def Mach.cfgApply (m : Mach) (r : Word × List Word) : Mach :=
  let typ := bits r.1 0 8
  if typ = 1 then
    let a := bits (wd r.2 0) 0 52
    if Reg.BW_ID ≤ a ∧ a < Reg.HL_ID ∧ !m.flag Reg.BW_ID_FITTED then m
    else
      let m1 := m.rset a ((m.rget a &&& ~~~ wd r.2 2) ||| (wd r.2 1 &&& wd r.2 2))
      if a = Reg.HB_TM_AREA_LEN then m1.setArea []
      else
        match (List.range 4).find? (fun n => a == Reg.BW_WIN_BASE n || a == Reg.BW_WIN_LIM n) with
        | some n => m1.windowSettle n
        | none => m1
  else if typ = 2 then
    (m.fset Reg.PW_MODE_MODE (bits (wd r.2 0) 0 2)).fset Reg.PW_MODE_PREV (bits (wd r.2 0) 0 2)
  else if typ = 3 then
    r.2.foldl (fun a x =>
      let u := ucalOf x
      { a with lh := { a.lh with ucal := u :: a.lh.ucal.filter (fun v => !(v.1 == u.1 && v.2.1 == u.2.1)) } }) m
  else ({ m with lh := { m.lh with locked := true } }.fset Reg.LH_LIFE_STATE 2).logE 0x15 0 0 noJob 0

/-! The steps of R389 -/

/-- Step 2: the Lighthouse firmware; none passes and the module stands in ROM recovery (R391). -/
def Mach.bootFirmware (m : Mach) : Mach :=
  let r := SlotPair.select (m.lhImageBad true) m.nv.fwSlots
  let m1 := (m.setPair 0 r.2.1).logSlots 0 r.2.2
  match r.1 with
  | some bs =>
    let im := imageOf bs
    let m2 := m1.measure 0 3 im.svn im.ver (sha384 bs)
    { m2 with lh := { m2.lh with runSvn := sset 0 0 im.svn m2.lh.runSvn } }
  | none =>
    let m2 := m1.setDoms 2 [135, 136, 137]
    { m2 with
      down := true
      lh := { m2.lh with power := .rom } }

/-- Step 3: the configuration image, applied whole, or the defaults (R390, R391, R396). -/
def Mach.bootConfig (m : Mach) : Mach :=
  let r := SlotPair.select m.cfgBad m.nv.cfgSlots
  let m1 := (m.setPair 1 r.2.1).logSlots 1 r.2.2
  match r.1 with
  | some bs =>
    let w := wd (cutWords bs 0 32)
    let m2 := ((cfgOf bs).getD []).foldl (fun a x => a.cfgApply x) (m1.measure 1 0x10 (bits (w 1) 32 32) 0 (sha384 bs))
    { m2 with lh := { m2.lh with
      format := bits (w 0) 16 8
      runSvn := sset 0 1 (bits (w 1) 32 32) m2.lh.runSvn } }
  | none => ((m1.fset Reg.LH_LIFE_CONFIG_DEFAULT 1).logE 0x13 0 1 noJob 0).alert Reg.LH_ALERT_CONFIG

/-- What LH_MINSVN shows (R391, R420). -/
def Mach.showSvn (m : Mach) : Mach := (List.range 5).foldl (fun a k => a.fset (Reg.LH_MINSVN_MIN_SVN k) (a.minSvn k)) m

/-- Show NEXT, and whether its tree is prepared (R405, R406). -/
def Mach.showNext (m : Mach) : Mach :=
  (m.fset Reg.LH_LMS_NEXT m.lh.q).fset Reg.LH_LMS_READY (if m.lh.q / 2 ^ 20 < m.nv.trees then 1 else 0)

/-- Step 4: the replay-protected region, the indices of this power-on, and the media key (R391, R393, R400, R405). -/
def Mach.bootRegion (m : Mach) (ok : Bool) : Mach :=
  if ok then
    let m1 : Mach := { m with
      lh := { m.lh with
        q := m.nv.reserved
        locked := m.lh.locked || !m.nv.media }
      nv := { m.nv with
        reserved := m.nv.reserved + 65536
        counter := m.nv.counter + 1 } }
    m1.showNext.showSvn
  else
    (({ m with lh := { m.lh with
      regionBad := true
      locked := true } }).showSvn).logE 0x15 0x0601 0 noJob 0

/-- Step 5: the domains, into the mode the image sets (R427 to R429); the partner's rails on the variant that has the site. -/
def Mach.bootDomains (m : Mach) (bad : List Nat) : Mach :=
  let all := (List.range 164).filter (fun n => m.flag Reg.BW_ID_FITTED || !(n == 148 || n == 149))
  let m1 := (m.setDoms 2 all).fset Reg.PW_CAP_CAP_W (modeCap (m.fget Reg.PW_MODE_MODE))
  let m2 := all.foldl (fun a n => a.fset (Reg.PW_DOM_SET_MV n) (Config.measured 4 n)) m1
  let m3 := (List.range 4).foldl (fun a d => a.coreVolts d) m2
  (bad.filter (fun n => all.contains n)).foldl (fun a n => if a.down then a else a.domainFailed n) m3

/-- Step 6 for memory: a stack or Shelf channel that does not train is not served; a Shelf channel's groups are retired. -/
def Mach.bootMemory (m : Mach) (b : BootInfo) : Mach :=
  let m1 := (List.range 8).foldl (fun a s =>
    if b.badStacks.any (fun x => x.val == s) || (List.range 3).any (fun i => a.fget (Reg.PW_DOM_STATE (96 + 3 * s + i)) == 3) then a
    else a.fset (Reg.SK_STATE_TRAINED s) 1) m
  (List.range 24).foldl (fun a c =>
    if b.badShelf.any (fun x => x.val == c) then
      a.channelRetire c
    else a.fset (Reg.SF_STATE_TRAINED c) 1) m1

/-- A port's capability exchange at training (R221): the far end reports what this module's ends do, unless the boot says otherwise. -/
def Mach.bootPort (m : Mach) (b : BootInfo) (p : Nat) : Mach :=
  match b.far.find? (fun x => x.1.val == p) with
  | some (_, lo, hi, groups, width) => m.limtosCapability p lo.toNat hi.toNat groups.toNat width.toNat
  | none => m.limtosCapability p 1 1 (ltGroups p) (((m.ltChoice p).map Prod.fst).getD 0)

/-- Step 6 for a Reef die: it awaits its firmware, or is out of service (R220, R221, R365, R389). -/
def Mach.bootDie (m : Mach) (b : BootInfo) (d : Nat) : Mach :=
  if m.fget (Reg.HB_DIE_STATE_STATE d) = dieOut then m
  else if !m.flag (Reg.SK_STATE_TRAINED (2 * d)) ∨ !m.flag (Reg.SK_STATE_TRAINED (2 * d + 1)) then m.dieOutOfService d
  else
    let m1 := m.bootPort b d
    if m1.fget (Reg.HB_DIE_STATE_STATE d) = dieOut then m1 else m1.dieTo d dieLoading 0 0

/-- Step 6 for a seaward lane (R306 to R308, R313, R428). -/
def Mach.bootLane (m : Mach) (bad : List Nat) (l : Nat) : Mach :=
  let out := fun (cause : Nat) => ((m.fset (Reg.SW_LANE_STATE l) 3).fset (Reg.SW_LANE_CAUSE l) cause).logE 0x0A 0 l noJob 0
  if (m.rget Reg.SW_LANEMAP).getLsbD l then m.fset (Reg.SW_LANE_STATE l) 4
  else if m.fget (Reg.PW_DOM_STATE (150 + l / 8)) = 3 then out 6
  else if m.fget (Reg.PW_DOM_STATE (158 + l / 16)) = 3 ∨ m.fget ⟨Reg.LH_FRONT_STATE, 8 + l / 16, 1⟩ = 0 then out 4
  else if m.fget ⟨Reg.LH_FRONT_STATE, l / 8, 1⟩ = 0 then out 3
  else if bad.contains l then out 6
  else m.fset (Reg.SW_LANE_STATE l) 2

/-- Step 6. -/
def Mach.bootTrain (m : Mach) (b : BootInfo) : Mach :=
  let m1 := b.sparedWires.foldl (fun a x => a.trainSpare x.1.val x.2.1.val x.2.2.1 x.2.2.2.val) m
  let m2 := (b.lostGroups.foldl (fun a x => a.trainGroup x.1.val x.2.1.val x.2.2) m1).bootMemory b
  let m3 := (List.range 4).foldl (fun a d => a.bootDie b d) m2
  let m4 := if m3.fget (Reg.HB_DIE_STATE_STATE 4) ≠ dieInService then m3
    else m3.bootPort b 4
  let m5 := (m4.fset Reg.LH_FRONT_STATE_CONN b.connectors.toNat).fset Reg.LH_FRONT_STATE_BAY_LATCHED b.bays.toNat
  let m6 := (List.range 64).foldl (fun a l => a.bootLane (b.badLanes.map (fun x => x.val)) l) m5
  ((List.range 8).foldl (fun a p => a.fset (Reg.SW_PORT_LANES p) (a.lanesActive p)) m6).setClocks

/-- Step 7: the Headland boot image, and hart 0 (R261, R391). -/
def Mach.bootHeadland (m : Mach) : Mach :=
  let r := SlotPair.select m.hlImageBad m.nv.hlSlots
  let m1 := (m.setPair 2 r.2.1).logSlots 2 r.2.2
  match r.1 with
  | some bs =>
    if m1.fget (Reg.HB_DIE_STATE_STATE 4) ≠ dieInService then m1
    else
      let im := imageOf bs
      let start := im.load / 4096 * 4096
      let m2 := (m1.memWrite 0 im.load bs).1.measure 2 4 im.svn im.ver (sha384 bs)
      let m3 := { m2 with lh := { m2.lh with runSvn := sset 0 2 im.svn m2.lh.runSvn } }
      ((m3.fset Reg.HL_BOOT_ADDR_ADDR start).hartsAt [0]).fset Reg.HL_HART_RUN_RUN 1
  | none => m1

/-- Show a laser source's headroom from its bias, with the user's offset, and its end-of-life bias (R397, R415). -/
def Mach.showHeadroom (m : Mach) (b : Nat) : Mach :=
  let r := m.lh.bays.getD b (0, 0)
  let bias : Int := (r.1 : Int) * (1000 + m.userOffset 4 b) / 1000
  m.fset (Reg.LH_LASER_HEADROOM b) (min 1023 (((r.2 : Int) - bias) * 1000 / (r.2 : Int)).toNat)

/-- Step 8: the spare of Shingle is measured (R179); the landward ports, the slots in trial, and the front edge (R267, R282, R419, R445, R451). -/
def Mach.bootEnd (m : Mach) (b : BootInfo) : Mach :=
  let confirm := fun (a : Mach) (t : Nat) => if (a.pair t).other = 3 then (a.setPair t (a.pair t).swap).logE 0x14 0 t noJob 0 else a
  let m1 := confirm (confirm m 0) 1
  let m2 := (((List.range 4).foldl (fun a i => a.showHeadroom i) m1).fset Reg.LH_FRONT_STATE_LEVER 1).fset Reg.LH_FRONT_STATE_FEED_ID b.feedId.toNat
  let m2a := ({ m2 with sg := { m2.sg with spareBad := max m2.sg.spareBad b.spareBad } }).showSpare
  let m3 := (List.range 2).foldl (fun a p => a.linkTo p linkTraining) m2a
  { m3 with
    ns := b.bootNs
    lw := { m3.lw with
      released := true
      refclk := (List.range 2).foldl (fun a p => sset false p (b.refclk.getLsbD p) a) [] }
    lh := { m3.lh with booted := true } }

/-- Run the steps that follow while the module serves. -/
def Mach.andThen (m : Mach) (f : Mach → Mach) : Mach := if m.down then m else f m

/-- The whole of R389, from step 1. DEDUCED: log entry 52. -/
def Mach.boot (m : Mach) (b : BootInfo) : Mach :=
  let c := m.coldStart
  let m0 : Mach := { c with lh := { c.lh with
    power := .on
    bays := c.nv.lasers } }
  let m1 := m0.fset Reg.LH_LIFE_STATE c.nv.life
  let m2 := (List.range 3).foldl (fun a t => a.setPair t (a.pair t)) (m1.fset Reg.LH_LOG_HEAD_SEQ m1.nv.logSeq)
  if m2.nv.life = 3 then
    let m3 := m2.setDoms 2 [135, 136, 137]
    { m3 with
      down := true
      lh := { m3.lh with power := .retired } }
  else
    m2.bootFirmware.andThen (fun a =>
      ((a.bootConfig.bootRegion b.regionOk).bootDomains (b.badDomains.map (fun x => x.val))).andThen (fun d =>
        ((d.bootTrain b).bootHeadland).bootEnd b))

/-- POWER_ON (R389): a module without 52 V, or one that it has just reached, boots. -/
def execPowerOn (b : BootInfo) (s : State) : Host.Outcome State Fault Refusal :=
  s.actAlways (fun m => if m.lh.power = .off ∨ (m.lh.power = .on ∧ !m.lh.booted) then m.boot b else m)

/-! ROM recovery (R391, R446) -/

/-- The sideband is served while Lighthouse's domains are on (R446). -/
def Mach.sideband (m : Mach) (f : Mach → Mach) : Mach := if m.lh.power = .off then m else f m

/-- A command the sideband does not take now is refused with a NACK (R446). -/
def Mach.nack (m : Mach) : Mach := m.emit (.sideband 0xFF [] [])

/-- RECOVERY_DATA: up to 255 bytes at the next offset of the staging SRAM. -/
def execRecoveryData (data : List Byte) (s : State) : Host.Outcome State Fault Refusal :=
  s.actAlways (fun x => x.sideband (fun m =>
    if m.lh.power = .rom ∧ data.length ≤ 255 ∧ m.lh.staged.length + data.length ≤ 64 * 2 ^ 20 then
      { m with lh := { m.lh with staged := m.lh.staged ++ data } }
    else m.nack))

/-- RECOVERY_COMMIT: an image that passes goes to slot A, and the boot starts again: the module stands as when 52 V came. DEDUCED: log entry 52. -/
def execRecoveryCommit (s : State) : Host.Outcome State Fault Refusal :=
  s.actAlways (fun x => x.sideband (fun m =>
    if m.lh.power ≠ .rom then m.nack
    else
      match m.lhImageBad true m.lh.staged with
      | some st => ({ m with lh := { m.lh with staged := [] } }).emit (.sideband 0x11 [st] [])
      | none =>
        let old := m.nv.fwSlots
        let m1 := m.setPair 0 { old with
          a := m.lh.staged
          active := 0
          other := if old.active = 1 then 1 else old.other }
        let c := m1.coldStart
        ({ c with lh := { c.lh with power := .on } }).emit (.sideband 0x11 [0] [])))

end Sys2Proof.Machine
end

