-- ==== Sys2Proof/Machine/Tide.lean ====
section
/-!
DEFINITION. The Tide count: time messages, election and hand-over, foreign masters, slots and lane schedules (R321 to R335).
-/

namespace Sys2Proof.Machine

/-! Following a master (R321 to R323, R331) -/

/-- This module's election key, where its ROLE lets it be master (R325). -/
def Mach.ownKey (m : Mach) : Option Nat :=
  match m.fget Reg.TD_CFG_ROLE with
  | 1 => some (2 ^ 48 + m.ident)
  | 2 => some m.ident
  | _ => none

/-- The master's key as TD_MASTER holds it: TD_MASTER.ROLE has the code of TD_CFG.ROLE. -/
def Mach.masterKey (m : Mach) : Nat :=
  (if m.fget Reg.TD_MASTER_ROLE = 2 then 0 else 2 ^ 48) + m.fget Reg.TD_MASTER_IDENTITY

/-- Leave the current slot: none is honoured, and what waits for one leaves as open traffic (R335). -/
def Mach.noSlot (m : Mach) : Mach := (m.setTd { m.td with
  slot := none
  tags := [] }).txServe

/-- Set the count when the module joins a master whose time it heard (R323): at once from UNSET, by a step when the master is
more than 1 µs ahead, by standing still when it is more than 1 µs behind, and by slewing otherwise. -/
def Mach.joinTime (m : Mach) (time : Nat) : Mach :=
  let here := (m.rget Reg.TD_NOW).toNat
  if m.tideUnset ∨ here + 1000 < time then
    (m.setTd { m.td with
      slew := 0
      frac := 0 }).rset Reg.TD_NOW (BitVec.ofNat 64 time)
  else if time + 1000 < here then
    ((m.setTd { m.td with
      slew := 0
      still := here - time }).fset Reg.TD_STATE_STILL 1).noSlot
  else m.setTd { m.td with slew := ((time : Int) - (here : Int)) * 1000000 }

/-- Follow the master of an announcement heard on a port (R328, R331); a change of master is logged. DEDUCED: log entry 41. -/
def Mach.follow (m : Mach) (p : Nat) (h : TdHeard) (seq : Nat) : Mach :=
  let m1 := (((m.fset Reg.TD_MASTER_IDENTITY h.ident).fset Reg.TD_MASTER_ROLE h.role).fset Reg.TD_STATE_GENERATION h.gen).fset
    Reg.TD_STATE_STATE 1
  let m2 := ((m1.fset Reg.TD_SLOT_SLOT h.slot).fset Reg.TD_SLOT_GUARD h.guard).setUpstream p h.hops
  (m2.setTd { m2.td with seq := seq }).logE 0x0C 0 p noJob h.ident

/-- Become master (R326, R328): the count goes on, and the slot length and guard are its own. -/
def Mach.beMaster (m : Mach) (gen : Nat) : Mach :=
  let m1 := (((m.fset Reg.TD_MASTER_IDENTITY m.ident).fset Reg.TD_MASTER_ROLE (m.fget Reg.TD_CFG_ROLE)).fset
    Reg.TD_STATE_GENERATION gen).fset Reg.TD_STATE_STATE 2
  let m2 := ((m1.fset Reg.TD_STATE_DEPTH 0).fset Reg.TD_STATE_BOUND 0).fset Reg.TD_STATE_UPSTREAM 0
  let m3 := (m2.fset Reg.TD_SLOT_SLOT (m2.fget Reg.TD_CFG_SLOT)).fset Reg.TD_SLOT_GUARD (m2.fget Reg.TD_CFG_GUARD)
  (m3.setTd { m3.td with
    slew := 0
    seq := 0 }).logE 0x0C 0 0 noJob m.ident

/-- A port's exchange (R321, R322, R331): the hops of the master it reaches are noted, it is answered with this module's depth,
and the upstream port is chosen. -/
def Mach.timeHeard (m : Mach) (p hops : Nat) : Mach :=
  let m1 := match m.hearsMaster p with
    | some h => m.setTd { m.td with heard := sset none p (some { h with hops := hops }) m.td.heard }
    | none => m
  (m1.fabSend p [8, m1.fget Reg.TD_STATE_DEPTH] []).chooseUpstream

/-- TIME_MESSAGE (R321): a port's exchange gives its offset; on the upstream port the module steers it to zero. -/
def execTimeMessage (p : Fin 8) (offsetPs : Int) (hops : BitVec 6) (s : State) : Host.Outcome State Fault Refusal :=
  s.act (fun m =>
    if !m.portUp p.val then m
    else
      let m2 := m.timeHeard p.val hops.toNat
      if m2.fget Reg.TD_STATE_STATE = 1 ∧ m2.fget Reg.TD_STATE_UPSTREAM = p.val ∧ !m2.flag Reg.TD_STATE_STILL then
        m2.setTd { m2.td with slew := offsetPs * 1000 }
      else m2)

/-- SNAP (R324): the Tide count and the local counter of one nanosecond. -/
def execSnap (a : Agent) (s : State) : Host.Outcome State Fault Refusal :=
  s.act (fun m0 => m0.byAgent a Reg.TD_SNAP (fun m => (m.rset Reg.TD_SNAP_TIDE (m.rget Reg.TD_NOW)).rset Reg.TD_SNAP_LOCAL (BitVec.ofNat 64 m.ns)))

/-! Election (R325 to R329) -/

/-- Keys of the candidate list: those heard in the last 5 ms, and the module's own (R325). -/
def Mach.candidates (m : Mach) : List Nat :=
  (m.td.keys.filter (fun e => decide (m.ns ≤ e.2 + 5000000))).map Prod.fst ++ m.ownKey.toList

/-- Whether the module is the lowest-keyed candidate but one. -/
def Mach.lowest (m : Mach) (but : Option Nat) : Bool :=
  match m.ownKey with
  | none => false
  | some k => (m.candidates.filter (fun c => but != some c)).all (fun c => decide (k ≤ c)) && but != some k

/-- KEY_FLOOD (R325): a candidate floods its key every 1 ms; a key heard is kept, and flooded on. -/
def execKeyFlood (heard : Option ElectKey) (s : State) : Host.Outcome State Fault Refusal :=
  s.act (fun m =>
    match heard with
    | some k => (m.hearKey (ElectKey.num k)).flood none [9, ElectKey.num k] []
    | none =>
      match m.ownKey with
      | some k => m.flood none [9, k] []
      | none => m)

/-- ELECT_WAIT_EXPIRY (R326): no master was heard and the module's key is the lowest, so it is master with generation 1, its
count at PTP time where PTP_START is set and PTP locked, otherwise at its local counter. -/
def execElectWaitExpiry (s : State) : Host.Outcome State Fault Refusal :=
  s.act (fun m =>
    if !m.tideUnset ∨ !m.lowest none then m
    else
      let start : Nat := match m.td.site with
        | some d => if m.flag Reg.TD_CFG_PTP_START ∧ m.flag Reg.TD_SITE_STATE_LOCKED then ((m.ns : Int) + d).toNat else m.ns
        | none => m.ns
      (m.rset Reg.TD_NOW (BitVec.ofNat 64 start)).beMaster 1)

/-- The words of an announcement: kind, key, generation, sequence number, slot, guard, hops of its sender. -/
def Mach.announceWords (m : Mach) (seq : Nat) : List Nat :=
  [10, m.masterKey, m.fget Reg.TD_STATE_GENERATION, seq, m.fget Reg.TD_SLOT_SLOT, m.fget Reg.TD_SLOT_GUARD,
    m.fget Reg.TD_STATE_DEPTH]

/-- ANNOUNCEMENT (R326): the master floods one every 10 µs. -/
def execAnnouncement (s : State) : Host.Outcome State Fault Refusal :=
  s.act (fun m =>
    if m.fget Reg.TD_STATE_STATE ≠ 2 then m
    else
      let q := m.td.seq + 1
      (m.setTd { m.td with seq := q }).flood none (m.announceWords q) [])

/-- A port's peer follows another master (R330). -/
def Mach.foreign (m : Mach) (p : Nat) : Mach :=
  if m.flag (Reg.SW_PORT_FOREIGN p) then m else (m.fset (Reg.SW_PORT_FOREIGN p) 1).logE 0x0B 0 p noJob 0

/-- What was heard on a port, and its sequence number, taken as the master to follow: the module relays it (R326). -/
def Mach.takeMaster (m : Mach) (p : Nat) (h : TdHeard) (seq : Nat) : Mach :=
  let m1 := ((m.joinTime h.time).follow p h seq).fset (Reg.SW_PORT_FOREIGN p) 0
  m1.flood (some p) (m1.announceWords seq) []

/-- An announcement arrives on a port (R326 to R331). DEDUCED: log entry 41. -/
def Mach.announced (m : Mach) (p : Nat) (an : Announce) : Mach :=
  if !m.portUp p then m
  else
    let h : TdHeard := ⟨if an.key.role = 0 then 2 else 1, an.key.id.toNat, an.gen.toNat, an.hops.toNat, an.slot.toNat,
      an.guard.toNat, an.time.toNat⟩
    let m1 := m.setTd { m.td with heard := sset none p (some h) m.td.heard }
    let k := ElectKey.num an.key
    let st := m.fget Reg.TD_STATE_STATE
    let g := m.fget Reg.TD_STATE_GENERATION
    if st = 0 ∨ st = 4 then m1.takeMaster p h an.seq
    else if k = m.masterKey ∧ h.gen = g then
      let m2 := m1.fset (Reg.SW_PORT_FOREIGN p) 0
      if st = 1 ∧ m.td.seq < an.seq then
        let m3 := ((m2.setTd { m2.td with seq := an.seq }).fset Reg.TD_SLOT_SLOT h.slot).fset Reg.TD_SLOT_GUARD h.guard
        (m3.flood (some p) (m3.announceWords an.seq) []).chooseUpstream
      else if st = 1 then m2.chooseUpstream
      else m2
    else if st ≠ 2 ∧ (g < h.gen ∨ (h.gen = g ∧ k < m.masterKey)) then
      let slewed := m1.setTd { m1.td with
        slew := ((h.time : Int) - ((m1.rget Reg.TD_NOW).toNat : Int)) * 1000000 }
      let m2 := (slewed.follow p h an.seq).fset (Reg.SW_PORT_FOREIGN p) 0
      m2.flood (some p) (m2.announceWords an.seq) []
    else m1.foreign p

/-- ANNOUNCEMENT_RECEIVE (R326, R328, R330, R331). -/
def execAnnouncementReceive (p : Fin 8) (an : Announce) (s : State) : Host.Outcome State Fault Refusal :=
  s.act (fun m => m.announced p.val an)

/-- LOSS_TIMEOUT (R328): the lowest-keyed candidate other than the lost master takes over; any other module holds over. -/
def execLossTimeout (s : State) : Host.Outcome State Fault Refusal :=
  s.act (fun m =>
    if m.fget Reg.TD_STATE_STATE ≠ 1 then m
    else if m.lowest (some m.masterKey) then m.beMaster (m.fget Reg.TD_STATE_GENERATION + 1)
    else ((m.fset Reg.TD_STATE_STATE 3).setTd { m.td with slew := 0 }).logE 0x0C 0 0 noJob 0)

/-- HOLDOVER_LIMIT_EXPIRY (R329, R331). -/
def execHoldoverLimitExpiry (s : State) : Host.Outcome State Fault Refusal :=
  s.act (fun m =>
    if m.fget Reg.TD_STATE_STATE ≠ 3 then m else ((m.fset Reg.TD_STATE_STATE 4).noSlot).logE 0x0C 0 0 noJob 0)

/-- REJOIN (R330, R331): a module with no open context follows the master of its lowest-numbered foreign port. -/
def execRejoin (a : Agent) (s : State) : Host.Outcome State Fault Refusal :=
  s.act (fun m0 => m0.byAgent a Reg.TD_CTRL (fun m =>
    if !m.sw.ctxs.isEmpty then m.fset Reg.TD_CTRL_STATUS_STATUS 0x0101
    else
      let m1 := m.fset Reg.TD_CTRL_STATUS_STATUS 0
      let st := m.fget Reg.TD_STATE_STATE
      if st ≠ 1 ∧ st ≠ 2 then m1
      else
        match (List.range 8).find? (fun p => m.portUp p && m.flag (Reg.SW_PORT_FOREIGN p) && (sget none p m.td.heard).isSome) with
        | none => m1
        | some p =>
          match sget none p m.td.heard with
          | some h => (m1.fset Reg.TD_STATE_STATE 1).takeMaster p h 0
          | none => m1))

/-! Slots and lane schedules (R332 to R335) -/

/-- Status of a schedule table's entries in order: version, then reserved bits. -/
def schedBad : List Word → Option Nat
  | [] => none
  | w :: rest =>
    if bits w 60 4 ≠ 1 then some 0x0202
    else if reservedSet w [(0, 32), (60, 4)] then some 0x0201
    else schedBad rest

/-- SCHEDULE_LOAD (R333): TD_SCHED_CFG written with EN = 1. -/
def execScheduleLoad (a : Agent) (nslots : BitVec 11) (s : State) : Host.Outcome State Fault Refusal :=
  s.act (fun m0 => m0.byAgent a Reg.TD_SCHED_CFG (fun m =>
    let n := nslots.toNat
    let m1 := (m.fset Reg.TD_SCHED_CFG_NSLOTS n).fset Reg.TD_SCHED_CFG_EN 1
    let base := m.fget Reg.TD_SCHED_BASE_BASE * 4096
    if n = 0 ∨ 1024 < n then m1.fset Reg.TD_SCHED_CFG_STATUS 0x0204
    else if !inStackOrShelf base (8 * n) then m1.fset Reg.TD_SCHED_CFG_STATUS 0x0206
    else
      let t := m1.hubWords 26 base n
      match t.2 with
      | none => t.1.anew (.scheduleLoad a nslots)
      | some (_, true) => t.1.fset Reg.TD_SCHED_CFG_STATUS 0x0304
      | some (ws, false) =>
        match schedBad ws with
        | some st => t.1.fset Reg.TD_SCHED_CFG_STATUS st
        | none =>
          (t.1.fset Reg.TD_SCHED_CFG_STATUS 0).setTd { t.1.td with
            next := some ⟨ws, (m.rget Reg.TD_SCHED_ORIGIN).toNat⟩ }))

/-- The slot of the Tide count, where slots are honoured: while the module follows, is master or holds over, and its count
does not stand still (R323, R329, R332). -/
def Mach.slotNow (m : Mach) : Option Nat :=
  let st := m.fget Reg.TD_STATE_STATE
  let n := m.fget Reg.TD_SLOT_SLOT
  if st = 0 ∨ st = 4 ∨ m.flag Reg.TD_STATE_STILL ∨ n = 0 then none else some ((m.rget Reg.TD_NOW).toNat / n)

/-- Place of slot `k` in a schedule: (k − ORIGIN) mod NSLOTS. -/
def TdSched.place (c : TdSched) (k : Nat) : Nat :=
  (((k : Int) - (c.origin : Int)) % ((max 1 c.entries.length : Nat) : Int)).toNat

/-- The ports' tags of a slot; without a schedule every slot is open. -/
def Mach.tagsOf (m : Mach) (k : Nat) : List Nat :=
  match m.td.sched with
  | none => List.replicate 8 0
  | some c => (List.range 8).map (fun p => bits (wd c.entries (c.place k)) (4 * p) 4)

/-- SCHEDULE_ACTIVATE (R333): the copy takes effect at a slot for which (k − ORIGIN) mod NSLOTS is 0. -/
def execScheduleActivate (s : State) : Host.Outcome State Fault Refusal :=
  s.act (fun m =>
    match m.td.next, m.slotNow with
    | some c, some k =>
      if c.place k = 0 then
        m.setTd { m.td with
          sched := some c
          next := none }
      else m
    | _, _ => m)

/-- A slot begins: its number, its ports' tags, and what leaves in it. -/
def Mach.slotBegin (m : Mach) (k : Nat) : Mach :=
  let m1 := m.setTd { m.td with
    slot := some k
    tags := m.tagsOf k }
  (m1.setSw { m1.sw with used := [] }).txServe

/-- TIDE_SLOT_START (R332 to R335). -/
def execTideSlotStart (s : State) : Host.Outcome State Fault Refusal :=
  s.act (fun m =>
    match m.slotNow with
    | none => m.noSlot
    | some k => m.slotBegin k)

end Sys2Proof.Machine
end

