-- ==== Sys2Proof/Machine/Ethernet.lean ====
section
/-!
DEFINITION. Port 7 as Ethernet, and PTP (R336 to R339).
-/

namespace Sys2Proof.Machine

/-- Whether an Ethernet port runs: port 7 is Ethernet, the port is started and its link is up. -/
def Mach.ethRuns (m : Mach) (e : Nat) : Bool :=
  m.flag Reg.SW_CFG_PORT7_ETH && m.flag (Reg.SW_ETH_CFG_EN e) && m.flag (Reg.SW_ETH_CNT_LINK_UP e)

/-- Where a ring's `n`-th descriptor lies, with its PHASE; none while LOG2 is not 6 to 16. -/
def Mach.ethSlot (m : Mach) (log2 base : Fld) (n : Nat) : Option (Nat × Nat) :=
  let k := m.fget log2
  if k < 6 ∨ 16 < k then none else some (ringSlot (m.fget base * 4096) (2 ^ k) n)

/-- Write a descriptor back (R337): words 1 and 2, with LEN, STATUS and TIMESTAMP; its other bits of word 1 stand. -/
def Mach.ethBack (m : Mach) (pa : Nat) (w1 : Word) (len status phase : Nat) (time : Word) : Mach :=
  let v := w1.toNat - bits w1 0 14 - bits w1 15 1 * 2 ^ 15 - bits w1 16 16 * 2 ^ 16
  m.hubWrite (pa + 8) (wordBytes [BitVec.ofNat 64 (v + len + phase * 2 ^ 15 + status * 2 ^ 16), time])

/-- ETH_TX_DOORBELL (R337). -/
def execEthTxDoorbell (a : Agent) (e : Fin 2) (tail : BitVec 32) (s : State) : Host.Outcome State Fault Refusal :=
  s.act (fun m0 => m0.byAgent a (Reg.SW_ETH_TX e.val) (fun m => m.fset (Reg.SW_ETH_TX_TAIL e.val) tail.toNat))

/-- The checks of a descriptor before it acts: poison, VERSION and reserved bits (R9, R10, R156). DEDUCED: log entry 42. -/
def ethCheck (w : List Word) (bad : Bool) : Nat :=
  if bad then 0x0304
  else if bits (wd w 3) 60 4 ≠ 1 then 0x0202
  else if reservedSet (wd w 0) [(0, 58)] || reservedSet (wd w 1) [(0, 32)] || reservedSet (wd w 3) [(60, 4)] then 0x0201
  else 0

/-- A transmit descriptor (R337): its frame leaves where it passes, and the descriptor is written back with its status, its
timestamp where one was asked for. It waits while another agent owns a line of the descriptor or of the buffer (R205). -/
def Mach.ethSend (m : Mach) (e n pa phase : Nat) : Mach :=
  let rd := m.hubWords 27 pa 4
  match rd.2 with
  | none => rd.1
  | some (w, bad) =>
    let buf := bits (wd w 0) 0 52
    let len := bits (wd w 1) 0 14
    let st0 := if ethCheck w bad ≠ 0 then ethCheck w bad
      else if len < 60 ∨ 9212 < len then 0x0204
      else if buf % 64 ≠ 0 ∨ !inStackOrShelf buf len then 0x0206 else 0
    let cur := if st0 = 0 then rd.1.current 27 buf len else (rd.1, true)
    if !cur.2 then cur.1
    else
      let d := cur.1.load (m.keyId (bits (wd w 0) 52 6)) buf len
      let st := if st0 ≠ 0 then st0 else if d.2 then 0x0304 else 0
      let m1 := if st = 0 then cur.1.emit (.ether e d.1) else cur.1
      let t := if bits (wd w 1) 14 1 = 1 ∧ st = 0 then m.rget Reg.TD_NOW else wd w 2
      (m1.ethBack pa (wd w 1) len st phase t).fset (Reg.SW_ETH_TX_HEAD e) (n + 1)

/-- The next transmit descriptor's frame has left, or it was refused: it is written back (R337). -/
def Mach.ethSent (m : Mach) (e : Nat) : Mach :=
  let n := m.fget (Reg.SW_ETH_TX_HEAD e)
  if !m.ethRuns e ∨ n = m.fget (Reg.SW_ETH_TX_TAIL e) then m
  else
    match m.ethSlot (Reg.SW_ETH_TXQ_LOG2 e) (Reg.SW_ETH_TXQ_BASE e) n with
    | none => m
    | some (pa, phase) =>
      m.ethSend e n pa phase

/-- FRAME_TRANSMITTED (R337). -/
def execFrameTransmitted (e : Fin 2) (s : State) : Host.Outcome State Fault Refusal := s.act (fun m => m.ethSent e.val)

/-- Big-endian 16-bit field of a frame. -/
def frame16 (d : List Byte) (i : Nat) : Nat := (d.getD i 0).toNat * 256 + (d.getD (i + 1) 0).toNat

/-- Whether a frame is PTP (R338): over IEEE 802.3, or UDP to port 319 or 320 over IPv4 or IPv6. -/
def isPtp (d : List Byte) : Bool :=
  let ty := frame16 d 12
  let udp (at_ : Nat) : Bool := frame16 d (at_ + 2) == 319 || frame16 d (at_ + 2) == 320
  ty == 0x88F7 ||
    (ty == 0x0800 && (d.getD 23 0).toNat == 17 && udp (14 + (d.getD 14 0).toNat % 16 * 4)) ||
    (ty == 0x86DD && (d.getD 20 0).toNat == 17 && udp 54)

/-- Whether the filter of R336 accepts a destination. -/
def Mach.ethAccepts (m : Mach) (e dst : Nat) : Bool :=
  dst == m.fget (Reg.SW_ETH_CFG_MAC e) || dst == 0xFFFFFFFFFFFF ||
    (dst / 2 ^ 40 % 2 == 1 && m.flag (Reg.SW_ETH_CFG_MCAST e)) || m.flag (Reg.SW_ETH_CFG_PROMISC e)

/-- A frame that is dropped is counted. -/
def Mach.ethDrop (m : Mach) (e : Nat) : Mach := m.fadd (Reg.SW_ETH_CNT_RX_DROP e) 1

/-- A frame goes to the next receive buffer (R337): where it fits it is written there, and the descriptor is written back. The frame is
held while another agent owns the descriptor's line (R205). -/
def Mach.ethTake (m : Mach) (e n pa phase : Nat) (f : EthFrame) : Mach :=
  let len := f.data.length
  let rd := m.hubWords 27 pa 4
  match rd.2 with
  | none => rd.1.setSw { rd.1.sw with ethHeld := rd.1.sw.ethHeld ++ [(e, f)] }
  | some (w, bad) =>
    let buf := bits (wd w 0) 0 52
    let st := if ethCheck w bad ≠ 0 then ethCheck w bad
      else if bits (wd w 1) 0 14 < len then 0x0204
      else if buf % 64 ≠ 0 ∨ !inStackOrShelf buf len then 0x0206 else 0
    let m1 := if st = 0 then rd.1.ncWrite none none (m.keyId (bits (wd w 0) 52 6)) buf f.data else rd.1.ethDrop e
    (m1.ethBack pa (wd w 1) (if st = 0 then len else 0) st phase f.time).fset (Reg.SW_ETH_RX_HEAD e) (n + 1)

/-- Whether frames of a port are held. -/
def Mach.ethHolds (m : Mach) (e : Nat) : Bool := m.sw.ethHeld.any (fun x => x.1 == e)

/-- An accepted frame takes the next receive descriptor, where one is free (R336, R337). -/
def Mach.ethPlace (m : Mach) (e : Nat) (f : EthFrame) : Mach :=
  let n := m.fget (Reg.SW_ETH_RX_HEAD e)
  if n = m.fget (Reg.SW_ETH_RX_TAIL e) then m.ethDrop e
  else
    match m.ethSlot (Reg.SW_ETH_RXQ_LOG2 e) (Reg.SW_ETH_RXQ_BASE e) n with
    | none => m.ethDrop e
    | some (pa, phase) => m.ethTake e n pa phase f

/-- Frames that are held go on, in order. -/
def Mach.ethDrain (m : Mach) : Mach :=
  m.sw.ethHeld.foldl (fun a x =>
    if a.ethHolds x.1 then a.setSw { a.sw with ethHeld := a.sw.ethHeld ++ [x] } else a.ethPlace x.1 x.2)
    (m.setSw { m.sw with ethHeld := [] })

/-- A frame arrives (R336 to R338). DEDUCED: log entry 42. -/
def Mach.ethReceive (m : Mach) (e : Nat) (f : EthFrame) : Mach :=
  let len := f.data.length
  if !m.ethRuns e then m
  else if !f.fcsOk ∨ 9212 < len then m.ethDrop e
  else if len < 60 then m
  else if m.flag Reg.SW_CFG_PTP_EN ∧ m.fget Reg.SW_CFG_PTP_PORT = e ∧ isPtp f.data then m
  else if !m.ethAccepts e f.dst.toNat then m
  else if m.ethHolds e then m.setSw { m.sw with ethHeld := m.sw.ethHeld ++ [(e, f)] }
  else m.ethPlace e f

/-- FRAME_RECEIVED (R336, R337). -/
def execFrameReceived (e : Fin 2) (f : EthFrame) (s : State) : Host.Outcome State Fault Refusal :=
  s.act (fun m => m.ethReceive e.val f)

/-- PTP_MESSAGE (R338, R339): a sync gives site time at this moment; the reach master, locked, steers toward it. -/
def execPtpMessage (e : Fin 2) (siteTime : Word) (locked : Bool) (s : State) : Host.Outcome State Fault Refusal :=
  s.act (fun m =>
    if !m.flag Reg.SW_CFG_PORT7_ETH ∨ !m.flag Reg.SW_CFG_PTP_EN ∨ m.fget Reg.SW_CFG_PTP_PORT ≠ e.val then m
    else
      let tide := m.rget Reg.TD_NOW
      let m1 := (m.rset Reg.TD_SITE_OFFSET (siteTime - tide)).fset Reg.TD_SITE_STATE_LOCKED (if locked then 1 else 0)
      let m2 := m1.setTd { m1.td with site := some ((siteTime.toNat : Int) - (m.ns : Int)) }
      if m.fget Reg.TD_STATE_STATE = 2 then
        m2.setTd { m2.td with
          slew := if locked then (siteTime - tide).toInt * 1000000 else 0 }
      else m2)

/-- ETHERNET_LINK_CHANGE (R336): the link of a started port comes up or goes down. -/
def execEthernetLinkChange (e : Fin 2) (up : Bool) (s : State) : Host.Outcome State Fault Refusal :=
  s.act (fun m =>
    if up ∧ !(m.flag Reg.SW_CFG_PORT7_ETH && m.flag (Reg.SW_ETH_CFG_EN e.val)) then m
    else m.fset (Reg.SW_ETH_CNT_LINK_UP e.val) (if up then 1 else 0))

end Sys2Proof.Machine
end

