-- ==== Sys2Proof/Machine/Firmware.lean ====
section
/-!
DEFINITION. Device firmware (R361 to R370): components that fault, restart and are held; images loaded at each start; one
die reloaded in service; the interface version.
-/

namespace Sys2Proof.Machine

def Mach.setFw (m : Mach) (f : FwSt) : Mach := { m with fw := f }

/-! Components (R361, R362) -/

/-- Work in hand of a component that restarts. -/
def Mach.dropWork (m : Mach) (c : Nat) : Mach :=
  let of := fun (p : Cmd → Bool) => m.js.cmds.filter p
  let finishAll := fun (a : Mach) (cs : List Cmd) => cs.foldl (fun b k => if b.js.cmds.any (fun q => q.id == k.id) then
    b.finish k 0x0F01 0 0 false else b) a
  if c = 0 then finishAll m (of (fun k => k.tgt == 192 && k.eng == 5 && k.phase == .running))
  else if c = 1 then finishAll m (of (fun k => k.tgt == 192 && k.eng == 6 && k.phase == .running))
  else if c = 2 then
    match m.sg.cur with
    | some (ws, done) => ({ m with sg := { m.sg with cur := none } }).sgRecord ws 0x0F01 done
    | none => m
  else finishAll m (of (fun k => k.tgt == c - 3 && k.phase == .pending && !k.isStepend))

/-- A component faults: its monitor restarts it, and a third fault within 60 s holds it. DEDUCED: log entry 45. -/
def Mach.compFault (m : Mach) (c : Nat) : Mach :=
  if m.compHeld c ∨ m.compDown c then m
  else
    let past := (sget [] c m.fw.faults).filter (fun t => decide (m.ns ≤ t + 60000000000))
    let m1 := (m.setFw { m.fw with faults := sset [] c ((m.ns :: past).take 3) m.fw.faults }).fadd (Reg.HB_FW_FAULT_RESTARTS c) 1
    let m2 := (m1.logE 0x0F 0x0F01 (c % 256) noJob c).dropWork c
    if 2 ≤ past.length then ((m2.fset (Reg.HB_FW_FAULT_HELD c) 1).logE 0x0F 0x0F01 (c % 256) noJob c).alert Reg.LH_ALERT_HELD
    else m2.setFw { m2.fw with down := c :: m2.fw.down }

/-- COMPONENT_FAULT (R361, R362). -/
def execComponentFault (c : Fin 195) (s : State) : Host.Outcome State Fault Refusal := s.act (fun m => m.compFault c.val)

/-- HEARTBEAT_TIMEOUT (R361, R362): 100 ms without a heartbeat count as a fault. -/
def execHeartbeatTimeout (c : Fin 195) (s : State) : Host.Outcome State Fault Refusal := s.act (fun m => m.compFault c.val)

/-- COMPONENT_RESTART (R361): the component serves again. -/
def execComponentRestart (c : Fin 195) (s : State) : Host.Outcome State Fault Refusal :=
  s.act (fun m => m.setFw { m.fw with down := m.fw.down.filter (fun x => x != c.val) })

/-! Loading (R365, R366) -/

/-- The checks of R366 from the state of things, in order: orders 2 to 5. -/
def Mach.fwState (m : Mach) (reload : Bool) (t : Nat) (override : Bool) : Option Nat :=
  let len := m.fget Reg.HB_FW_LEN_LEN
  let addr := m.fget Reg.HB_FW_ARG_ADDR
  let st := m.fget (Reg.HB_DIE_STATE_STATE t)
  if (if t = 4 then reload || m.harbourRuns
      else if reload then st != dieInService
      else m.fget Reg.HB_FW_IFACE_SELECT == 0 || st != dieLoading) then some 0x0101
  else if reload ∧ m.liveJobs.any (fun jn => match m.job? jn with
      | some j => j.excl
      | none => false) then some 0x0103
  else if override ∧ m.fget Reg.LH_LIFE_STATE ≠ 2 then some 0x0605
  else if len < 256 ∨ 48 * 2 ^ 20 < len then some 0x0204
  else if addr % 256 ≠ 0 ∨ !inStackOrShelf addr len then some 0x0206
  else none

/-- FWVER of the other dies in service, against an image's (R366). -/
def Mach.fwUneven (m : Mach) (t ver : Nat) : Bool :=
  (List.range 4).any (fun d => d != t && m.fget (Reg.HB_DIE_STATE_STATE d) == dieInService &&
    m.fget (Reg.HB_FW_VER_FWVER d) != ver)

/-- The checks of R366 on the image as copied, orders 6 to 11: what is to be loaded, or the status that refuses it. DEDUCED: log entry 45. -/
def Mach.fwImage (m : Mach) (reload : Bool) (t : Nat) (override : Bool) (bs : List Byte) : Except Nat FwOp :=
  let im := imageOf bs
  let harbour := decide (t = 4)
  match headerBad bs (if harbour then 1 else 2) with
  | some st => .error st
  | none =>
    if !m.imageSigned 1 im.sigOff bs then .error 0x0601
    else if im.svn < m.minSvn (if harbour then 3 else 4) then .error 0x0602
    else
      match manifestGood (if harbour then [3, 4, 6] else [1, 3, 5]) bs with
      | none => .error 0x0603
      | some es =>
        let mine := m.tested es (if harbour then 1 else 2) (if harbour then none else some t)
        let mineOk := if harbour then m.tested (es.filter (fun e => e.1 != 2)) 1 none else mine
        let running := harbour || !m.fw.man.any (fun e => e.1 == 2) || m.fw.man.any (fun e => e.1 == 2 && e.2 == im.ver)
        let testedAll := mineOk && running
        if !testedAll && !override then .error 0x0604
        else if !harbour && m.fwUneven t im.ver then .error 0x0101
        else .ok ⟨reload, t, !testedAll, im.ver, im.svn, im.ifmin, im.ifmax, es, sha384 bs⟩

/-- An operation is refused (R366): STATUS, in the die's state too for a Reef LOAD, and the log. -/
def Mach.fwRefuse (m : Mach) (reload : Bool) (t status : Nat) : Mach :=
  let m1 := (m.fset Reg.HB_FW_STATUS_STATUS status).logE 0x0F status t noJob 0
  let m2 := m1.logRefusal status t
  if t < 4 ∧ !reload then m2.fset (Reg.HB_DIE_STATE_STATUS t) status else m2

/-- The image an operation names, as Lighthouse copies it; none while its lines are recalled. -/
def Mach.fwCopy (m : Mach) (addr len : Nat) : Mach × Option (List Byte × Bool) :=
  let cur := m.current 25 addr len
  if cur.2 then (cur.1, some (cur.1.load 0 addr len)) else (cur.1, none)

/-- LOAD or RELOAD written to HB_FW_CMD (R258, R366, R367): an image that is admitted is to be loaded, in a reload once the
jobs that use its die stand at their boundaries. The command is tried again where the image's lines are recalled first. -/
def Mach.fwBegin (m : Mach) (i : Instr) (reload : Bool) (t : Nat) (override : Bool) : Mach :=
  if m.flag Reg.HB_FW_STATUS_BUSY then m
  else if 4 < t then m.fwRefuse reload t 0x0203
  else
    match m.fwState reload t override with
    | some st => m.fwRefuse reload t st
    | none =>
      let c := m.fwCopy (m.fget Reg.HB_FW_ARG_ADDR) (m.fget Reg.HB_FW_LEN_LEN)
      match c.2 with
      | none => c.1.anew i
      | some (_, true) => c.1.fwRefuse reload t 0x0304
      | some (bs, false) =>
        match c.1.fwImage reload t override bs with
        | .error st => c.1.fwRefuse reload t st
        | .ok op =>
          let m1 := ((c.1.setFw { c.1.fw with op := some op }).fset Reg.HB_FW_STATUS_BUSY 1).fset Reg.HB_FW_STATUS_PHASE
            (if reload then 3 else 4)
          if reload then (m1.holdIdle (2 + t) (fun j => j.usesDie t)).tryActions else m1

/-- FIRMWARE_LOAD (R365, R366). -/
def execFirmwareLoad (a : Agent) (target : BitVec 3) (override : Bool) (s : State) : Host.Outcome State Fault Refusal :=
  s.act (fun m => m.owned a Reg.HB_FW_CMD (fun x => x.fwBegin (.firmwareLoad a target override) false target.toNat override))

/-- RELOAD (R367). -/
def execReload (a : Agent) (target : BitVec 3) (override : Bool) (s : State) : Host.Outcome State Fault Refusal :=
  s.act (fun m => m.owned a Reg.HB_FW_CMD (fun x => x.fwBegin (.reload a target override) true target.toNat override))

/-- An operation ends. -/
def Mach.fwEnd (m : Mach) (status : Nat) : Mach :=
  (((m.setFw { m.fw with op := none }).fset Reg.HB_FW_STATUS_STATUS status).fset Reg.HB_FW_STATUS_BUSY 0).fset
    Reg.HB_FW_STATUS_PHASE 0

/-- The image runs (R237, R365 to R367, R407). -/
def Mach.fwLoaded (m : Mach) (o : FwOp) : Mach :=
  let t := o.target
  let m1 := (m.fset (Reg.HB_FW_VER_FWVER t) o.ver).fset (Reg.HB_FW_VER_SVN t) o.svn
  let m2 := m1.measure (3 + if t = 4 then 0 else t + 1) (if t = 4 then 1 else 2) o.svn o.ver o.digest
  let m3 := if o.untested then m2.fset Reg.HB_FW_STATUS_UNTESTED 1 else m2
  if t = 4 then
    ((m3.setFw { m3.fw with man := o.man }).fset Reg.HB_FW_IFACE_IFMIN o.ifmin).fset Reg.HB_FW_IFACE_IFMAX o.ifmax
  else if o.reload then
    ((m3.recallLines (m3.linesOf (9 + t))).setFw { m3.fw with down := m3.fw.down.filter (fun c =>
      !(decide (3 ≤ c) && (c - 3) / 48 == t)) }).releaseAll (2 + t)
  else ((m3.comeBack (9 + t)).dieTo t dieInService (m3.fget (Reg.HB_DIE_STATE_CAUSE t)) 0).setClocks

/-- FIRMWARE_LOADED (R366, R367). -/
def execFirmwareLoaded (s : State) : Host.Outcome State Fault Refusal :=
  s.act (fun m =>
    match m.fw.op with
    | none => m
    | some o => if m.fget Reg.HB_FW_STATUS_PHASE ≠ 4 then m else (m.fwLoaded o).fwEnd 0)

/-- RELOAD_QLIMIT_EXPIRY (R368): a reload still waiting for its jobs is abandoned; a QLIMIT of 0 sets no limit. -/
def execReloadQlimitExpiry (s : State) : Host.Outcome State Fault Refusal :=
  s.act (fun m =>
    match m.reloadWaits with
    | some o => if m.fget Reg.HB_FW_LEN_QLIMIT = 0 then m else (m.releaseAll (2 + o.target)).fwEnd 0x0101
    | none => m)

/-- INTERFACE_SELECT (R365): SELECT of HB_FW_IFACE. -/
def execInterfaceSelect (a : Agent) (sel : BitVec 4) (s : State) : Host.Outcome State Fault Refusal :=
  s.act (fun m0 => m0.byAgent a Reg.HB_FW_IFACE (fun m =>
    let v := sel.toNat
    if v < m.fget Reg.HB_FW_IFACE_IFMIN ∨ m.fget Reg.HB_FW_IFACE_IFMAX < v then m.fset Reg.HB_FW_IFACE_STATUS 0x0202
    else (m.fset Reg.HB_FW_IFACE_SELECT v).fset Reg.HB_FW_IFACE_STATUS 0))

end Sys2Proof.Machine
end

