-- ==== Sys2Proof/Machine/Front.lean ====
section
/-!
DEFINITION. The front edge (R446 to R456): the service button, the laser bays, removal, the lever, the light bar and the
sideband's STATUS.
-/

namespace Sys2Proof.Machine

/-- State of the front edge (R456): 0 IDLE, 1 SELECTING, 2 QUIESCING, 3 BAY_SAFE, 4 BAY_OPEN, 5 REMOVE_WAIT, 6 POWERING_DOWN,
7 SAFE_REMOVE. -/
def Mach.front (m : Mach) : Nat := m.fget Reg.LH_FRONT_STATE_STATE
def Mach.frontBay (m : Mach) : Nat := m.fget Reg.LH_FRONT_STATE_BAY
def Mach.setFront (m : Mach) (st : Nat) : Mach := m.fset Reg.LH_FRONT_STATE_STATE st

def bayLanes (b : Nat) : List Nat := (List.range 16).map (fun i => 16 * b + i)
def latchBit (b : Nat) : Fld := ⟨Reg.LH_FRONT_STATE, 8 + b, 1⟩

/-- Select a bay. -/
def Mach.selectBay (m : Mach) (b : Nat) : Mach := (m.fset Reg.LH_FRONT_STATE_BAY (b % 4)).setFront 1

/-- Retire the selected bay's lanes with CAUSE 4. -/
def Mach.quiesce (m : Mach) (b : Nat) : Mach := ((m.fset Reg.LH_FRONT_STATE_BAY b).setFront 2).lanesOut 4 (bayLanes b)

/-- Retrain the lanes that the bay retired (R313): LANE_RETRAINED ends it. -/
def Mach.retrainBay (m : Mach) (b : Nat) : Mach :=
  (bayLanes b).foldl (fun a l =>
    if a.fget (Reg.SW_LANE_STATE l) = 3 ∧ a.fget (Reg.SW_LANE_CAUSE l) = 4 then a.fset (Reg.SW_LANE_STATE l) 1 else a) m

/-- The bay in service returns, and the front edge is idle. -/
def Mach.bayBack (m : Mach) : Mach := (m.retrainBay m.frontBay).setFront 0

/-- SHORT_PRESS (R450, R451). -/
def execShortPress (s : State) : Host.Outcome State Fault Refusal :=
  s.act (fun m =>
    if m.front = 0 then m.selectBay 0
    else if m.front = 1 then m.selectBay (m.frontBay + 1)
    else if m.front = 3 then m.bayBack
    else m)

/-- The cancelling press leaves REMOVE_WAIT. DESIGN CHOICE: log entry 57. -/
def Mach.cancelRemove (m : Mach) : Mach := (m.fset Reg.LH_FRONT_STATE_REMOVE_REQ 0).setFront 0

/-- LONG_PRESS (R450, R451). -/
def execLongPress (s : State) : Host.Outcome State Fault Refusal :=
  s.act (fun m =>
    if m.front = 0 then (m.fset Reg.LH_FRONT_STATE_REMOVE_REQ 1).setFront 5
    else if m.front = 1 then m.setFront 0
    else if m.front = 5 then m.cancelRemove
    else m)

/-- SMB_ALERT_N is asserted (R446): a front-edge request waits for the driver. -/
def Mach.smbAlert (m : Mach) : Bool := m.front == 5

/-- SELECT_TIMEOUT (R451). -/
def execSelectTimeout (s : State) : Host.Outcome State Fault Refusal :=
  s.act (fun m => if m.front = 1 then m.quiesce m.frontBay else m)

/-- BAY_SAFE (R451). -/
def execBaySafe (s : State) : Host.Outcome State Fault Refusal :=
  s.act (fun m =>
    if m.front = 2 ∧ m.lanesActive (2 * m.frontBay) = 0 ∧ m.lanesActive (2 * m.frontBay + 1) = 0 then m.setFront 3 else m)

/-- SWAP_WINDOW_EXPIRY (R451). -/
def execSwapWindowExpiry (s : State) : Host.Outcome State Fault Refusal :=
  s.act (fun m => if m.front = 3 then m.bayBack else m)

/-- BAY_LATCH_OPEN (R313, R448, R451). -/
def execBayLatchOpen (b : Fin 4) (s : State) : Host.Outcome State Fault Refusal :=
  s.act (fun m =>
    let m1 := (m.fset (latchBit b.val) 0).bayFault b.val
    if m.front = 3 ∧ m.frontBay = b.val then m1.setFront 4 else m1)

/-- The bytes of a bay's record that its block covers. DESIGN CHOICE: log entry 54. -/
def BayRecord.covered (r : BayRecord) : List Byte := leBytes 8 r.serial.toNat ++ leBytes 8 r.bias ++ leBytes 8 r.eol

/-- BAY_FITTED (R313, R449, R451): a record that verifies gives the bay its bias and end-of-life bias, and its lanes retrain. -/
def execBayFitted (b : Fin 4) (r : BayRecord) (s : State) : Host.Outcome State Fault Refusal :=
  s.act (fun m =>
    if m.flag (latchBit b.val) then m
    else
      let m1 := m.fset (latchBit b.val) 1
      let m2 := if m.front = 4 ∧ m.frontBay = b.val then m1.setFront 0 else m1
      if m2.verifies 1 r.sig (BayRecord.covered r) then
        let m3 := { m2 with lh := { m2.lh with bays := (List.range 4).map (fun i => if i = b.val then (r.bias, r.eol) else m2.lh.bays.getD i (0, 0)) } }
        ((m3.rclear (Reg.LH_LASER b.val)).showHeadroom b.val).retrainBay b.val
      else (m2.logE 0x15 0x0601 b.val noJob 0).bayFault b.val)

/-! The owner's commands (R456) -/

/-- Complete a command. -/
def Mach.frontEnd (m : Mach) (status : Nat) : Mach := m.fset Reg.LH_FRONT_STATE_STATUS status

/-- A write to LH_FRONT_CMD (R258, R456). -/
def Mach.frontCmd (m : Mach) (a : Agent) (f : Mach → Mach) : Mach :=
  m.owned a Reg.LH_FRONT_CMD (fun x => if x.flag Reg.LH_FRONT_STATE_BUSY then x else f x)

/-- QUIESCE_BAY. -/
def execQuiesceBay (a : Agent) (b : Fin 4) (s : State) : Host.Outcome State Fault Refusal :=
  s.act (fun m => m.frontCmd a (fun x => if x.front = 0 then (x.quiesce b.val).frontEnd 0 else x.frontEnd 0x0101))

/-- CANCEL: as the cancelling press does; QUIESCING has none. -/
def execFrontCancel (a : Agent) (s : State) : Host.Outcome State Fault Refusal :=
  s.act (fun m => m.frontCmd a (fun x =>
    if x.front = 1 then (x.setFront 0).frontEnd 0
    else if x.front = 2 then x.frontEnd 0
    else if x.front = 3 then x.bayBack.frontEnd 0
    else if x.front = 5 then x.cancelRemove.frontEnd 0
    else x.frontEnd 0x0101))

/-- Powering down begins (R452): logged first. -/
def Mach.powerDown (m : Mach) : Mach := ((m.logE 0x16 0 0 noJob 0).fset Reg.LH_FRONT_STATE_REMOVE_REQ 0).setFront 6

/-- REMOVE_ACK (R451, R452). -/
def execRemoveAck (a : Agent) (s : State) : Host.Outcome State Fault Refusal :=
  s.act (fun m => m.frontCmd a (fun x => if x.front = 5 then x.powerDown.frontEnd 0 else x.frontEnd 0x0101))

/-- GRACE_EXPIRY (R451, R452). -/
def execGraceExpiry (s : State) : Host.Outcome State Fault Refusal :=
  s.act (fun m => if m.front = 5 then m.powerDown else m)

/-- POWER_DOWN_DONE (R451, R452): every job has ended with the domains. -/
def execPowerDownDone (s : State) : Host.Outcome State Fault Refusal :=
  s.act (fun m => if m.front = 6 then (m.lighthouseOnly .removed).setFront 7 else m)

/-! The lever (R453) -/

/-- Lighthouse's firmware runs. -/
def Mach.lhRuns (m : Mach) : Bool := m.lh.power == .on || m.lh.power == .shutdown || m.lh.power == .removed

/-- LEVER_OPEN: warned of and logged outside SAFE_REMOVE; the module runs on. -/
def execLeverOpen (s : State) : Host.Outcome State Fault Refusal :=
  s.actAlways (fun m =>
    if !m.lhRuns then m
    else
      let m1 := m.fset Reg.LH_FRONT_STATE_LEVER 0
      if m.front = 7 then m1 else ({ m1 with lh := { m1.lh with lever := true } }).logE 0x16 0 0 noJob 0)

/-- LEVER_CLOSE: the warning clears. -/
def execLeverClose (s : State) : Host.Outcome State Fault Refusal :=
  s.actAlways (fun m =>
    if !m.lhRuns then m
    else
      let m1 := m.fset Reg.LH_FRONT_STATE_LEVER 1
      { m1 with lh := { m1.lh with lever := false } })

/-! The light bar (R454, R455) -/

/-- The module-wide pattern in force, by its row of R454: 0 Off, 1 RETIRED, 2 ROM recovery, 3 shutdown, 4 lever open, 5
SAFE_REMOVE, 6 REMOVE_WAIT or POWERING_DOWN, 7 power-on; none where each segment shows its own. -/
def Mach.pattern (m : Mach) : Option Nat :=
  if m.lh.power = .off then some 0
  else if m.lh.power = .retired then some 1
  else if m.lh.power = .rom then some 2
  else if m.lh.power = .shutdown then some 3
  else if m.lh.lever then some 4
  else if m.front = 7 then some 5
  else if m.front = 5 ∨ m.front = 6 then some 6
  else if !m.lh.booted then some 7
  else none

/-- States of the lanes of a bay or port that its lane map does not disable. -/
def Mach.litStates (m : Mach) (ls : List Nat) : List Nat := (ls.map (fun l => m.fget (Reg.SW_LANE_STATE l))).filter (fun x => x != 4)

/-- Bay b's segment: 1 green, 3 blue flashing, 4 blue steady, 5 amber; what it shows otherwise the manual leaves open. -/
def Mach.baySegment (m : Mach) (b : Nat) : Nat :=
  let mine := m.frontBay == b
  let fault := !m.flag (latchBit b) || (bayLanes b).any (fun l => m.fget (Reg.SW_LANE_STATE l) == 3 && m.fget (Reg.SW_LANE_CAUSE l) == 4)
  if mine && (m.front == 1 || m.front == 2) then 3
  else if mine && (m.front == 3 || m.front == 4) then 4
  else if fault || decide (m.fget (Reg.LH_LASER_HEADROOM b) < 100) then 5
  else if (m.litStates (bayLanes b)).all (fun x => x == 2) then 1
  else (Config.openWord 8 (m.free + b)).toNat

/-- Port p's segment: 0 off, 1 green steady, 2 green flashing, 4 blue, 5 amber; what it shows otherwise the manual leaves open. -/
def Mach.portSegment (m : Mach) (p : Nat) : Nat :=
  let lit := m.litStates (portLanes p)
  if lit.isEmpty then 0
  else if !m.flag (connBit p) then 4
  else if lit.all (fun x => x != 2) || m.flag (Reg.SW_PORT_FOREIGN p) then 5
  else if lit.all (fun x => x == 2) then 1
  else if lit.any (fun x => x == 3) then 2
  else (Config.openWord 8 (m.free + 4 + p)).toNat

/-- The pattern, and the twelve segments where no module-wide one is in force. DESIGN CHOICE: log entry 57. -/
def Mach.lightBar (m : Mach) : List Nat :=
  match m.pattern with
  | some k => [k]
  | none => 8 :: ((List.range 4).map m.baySegment ++ (List.range 8).map m.portSegment)

/-- SIDEBAND_STATUS (R446): the pattern, the mode, the risk score, the front state and the last shutdown cause. -/
def execSidebandStatus (s : State) : Host.Outcome State Fault Refusal :=
  s.actAlways (fun x => x.sideband (fun m =>
    ({ m with free := m.free + 12 }).emit (.sideband 0x02 ([m.fget Reg.PW_MODE_MODE, m.fget Reg.LH_RISK_SCORE,
      (m.rget Reg.LH_FRONT_STATE).toNat, m.nv.cause] ++ m.lightBar) [])))

end Sys2Proof.Machine
end

