-- ==== Sys2Proof/Machine/Lighthouse.lean ====
section
/-!
DEFINITION. Lighthouse's services (R398 to R422): attestation, updates, security versions, lifecycle and owner transfer, the event
log, ageing, the sideband's IDENT, and SPDM on the landward ports.
-/

namespace Sys2Proof.Machine

/-! Attestation (R405 to R408) -/

/-- Complete a command of LH_ATT_CMD. -/
def Mach.attEnd (m : Mach) (status : Nat) : Mach :=
  (({ m with lh := { m.lh with att := false } }).fset Reg.LH_ATT_STATUS_STATUS status).fset Reg.LH_ATT_STATUS_BUSY 0

/-- The buffer of LH_ATT_ARG. -/
def Mach.attBuf (m : Mach) : Nat := m.fget Reg.LH_ATT_ARG_BUF * 4096

/-- REPORT (R391, R405, R408): any agent asks; a report that can be made waits for its turn. -/
def execReport (a : Agent) (s : State) : Host.Outcome State Fault Refusal :=
  s.act (fun m0 => m0.byAgent a Reg.LH_ATT_CMD (fun m =>
    if m.flag Reg.LH_ATT_STATUS_BUSY then m
    else if m.lh.regionBad then (m.attEnd 0x0601).logRefusal 0x0601 0
    else if 2 ^ 40 ≤ m.lh.q then m.attEnd 0x0101
    else if !inStackOrShelf m.attBuf 10240 then m.attEnd 0x0206
    else ({ m with lh := { m.lh with att := true } }).fset Reg.LH_ATT_STATUS_BUSY 1))

/-- The digest of a measurement slot, and its words 16 + 8m to 23 + 8m in a report (R407). -/
def Mach.measWords (m : Mach) (n : Nat) : List Word :=
  match sget none n m.lh.meas with
  | some x => [BitVec.ofNat 64 (x.kind + x.loads % 2 ^ 24 * 2 ^ 8 + x.svn * 2 ^ 32), BitVec.ofNat 64 x.ver] ++ leWords 6 x.digest
  | none => List.replicate 8 0

/-- The 2,048 bytes of a report that its signature block covers (R407). -/
def Mach.reportBody (m : Mach) : List Byte :=
  let flags := m.fget Reg.LH_LIFE_STATE + m.fget Reg.HB_FW_STATUS_UNTESTED * 4 + m.fget Reg.LH_LIFE_CONFIG_DEFAULT * 8 +
    (if m.tideUnset then 0 else 16)
  let head := [BitVec.ofNat 64 (m.fget Reg.SW_ID_IDENTITY), BitVec.ofNat 64 flags] ++
    (List.range 4).map (fun i => m.rget (Reg.LH_ATT_NONCE i)) ++ [BitVec.ofNat 64 m.now, BitVec.ofNat 64 m.lh.q] ++
    (List.range 6).map (fun d => m.rget (Reg.LH_DIEID d)) ++ [0, 0]
  wordBytes (head ++ (List.range 8).flatMap (fun n => m.measWords n) ++ List.replicate 175 0 ++ [BitVec.ofNat 64 (2 ^ 60)])

/-- Take the next index, after a new block where the reservation is used up (R405). -/
def Mach.takeIndex (m : Mach) : Mach :=
  if m.lh.q < m.nv.reserved then m
  else { m with nv := { m.nv with
    reserved := m.nv.reserved + 65536
    counter := m.nv.counter + 1 } }

/-- REPORT_COMPLETE (R405 to R408): once the tree for NEXT is prepared, the report goes to BUF and NEXT moves on. -/
def execReportComplete (s : State) : Host.Outcome State Fault Refusal :=
  s.act (fun m =>
    if !m.lh.att || !m.flag Reg.LH_LMS_READY then m
    else
      let m1 := m.takeIndex
      let body := m1.reportBody
      let sig := (Config.attest m1.lh.q body ++ List.replicate sigLen 0).take sigLen
      let m2 := m1.hubWrite m1.attBuf (body ++ sig)
      ({ m2 with lh := { m2.lh with q := m2.lh.q + 1 } }).showNext.attEnd 0)

/-- IDCERT (R408, R411): any agent asks. -/
def execIdcert (a : Agent) (s : State) : Host.Outcome State Fault Refusal :=
  s.act (fun m0 => m0.byAgent a Reg.LH_ATT_CMD (fun m =>
    if m.flag Reg.LH_ATT_STATUS_BUSY then m
    else if !inStackOrShelf m.attBuf m.nv.cert.length then m.attEnd 0x0206
    else (m.hubWrite m.attBuf m.nv.cert).attEnd 0))

/-- TREE_PREPARED (R406): the tree in use, or the next. -/
def execTreePrepared (s : State) : Host.Outcome State Fault Refusal :=
  s.act (fun m =>
    let t := m.lh.q / 2 ^ 20
    ({ m with nv := { m.nv with trees := if m.nv.trees ≤ t then t + 1 else t + 2 } }).showNext)

/-! A/B update (R417 to R420) -/

/-- Complete a command of LH_UPD_CMD, LH_SVN_CMD or LH_LIFE_CMD; a failure of signature, rollback or lifecycle is logged. -/
def Mach.updEnd (m : Mach) (status unit : Nat) : Mach :=
  ((m.fset Reg.LH_UPD_STATUS_STATUS status).fset Reg.LH_UPD_STATUS_BUSY 0).logRefusal status unit

/-- A command register of R421 that only the owner writes; the write is ignored while one runs. DEDUCED: log entry 53. -/
def Mach.updCmd (m : Mach) (a : Agent) (reg : Nat) (f : Mach → Mach) : Mach :=
  m.owned a reg (fun x => if x.flag Reg.LH_UPD_STATUS_BUSY then x else f x)

/-- The checks of R418 for a target. -/
def Mach.stageBad (m : Mach) (t : Nat) (bs : List Byte) : Option Nat :=
  if t = 0 then m.lhImageBad false bs else if t = 1 then m.cfgStageBad bs else m.hlImageBad bs

/-- UPDATE_STAGE (R418, R419): an image that passes is written to the slot that is not ACTIVE. -/
def execUpdateStage (a : Agent) (target : BitVec 2) (s : State) : Host.Outcome State Fault Refusal :=
  s.act (fun m => m.updCmd a Reg.LH_UPD_CMD (fun x =>
    let t := target.toNat
    let addr := x.fget Reg.LH_UPD_ARG_ADDR
    let len := x.fget Reg.LH_UPD_LEN_LEN
    if t = 3 then x.updEnd 0x0203 t
    else if (x.pair t).other = 3 then x.updEnd 0x0101 t
    else if slotLimit t < len then x.updEnd 0x0204 t
    else if !inStackOrShelf addr len then x.updEnd 0x0206 t
    else
      let cur := x.current 25 addr len
      if !cur.2 then cur.1.anew (.updateStage a target)
      else
        let d := cur.1.load 0 addr len
        if d.2 then cur.1.updEnd 0x0304 t
        else
          match cur.1.stageBad t d.1 with
          | some st => cur.1.updEnd st t
          | none =>
            let m1 := cur.1.setPair t ((cur.1.pair t).putSpare [] 0)
            ({ m1 with lh := { m1.lh with upd := some (t, d.1) } }).fset Reg.LH_UPD_STATUS_BUSY 1))

/-- UPDATE_SLOT_WRITTEN (R418): the slot is PENDING. -/
def execUpdateSlotWritten (s : State) : Host.Outcome State Fault Refusal :=
  s.act (fun m =>
    match m.lh.upd with
    | none => m
    | some (t, bs) =>
      let m1 := (m.setPair t ((m.pair t).putSpare bs 2)).logE 0x14 0 t noJob 0
      ({ m1 with lh := { m1.lh with upd := none } }).updEnd 0 t)

/-- UPDATE_CONFIRM (R419): a Headland boot slot in TRIAL becomes ACTIVE. -/
def execUpdateConfirm (a : Agent) (target : BitVec 2) (s : State) : Host.Outcome State Fault Refusal :=
  s.act (fun m => m.updCmd a Reg.LH_UPD_CMD (fun x =>
    let t := target.toNat
    if t = 3 then x.updEnd 0x0203 t
    else if t = 2 ∧ (x.pair t).other = 3 then ((x.setPair t (x.pair t).swap).logE 0x14 0 t noJob 0).updEnd 0 t
    else x.updEnd 0x0101 t))

/-- UPDATE_CANCEL (R419): a PENDING slot is INACTIVE. -/
def execUpdateCancel (a : Agent) (target : BitVec 2) (s : State) : Host.Outcome State Fault Refusal :=
  s.act (fun m => m.updCmd a Reg.LH_UPD_CMD (fun x =>
    let t := target.toNat
    if t = 3 then x.updEnd 0x0203 t
    else if (x.pair t).other = 2 then (x.setPair t { x.pair t with other := 1 }).updEnd 0 t
    else x.updEnd 0x0101 t))

/-- Reef dies in service. -/
def Mach.reefServing (m : Mach) : List Nat := (List.range 4).filter (fun d => m.fget (Reg.HB_DIE_STATE_STATE d) == dieInService)

/-- SVN of the running image of a kind; none where none runs. -/
def Mach.runningSvn (m : Mach) (k : Nat) : Option Nat :=
  if k < 3 then (if (sget none k m.lh.meas).isSome then some (sget 0 k m.lh.runSvn) else none)
  else if k = 3 then (if m.harbourRuns then some (m.fget (Reg.HB_FW_VER_SVN 4)) else none)
  else (m.reefServing.head?).map (fun d => m.fget (Reg.HB_FW_VER_SVN d))

/-- Whether the Reef dies in service run unequal SVNs. -/
def Mach.svnUneven (m : Mach) : Bool :=
  ((m.reefServing.map (fun d => m.fget (Reg.HB_FW_VER_SVN d))).eraseDups).length != 1 && !m.reefServing.isEmpty

/-- An authenticated write to the region (R393). -/
def Mach.regionWrite (m : Mach) (f : NvSt → NvSt) : Mach :=
  { m with nv := { f m.nv with counter := m.nv.counter + 1 } }

/-- SVN_COMMIT (R420): MIN_SVN rises to the running image's SVN. DEDUCED: log entry 53. -/
def execSvnCommit (a : Agent) (kind : BitVec 3) (s : State) : Host.Outcome State Fault Refusal :=
  s.act (fun m => m.updCmd a Reg.LH_SVN_CMD (fun x =>
    let k := kind.toNat
    if 4 < k then x.updEnd 0x0203 k
    else if x.lh.regionBad then x.updEnd 0x0601 k
    else if (k < 3 ∧ (x.pair k).other = 3) ∨ x.svnUneven then x.updEnd 0x0101 k
    else
      match x.runningSvn k with
      | none => x.updEnd 0x0101 k
      | some v =>
        let m1 := x.regionWrite (fun nv => { nv with minSvn := sset 0 k (max v (sget 0 k nv.minSvn)) nv.minSvn })
        (m1.showSvn.logE 0x14 0 k noJob 0).updEnd 0 k))

/-! Lifecycle and owner (R399, R400, R403) -/

/-- LIFECYCLE_RETIRE (R400): in PRODUCTION, with the value in CONFIRM; the region is zeroised first. -/
def execLifecycleRetire (a : Agent) (confirm : BitVec 32) (s : State) : Host.Outcome State Fault Refusal :=
  s.act (fun m => m.updCmd a Reg.LH_LIFE_CMD (fun x =>
    if x.fget Reg.LH_LIFE_STATE ≠ 1 ∨ confirm.toNat ≠ 0x52455449 then x.updEnd 0x0605 0
    else
      let m1 := x.regionWrite (fun nv => { nv with
        minSvn := []
        reserved := 0
        owner := ([], [])
        media := false })
      let m2 : Mach := { m1 with nv := { m1.nv with life := 3 } }
      ((m2.sgErase.fset Reg.LH_LIFE_STATE 3).showSvn).updEnd 0 0))

/-- TRANSFER (R403): a record of the two new key hashes and SW_ID, then a block of key set 2 over them by the present owner. DESIGN CHOICE: log entry 54. -/
def execTransfer (a : Agent) (record : List Byte) (s : State) : Host.Outcome State Fault Refusal :=
  s.act (fun m => m.updCmd a Reg.LH_LIFE_CMD (fun x =>
    if record.length ≠ 104 + sigLen then x.updEnd 0x0204 0
    else if x.lh.regionBad ∨ !x.verifies 2 (record.drop 104) (record.take 104) then x.updEnd 0x0601 0
    else if leNat (cut record 96 8) ≠ x.fget Reg.SW_ID_IDENTITY then x.updEnd 0x0605 0
    else (x.regionWrite (fun nv => { nv with owner := (cut record 0 48, cut record 48 48) })).updEnd 0 0))

/-! The event log (R413) -/

/-- One bit of the reflected CRC-32C. -/
def crc32cBit (c : BitVec 32) : BitVec 32 := if c.getLsbD 0 then (c >>> 1) ^^^ 0x82F63B78#32 else c >>> 1

def crc32cBits : Nat → BitVec 32 → BitVec 32
  | 0, c => c
  | n + 1, c => crc32cBits n (crc32cBit c)

/-- CRC-32C of bytes. -/
def crc32c (bs : List Byte) : BitVec 32 :=
  ~~~(bs.foldl (fun c b => crc32cBits 8 (c ^^^ BitVec.setWidth 32 b)) (BitVec.allOnes 32))

/-- The 64 bytes of a record. -/
def LogEnt.bytes (e : LogEnt) : List Byte :=
  let ws := [BitVec.ofNat 64 e.time,
    BitVec.ofNat 64 (e.seq % 2 ^ 40 + (if e.loc then 2 ^ 40 else 0) + e.status % 2 ^ 16 * 2 ^ 48),
    BitVec.ofNat 64 (e.event % 2 ^ 8 + e.unit % 2 ^ 8 * 2 ^ 8 + e.job % 2 ^ 6 * 2 ^ 16), BitVec.ofNat 64 e.addr] ++
    (List.range 3).map (fun i => BitVec.ofNat 64 (e.data.getD i 0))
  wordBytes (ws ++ [BitVec.ofNat 64 ((crc32c (wordBytes ws)).toNat + 2 ^ 60)])

/-- LOG_COPY (R413, R422): any agent; a write while a copy runs is ignored. -/
def execLogCopy (a : Agent) (start : BitVec 40) (count : BitVec 17) (s : State) : Host.Outcome State Fault Refusal :=
  s.act (fun m0 => m0.byAgent a Reg.LH_LOG_CMD (fun m =>
    let stop := fun (st : Nat) => (m.fset Reg.LH_LOG_STATUS_STATUS st).fset Reg.LH_LOG_STATUS_DONE 0
    if m.flag Reg.LH_LOG_STATUS_BUSY then m
    else if 65536 < count.toNat then stop 0x0204
    else if !inStackOrShelf (m.fget Reg.LH_LOG_ARG_BUF * 64) (64 * count.toNat) then stop 0x0206
    else ({ m with lh := { m.lh with copy := some (start.toNat, count.toNat) } }).fset Reg.LH_LOG_STATUS_BUSY 1))

/-- LOG_COPY_DONE (R413, R422): the records still held, those of the buffer included. -/
def execLogCopyDone (s : State) : Host.Outcome State Fault Refusal :=
  s.act (fun m =>
    match m.lh.copy with
    | none => m
    | some (start, n) =>
      let rs := (m.nv.log ++ m.log.buf).filter (fun e => decide (start ≤ e.seq) && decide (e.seq < start + n))
      let m1 := m.hubWrite (m.fget Reg.LH_LOG_ARG_BUF * 64) (rs.flatMap LogEnt.bytes)
      let m2 := ((m1.fset Reg.LH_LOG_STATUS_DONE rs.length).fset Reg.LH_LOG_STATUS_STATUS 0).fset Reg.LH_LOG_STATUS_BUSY 0
      { m2 with lh := { m2.lh with copy := none } })

/-- LOG_FLASH_WRITE (R413): the oldest buffered record goes to the ring; dropped ones are then told of. Lighthouse does this after
a shutdown as well. -/
def execLogFlashWrite (s : State) : Host.Outcome State Fault Refusal :=
  s.actAlways (fun m =>
    match m.log.buf with
    | [] => m
    | e :: rest =>
      let ring := m.nv.log ++ [e]
      let m1 := { m with
        log := { m.log with buf := rest }
        nv := { m.nv with
          log := if 1048576 < ring.length then ring.drop 1 else ring
          logSeq := e.seq + 1 } }
      if m1.log.lost = 0 then m1
      else
        let m2 := m1.logD 0x17 0 0 noJob 0 [m1.log.lost]
        { m2 with log := { m2.log with lost := 0 } })

/-! Ageing (R415, R416) -/

/-- A figure of a register of 24 bits. -/
def cap24 (n : Nat) : Nat := min n (2 ^ 24 - 1)

/-- A date in days, where the site's is known: the site date plus the hours that remain. -/
def ageDate (site : Option Nat) (hours : Nat) : Nat :=
  match site with
  | some h => cap24 ((h + hours) / 24)
  | none => 0

/-- One laser source's estimate and headroom. DEDUCED: log entry 50. -/
def Mach.ageLaser (m : Mach) (f : AgeFit) (b : Nat) : Mach :=
  match f.laserHours[b]?, f.headroom[b]? with
  | some h, some x =>
    let old := m.fget (Reg.LH_LASER_HEADROOM b)
    let m1 := ((m.fset (Reg.LH_LASER_HEADROOM b) (min x 1023)).fset (Reg.LH_LASER_REMAIN_H b) (cap24 h)).fset (Reg.LH_LASER_DATE b)
      (ageDate f.siteHours h)
    if x < 100 ∧ (old = 0 ∨ 100 ≤ old) then m1.alert Reg.LH_ALERT_LASER else m1
  | _, _ => m

/-- AGEING_FIT: the module's remaining life is the least of the non-laser estimates; alerts as a figure falls below its bound. -/
def execAgeingFit (f : AgeFit) (s : State) : Host.Outcome State Fault Refusal :=
  s.act (fun m =>
    let m1 := match f.moduleHours with
      | [] => m
      | h :: hs =>
        let r := hs.foldl min h
        let old := m.fget Reg.LH_EOL_REMAIN_H
        let a := (m.fset Reg.LH_EOL_REMAIN_H (cap24 r)).fset Reg.LH_EOL_DATE (ageDate f.siteHours r)
        if r < 2160 ∧ (old = 0 ∨ 2160 ≤ old) then a.alert Reg.LH_ALERT_EOL else a
    (List.range 4).foldl (fun a b => a.ageLaser f b) m1)

/-! IDENT (R446) -/

/-- The order code with its variant letter (R1): WXE-4A512B without a partner site, WXE-4A512C with one. -/
def Mach.orderCode (m : Mach) : List Byte :=
  [0x57, 0x58, 0x45, 0x2D, 0x34, 0x41, 0x35, 0x31, 0x32, if m.flag Reg.BW_ID_FITTED then 0x43 else 0x42]

/-- IDENT: identity, lifecycle state, serial number and the order code. -/
def execIdent (s : State) : Host.Outcome State Fault Refusal :=
  s.actAlways (fun x => x.sideband (fun m =>
    m.emit (.sideband 0x01 [m.fget Reg.SW_ID_IDENTITY, m.fget Reg.LH_LIFE_STATE]
      (leBytes 8 (m.rget (Reg.LH_SERIAL 0)).toNat ++ leBytes 8 (m.rget (Reg.LH_SERIAL 1)).toNat ++ m.orderCode))))

/-! SPDM (R409) -/

def Mach.spdmOf (m : Mach) (p : Nat) : Spdm := (sget none p m.lh.spdm).getD ⟨0, none, false⟩
def Mach.setSpdm (m : Mach) (p : Nat) (x : Spdm) : Mach := { m with lh := { m.lh with spdm := sset none p (some x) m.lh.spdm } }

/-- A request over a port's DOE: served while its link is up, from the stage of the connection it needs on; otherwise answered
ERROR. Response codes are DSP0274's. PRESUMED: log entry 56. -/
def Mach.spdmServe (m : Mach) (p need : Nat) (f : Mach → Spdm → Mach) : Mach :=
  if !m.linkAlive p then m
  else if (m.spdmOf p).stage < need then m.emit (.landward p [0x7F, 0x04] [])
  else f m (m.spdmOf p)

/-- Answer with signed bytes. -/
def Mach.spdmSigned (m : Mach) (p code : Nat) (words : List Nat) (bs : List Byte) : Mach :=
  m.emit (.landward p (code :: words) (bs ++ Config.spdmSign bs))

/-- GET_VERSION: version 1.2; the connection starts afresh. -/
def execGetVersion (p : Fin 2) (s : State) : Host.Outcome State Fault Refusal :=
  s.act (fun m => m.spdmServe p.val 0 (fun x _ => (x.setSpdm p.val ⟨1, none, false⟩).emit (.landward p.val [0x04, 0x12] [])))

/-- GET_CAPABILITIES. -/
def execGetCapabilities (p : Fin 2) (s : State) : Host.Outcome State Fault Refusal :=
  s.act (fun m => m.spdmServe p.val 1 (fun x c => (x.setSpdm p.val { c with stage := max 2 c.stage }).emit (.landward p.val [0x61] [])))

/-- NEGOTIATE_ALGORITHMS: `ok` when the requester offers the algorithms of R409. -/
def execNegotiateAlgorithms (p : Fin 2) (ok : Bool) (s : State) : Host.Outcome State Fault Refusal :=
  s.act (fun m => m.spdmServe p.val 2 (fun x c =>
    if ok then (x.setSpdm p.val { c with stage := 3 }).emit (.landward p.val [0x63] [])
    else x.emit (.landward p.val [0x7F, 0x01] [])))

/-- GET_DIGESTS: the digest of the X.509 chain (R411). -/
def execGetDigests (p : Fin 2) (s : State) : Host.Outcome State Fault Refusal :=
  s.act (fun m => m.spdmServe p.val 3 (fun x _ => x.emit (.landward p.val [0x01] (sha384 x.nv.chain))))

/-- GET_CERTIFICATE: a portion of the chain, and how much remains. -/
def execGetCertificate (p : Fin 2) (off len : Nat) (s : State) : Host.Outcome State Fault Refusal :=
  s.act (fun m => m.spdmServe p.val 3 (fun x _ =>
    let part := cut x.nv.chain off len
    if x.nv.chain.length < off then x.emit (.landward p.val [0x7F, 0x01] [])
    else x.emit (.landward p.val [0x02, part.length, x.nv.chain.length - off - part.length] part)))

/-- CHALLENGE: signed with ECDSA alone. -/
def execChallenge (p : Fin 2) (nonce : BitVec 256) (s : State) : Host.Outcome State Fault Refusal :=
  s.act (fun m => m.spdmServe p.val 3 (fun x _ =>
    x.spdmSigned p.val 0x03 [] (sha384 x.nv.chain ++ leBytes 32 nonce.toNat)))

/-- GET_MEASUREMENTS: the measurement slot's digest, all zero when nothing is loaded (R407). -/
def execGetMeasurements (p : Fin 2) (index : Fin 8) (nonce : BitVec 256) (s : State) : Host.Outcome State Fault Refusal :=
  s.act (fun m => m.spdmServe p.val 3 (fun x _ =>
    x.spdmSigned p.val 0x60 [index.val] (wordBytes ((x.measWords index.val).drop 2) ++ leBytes 32 nonce.toNat)))

/-- KEY_EXCHANGE: a session opens, its responder's half of the identity fresh. -/
def execKeyExchange (p : Fin 2) (session : BitVec 16) (s : State) : Host.Outcome State Fault Refusal :=
  s.act (fun m => m.spdmServe p.val 3 (fun x c =>
    let k := x.fresh
    let rsp := (Config.random k.1).toNat % 2 ^ 16
    (k.2.setSpdm p.val { c with
      session := some (session.toNat + rsp * 2 ^ 16)
      secured := false }).spdmSigned p.val 0x64 [rsp] []))

/-- FINISH: the session it names is secured; `ide` also keys the port's IDE stream (R263). -/
def execFinish (p : Fin 2) (session : BitVec 32) (ok : Bool) (ide : Bool) (s : State) : Host.Outcome State Fault Refusal :=
  s.act (fun m => m.spdmServe p.val 3 (fun x c =>
    if c.session ≠ some session.toNat ∨ !ok then x.emit (.landward p.val [0x7F, 0x06] [])
    else
      let m1 := (x.setSpdm p.val { c with secured := true }).emit (.landward p.val [0x65] [])
      if ide then m1.fset (Reg.LW_LINK_IDE p.val) 1 else m1))

/-- END_SESSION. -/
def execEndSession (p : Fin 2) (session : BitVec 32) (s : State) : Host.Outcome State Fault Refusal :=
  s.act (fun m => m.spdmServe p.val 3 (fun x c =>
    if c.session = some session.toNat then
      (x.setSpdm p.val { c with
        session := none
        secured := false }).emit (.landward p.val [0x6C] [])
    else x.emit (.landward p.val [0x7F, 0x04] [])))

end Sys2Proof.Machine
end

