-- ==== Sys2Proof/Machine/Prefetch.lean ====
section
/-!
DEFINITION. Prefetch schedules (R172 to R175): starting and stopping, COPY, STAGE and MARK entries, and their end in list
order.
-/

namespace Sys2Proof.Machine

/-- Whether the job's schedule has a live context. -/
def Mach.pfStart (m : Mach) (jn : Nat) : Mach :=
  if !m.live jn || m.flag (Reg.HB_PF_STATE_RUNNING jn) then m
  else (m.rset (Reg.HB_PF_STATE jn) 0).fset (Reg.HB_PF_STATE_RUNNING jn) 1

/-- START (R175, R258). -/
def execPrefetchStart (a : Agent) (job : Fin 64) (s : State) : Host.Outcome State Fault Refusal :=
  s.act (fun m => m.owned a (Reg.HB_PF_CTRL job.val) (fun x => x.pfStart job.val))

/-- STOP (R175): running entries complete. -/
def execPrefetchStop (a : Agent) (job : Fin 64) (s : State) : Host.Outcome State Fault Refusal :=
  s.act (fun m => m.owned a (Reg.HB_PF_CTRL job.val) (fun x => x.fset (Reg.HB_PF_STATE_RUNNING job.val) 0))

/-- RESUME (R174, R175). -/
def execPrefetchResume (a : Agent) (job : Fin 64) (s : State) : Host.Outcome State Fault Refusal :=
  s.act (fun m => m.owned a (Reg.HB_PF_CTRL job.val) (fun x =>
    if x.live job.val then
      ((x.fset (Reg.HB_PF_STATE_FAILED job.val) 0).fset (Reg.HB_PF_STATE_STATUS job.val) 0).fset (Reg.HB_PF_STATE_RUNNING job.val) 1
    else x))

def PfEnt.kind (e : PfEnt) : Nat := bits (wd e.words 0) 0 4
def PfEnt.src (e : PfEnt) : Nat := bits (wd e.words 3) 0 57
def PfEnt.dst (e : PfEnt) : Nat := bits (wd e.words 4) 0 57
def PfEnt.len (e : PfEnt) : Nat := bits (wd e.words 5) 0 40
/-- Core a STAGE entry names. -/
def PfEnt.tgt (e : PfEnt) : Nat := bits (wd e.words 0) 21 2 * 48 + bits (wd e.words 0) 23 6
/-- A value of an entry moved on by its pass (R173). DEDUCED: log entry 30. -/
def Mach.pfValue (m : Mach) (e : PfEnt) (w : Nat) : Nat :=
  bits (wd e.words w) 0 48 + e.pass * m.fget (Reg.HB_PF_CFG_PASS_INC e.job)

/-- Fields of an entry's words by its kind (R9, R172). -/
def pfFields (kind i : Nat) : List (Nat × Nat) :=
  if i = 0 then [(0, 21)] ++ (if kind = 2 then [(21, 8)] else [])
  else if i = 1 ∨ i = 2 then [(0, 48)]
  else if i = 3 then (if kind = 3 then [] else [(0, 57)])
  else if i = 4 then (if kind = 1 then [(0, 57)] else [])
  else if i = 5 then (if kind = 1 then [(0, 40)] else [])
  else if i = 7 then [(60, 4)]
  else []

/-- The checks of an entry (R172, R174). -/
def PfEnt.check (e : PfEnt) : Option Nat :=
  let w := wd e.words 0
  if bits (wd e.words 7) 60 4 ≠ 1 then some 0x0202
  else if e.kind = 0 ∨ 3 < e.kind ∨ 224 ≤ bits w 4 8 ∨ (bits w 20 1 = 1 ∧ 224 ≤ bits w 12 8) ∨
      (e.kind = 2 ∧ 48 ≤ bits w 23 6) then some 0x0203
  else if (List.range 8).any (fun i => reservedSet (wd e.words i) (pfFields e.kind i)) then some 0x0201
  else if e.kind = 1 ∧ e.len % 256 ≠ 0 then some 0x0204
  else if e.kind = 1 ∧ (e.src % 256 ≠ 0 ∨ e.dst % 256 ≠ 0) then some 0x0206
  else none

/-- Replace a running entry. -/
def Mach.pfPut (m : Mach) (e : PfEnt) : Mach :=
  { m with js := { m.js with pf := m.js.pf.map (fun x => if x.id = e.id then e else x) } }

def Mach.pfOf (m : Mach) (jn : Nat) : List PfEnt := m.js.pf.filter (fun e => e.job == jn)

/-- Read the next entry of a schedule that may start one (R173), none while Slack gates the prefetcher (R432): its words, or a failed
or waiting read. -/
def Mach.pfNext (m : Mach) (jn : Nat) : Mach × Option (Except Nat PfEnt) :=
  match m.job? jn with
  | none => (m, none)
  | some j =>
    let mine := m.pfOf jn
    if !m.flag (Reg.HB_PF_STATE_RUNNING jn) || m.fget Reg.PW_MODE_MODE == 3 || m.fget (Reg.HB_PF_CFG_DEPTHM1 jn) < mine.length ||
        mine.any (fun e => e.status != none && e.status != some 0) || j.dying then (m, none)
    else
      let i := m.fget (Reg.HB_PF_STATE_ENTRY jn)
      let r := m.agentRead 20 j ((m.fget (Reg.HB_PF_BASE_BASE jn) + i * 64) % 2 ^ 57) 64
      match r.2 with
      | .ok bs => (r.1, some (.ok ⟨m.js.nextId, jn, m.fget (Reg.HB_PF_STATE_PASS jn), i, leWords 8 bs, 0, none⟩))
      | .error x =>
        let a := r.1.agentStop 20 jn x
        (a.1, a.2.map (fun st => .error st))

/-- Start an entry: it takes its number, and the schedule's place moves on, to entry 0 of the next pass after the last. -/
def Mach.pfTake (m : Mach) (e : PfEnt) : Mach :=
  let m1 := { m with js := { m.js with
    pf := m.js.pf ++ [e]
    nextId := m.js.nextId + 1 } }
  if m.fget (Reg.HB_PF_CFG_NENTM1 e.job) ≤ e.entry then
    (m1.fset (Reg.HB_PF_STATE_ENTRY e.job) 0).fadd (Reg.HB_PF_STATE_PASS e.job) 1
  else m1.fset (Reg.HB_PF_STATE_ENTRY e.job) (e.entry + 1)

/-- Move what is left of a COPY, at most a 64 KiB page at a time (R173, R174); the number bounds the pieces. -/
def Mach.pfCopy (m : Mach) (j : Job) (e : PfEnt) : Nat → Mach
  | 0 => m
  | n + 1 =>
    if e.len ≤ e.prog then m.pfPut { e with status := some 0 }
    else
      let len := min (e.len - e.prog) 65536
      let stop := fun (a : Mach) (x : XStop) =>
        let q := a.agentStop 20 e.job x
        match q.2, x with
        | some st, _ => q.1.pfPut { e with status := some st }
        | none, .landward p => (q.1.pfPut e).stall p e.id
        | none, _ => q.1.pfPut e
      let r := m.agentRead 20 j ((e.src + e.prog) % 2 ^ 57) len
      match r.2 with
      | .error x => stop r.1 x
      | .ok bs =>
        let w := r.1.agentWrite j (some e.id) ((e.dst + e.prog) % 2 ^ 57) bs
        match w.2 with
        | .error x => stop w.1 x
        | .ok _ => w.1.pfCopy j { e with prog := e.prog + len } n

/-- Begin the entry that may start, when it is of a kind: a failed read or check leaves it failed. MARK row entries of a
reserved kind are met with MARK. -/
def Mach.pfBegin (m : Mach) (jn : Nat) (mine : Nat → Bool) (go : Mach → Job → PfEnt → Mach) : Mach :=
  let r := m.pfNext jn
  match r.2, m.job? jn with
  | some (.error st), _ =>
    r.1.pfTake ⟨m.js.nextId, jn, m.fget (Reg.HB_PF_STATE_PASS jn), m.fget (Reg.HB_PF_STATE_ENTRY jn), [], 0, some st⟩
  | some (.ok e), some j =>
    if !mine e.kind then r.1
    else
      match e.check with
      | some st => r.1.pfTake { e with status := some st }
      | none =>
        if r.1.eventVal jn 192 (bits (wd e.words 0) 4 8) < r.1.pfValue e 1 then r.1
        else go (r.1.pfTake e) j e
  | _, _ => r.1

/-- PREFETCH_COPY: the first running COPY that can go on does, otherwise the next entry starts if it is a COPY. -/
def execPrefetchCopy (job : Fin 64) (s : State) : Host.Outcome State Fault Refusal :=
  s.act (fun m =>
    let on := (m.pfOf job.val).find? (fun e => e.kind == 1 && e.status == none &&
      !m.xl.recs.any (fun r => r.waiters.any (fun w => w.job == job.val && decide (w.who = .harbour 20) &&
        (decide (e.src + e.prog ≤ w.va) && decide (w.va < e.src + e.len) || decide (e.dst + e.prog ≤ w.va) && decide (w.va < e.dst + e.len)))))
    match on, m.job? job.val with
    | some e, some j => m.pfCopy j e (e.len / 65536 + 2)
    | _, _ => m.pfBegin job.val (fun k => k == 1) (fun x j e => x.pfCopy j e (e.len / 65536 + 2)))

/-- The header of a command a STAGE entry delivers: COND 00, the job's current step, SOE 0, CE 0 (R173). DEDUCED: log entry 30. -/
def pfHeader (jn core step : Nat) : List Word :=
  [BitVec.ofNat 64 (4 + core * 16 + 2 * 2 ^ 10 + jn * 2 ^ 14), BitVec.ofNat 64 step, 0, 0, 0, 0, 0, BitVec.ofNat 64 (2 ^ 60)]

/-- The command of a STAGE entry, with the descriptor it names. -/
def Mach.pfCmd (m : Mach) (j : Job) (e : PfEnt) (body : List Word) : Cmd :=
  { newCmd e.id e.job 8 0 e.tgt 4 (pfHeader e.job (e.tgt % 48) j.step) body with task := m.taskNow e.job e.tgt }

/-- PREFETCH_STAGE: the entry's descriptor goes to its core's data mover queue as a command of the job; one for a core of a die that is
not in service fails (R236). -/
def execPrefetchStage (job : Fin 64) (s : State) : Host.Outcome State Fault Refusal :=
  s.act (fun m => m.pfBegin job.val (fun k => k == 2) (fun x j e =>
    let r := x.agentRead 20 j e.src 128
    match r.2 with
    | .error y =>
      let q := r.1.agentStop 20 job.val y
      (match q.2 with
       | some st => q.1.pfPut { e with status := some st }
       | none =>
         let r0 := m.agentRead 20 j e.src 128
         match r0.2 with
         | .error z => (r0.1.agentStop 20 job.val z).1
         | .ok _ => r0.1)
    | .ok bs =>
      let c := r.1.pfCmd j e (leWords 16 bs)
      if c.dmKind ≠ 1 then r.1.pfPut { e with status := some 0x0203 }
      else if m.fget (Reg.HB_DIE_STATE_STATE (e.tgt / 48)) ≠ dieInService then r.1.pfPut { e with status := some 0x0304 }
      else r.1.setCmds (r.1.js.cmds ++ [c])))

/-- MARK: moves nothing. Entries of a reserved kind fail here. -/
def execMark (job : Fin 64) (s : State) : Host.Outcome State Fault Refusal :=
  s.act (fun m => m.pfBegin job.val (fun k => k != 1 && k != 2) (fun x _ e => x.pfPut { e with status := some 0 }))

/-- How an entry stands: a STAGE ends with its command, and writes not yet home keep a COPY open. -/
def Mach.pfStatus (m : Mach) (e : PfEnt) : Option Nat :=
  let failed := sget 0 e.id m.js.agentFail
  match e.status with
  | some st => if st = 0 then (if sget 0 e.id m.js.outst ≠ 0 then none else some failed) else some st
  | none =>
    if e.kind = 2 ∧ !m.js.cmds.any (fun c => c.id == e.id) then some failed else none

/-- An entry leaves the schedule. -/
def Mach.pfDrop (m : Mach) (ids : List Nat) : Mach :=
  { m with js := { m.js with
    pf := m.js.pf.filter (fun e => !ids.contains e.id)
    agentFail := serase (fun k => ids.contains k) m.js.agentFail } }

/-- PREFETCH_ENTRY_DONE (R173, R174): the oldest entry that has ended well signals; otherwise the first failed one stops
the schedule, and neither it nor any after it signals. -/
def execPrefetchEntryDone (job : Fin 64) (s : State) : Host.Outcome State Fault Refusal :=
  s.act (fun m =>
    let mine := m.pfOf job.val
    match mine with
    | [] => m
    | e :: _ =>
      if m.pfStatus e = some 0 then
        let m1 := m.pfDrop [e.id]
        if bits (wd e.words 0) 20 1 = 1 then m1.signal job.val 192 (bits (wd e.words 0) 12 8) (m.pfValue e 2 % 2 ^ 48) else m1
      else
        match mine.find? (fun x => m.pfStatus x != none && m.pfStatus x != some 0) with
        | none => m
        | some f =>
          let st := (m.pfStatus f).getD 0
          let m1 := m.pfDrop ((mine.filter (fun x => decide (f.id ≤ x.id))).map PfEnt.id)
          let m2 := ((m1.fset (Reg.HB_PF_STATE_ENTRY job.val) f.entry).fset (Reg.HB_PF_STATE_PASS job.val) f.pass).fset
            (Reg.HB_PF_STATE_STATUS job.val) st
          (((m2.fset (Reg.HB_PF_STATE_FAILED job.val) 1).fset (Reg.HB_PF_STATE_RUNNING job.val) 0).logE 0x10 st 20 job.val f.entry).raise 133)

end Sys2Proof.Machine
end

