-- ==== Sys2Proof/Machine/VectorCmd.lean ====
section
/-!
DEFINITION. Commands of the vector engine (R79 to R101): the chain, its checks and its chunks; the program descriptor and
the checks of its instructions; and the engine's counters.
-/

namespace Sys2Proof.Machine

/-! Opcodes (R93) -/

/-- Whether an opcode is in the instruction list. -/
def opKnown (op : Nat) : Bool :=
  (1 ≤ op && op ≤ 0x14) || (0x18 ≤ op && op ≤ 0x1C) || (0x20 ≤ op && op ≤ 0x2B) || op == 0x30 || op == 0x38 || op == 0x39 ||
    (0x40 ≤ op && op ≤ 0x42) || (0x48 ≤ op && op ≤ 0x4C)

/-- Whether an opcode may be a stage of a chain. -/
def opStage (op : Nat) : Bool := opKnown op && op < 0x40

def opReduce (op : Nat) : Bool := op == 0x38 || op == 0x39
def opCompare (op : Nat) : Bool := 0x18 ≤ op && op ≤ 0x1B
def opMem (op : Nat) : Bool := 0x48 ≤ op

/-- Whether an opcode takes a lane format. -/
def opLane (op l : Nat) : Bool :=
  if op ≤ 0x1B ∨ opReduce op then laneF l else if 0x20 ≤ op ∧ op ≤ 0x2B then !laneF l else if op = 0x4C then l != 3 else true

/-- Whether an opcode uses operand a, b or c. -/
def opA (op : Nat) : Bool := op != 0x2B && op != 0x48 && op != 0x4A
def opB (op : Nat) : Bool :=
  (1 ≤ op && op ≤ 6) || op == 0x11 || op == 0x12 || (0x18 ≤ op && op ≤ 0x1A) || op == 0x1C || (0x20 ≤ op && op ≤ 0x2A) ||
    op == 0x42 || (0x4A ≤ op && op ≤ 0x4C)
def opC (op : Nat) : Bool := op == 4 || op == 5 || op == 0x1C || opReduce op

/-- Lane format of a result: a compare writes the integer format of the width (R93). -/
def opResult (op l : Nat) : Nat := if opCompare op then l + 2 else l

/-- An immediate entering a lane: an FP32 or I32 bit pattern (R83, R92). -/
def immLane (l imm : Nat) : Nat :=
  if l = 1 then laneOut 1 (Fmt.fp32.decode imm) else imm % 2 ^ laneW l

/-! The chain descriptor (R83) -/

def Cmd.chIns (c : Cmd) : Nat := bits (wd c.body 0) 8 2 + 1
def Cmd.chOuts (c : Cmd) : Nat := bits (wd c.body 0) 10 2 + 1
def Cmd.chStages (c : Cmd) : Nat := bits (wd c.body 0) 5 3 + 1
def Cmd.chIn (c : Cmd) (i : Nat) : Stream := c.stream (2 + 3 * i) (bits (wd c.body (2 + 3 * i)) 60 4)
def Cmd.chOut (c : Cmd) (o : Nat) : Stream := c.stream (14 + 3 * o) (bits (wd c.body (14 + 3 * o)) 60 4)
def Cmd.chFrom (c : Cmd) (o : Nat) : Nat := bits (wd c.body (15 + 3 * o)) 56 4
def Cmd.chRnd (c : Cmd) (o : Nat) : Nat := bits (wd c.body (15 + 3 * o)) 60 2
def Cmd.chSat (c : Cmd) (o : Nat) : Bool := bits (wd c.body (15 + 3 * o)) 62 1 == 1
def Cmd.chOp (c : Cmd) (s : Nat) : Nat := bits (wd c.body (26 + s)) 0 8
def Cmd.chLane (c : Cmd) (s : Nat) : Nat := bits (wd c.body (26 + s)) 8 2
/-- Selector of operand 0, 1 or 2 of a stage. -/
def Cmd.chSel (c : Cmd) (s k : Nat) : Nat := bits (wd c.body (26 + s)) (10 + 4 * k) 4
def Cmd.chImm (c : Cmd) (s : Nat) : Nat := bits (wd c.body (26 + s)) 32 32
def Cmd.chInStreams (c : Cmd) : List Stream := (List.range c.chIns).map c.chIn
def Cmd.chOutStreams (c : Cmd) : List Stream := (List.range c.chOuts).map c.chOut
/-- Whether the last stage reduces. -/
def Cmd.chReduces (c : Cmd) : Bool := opReduce (c.chOp (c.chStages - 1))
/-- Whether an output takes the reduction. -/
def Cmd.chRedOut (c : Cmd) (o : Nat) : Bool := c.chReduces && c.chFrom o == c.chStages + 3

/-- Lane format an operand of a stage enters: the stage's own, the integer format of its width for operand a of VSEL
(R93), and for VCVT the source's own: FP32 or I32 for an input, which hold it exactly, and FP32 for IMM (DEDUCED). DEDUCED: log entry 25. -/
def Cmd.chOperandLane (c : Cmd) (s k : Nat) : Nat :=
  let op := c.chOp s
  let sel := c.chSel s k
  if op = 0x30 then
    if sel < 4 then (if isIntFmt (c.chIn sel).fmt then 2 else 0)
    else if 4 ≤ sel ∧ sel < 12 then opResult (c.chOp (sel - 4)) (c.chLane (sel - 4))
    else 0
  else if op = 0x1C ∧ k = 0 then c.chLane s % 2 + 2
  else c.chLane s

/-- Bits of each word of a chain that are listed and used (R9, R83). -/
def Cmd.chUsed (c : Cmd) (i : Nat) : List (Nat × Nat) :=
  let anySr := (List.range c.chOuts).any (fun o => c.chRnd o == 2)
  let str := fun (n base : Nat) (st : Nat → Stream) (out : Bool) =>
    let q := (i - base) / 3
    let r := (i - base) % 3
    if n ≤ q then []
    else if r = 0 then [(0, 64)]
    else if r = 1 then [(0, 56)] ++ (if out then [(56, 7)] else [])
    else (if isMx (st q).fmt then [(0, 59)] else [])
  if i = 0 then [(0, 12)]
  else if i = 1 then [(0, 64)]
  else if i < 14 then str c.chIns 2 c.chIn false
  else if i < 26 then str c.chOuts 14 c.chOut true
  else if i < 34 then
    let s := i - 26
    if c.chStages ≤ s then []
    else [(0, 22)] ++ (if c.chOp s = 0x30 then [(22, 3)] else []) ++
      (if c.chOp s = 0x2B ∨ (List.range 3).any (fun k => c.chSel s k == 0xC) then [(32, 32)] else [])
  else if i = 34 then (if anySr then [(0, 32)] else [])
  else [(60, 4)] ++ (if anySr then [(0, 48)] else [])

/-- Whether operand `k` of a stage keeps R85 and R86. -/
def Cmd.chOperandOk (c : Cmd) (s k : Nat) : Bool :=
  let op := c.chOp s
  let sel := c.chSel s k
  let used := if k = 0 then opA op else if k = 1 then opB op else opC op && !opReduce op
  if !used then sel == 15
  else if sel < 4 then decide (sel < c.chIns) && (op == 0x30 || isIntFmt (c.chIn sel).fmt == !laneF (c.chOperandLane s k))
  else if sel < 12 then
    let t := sel - 4
    decide (t < s) && !opReduce (c.chOp t) && (op == 0x30 || opResult (c.chOp t) (c.chLane t) == c.chOperandLane s k)
  else sel == 12

/-- Whether an output keeps R85, R86, R88 and R89. -/
def Cmd.chOutOk (c : Cmd) (o : Nat) : Bool :=
  let st := c.chOut o
  let sel := c.chFrom o
  let ints := if sel < 4 then isIntFmt (c.chIn sel).fmt else !laneF (opResult (c.chOp (sel - 4)) (c.chLane (sel - 4)))
  (if sel < 4 then decide (sel < c.chIns) else decide (sel < 12) && decide (sel - 4 < c.chStages)) &&
    (isIntFmt st.fmt == ints) && (st.bc0 == c.chRedOut o) && (c.chRnd o != 2 || !isIntFmt st.fmt)

/-- The checks of a chain descriptor (R97). DEDUCED: log entry 21. -/
def chainCheck (m : Mach) (c : Cmd) : Option Nat :=
  match m.job? c.job with
  | none => none
  | some j =>
    let e := c.extents
    let streams := c.chInStreams ++ c.chOutStreams
    let stages := List.range c.chStages
    let outs := List.range c.chOuts
    if bits (wd c.body 35) 60 4 ≠ 1 then some 0x0202
    else if streams.any (fun s => fmtReserved s.fmt || s.src == 3 || (isMx s.fmt && s.scsrc == 3)) ||
        stages.any (fun s => !opStage (c.chOp s) || (List.range 3).any (fun k => c.chSel s k == 13 || c.chSel s k == 14) ||
          bits (wd c.body (26 + s)) 22 2 == 3) ||
        outs.any (fun o => c.chRnd o == 3 || c.chFrom o == 13 || c.chFrom o == 14) then some 0x0203
    else if (List.range 36).any (fun i => reservedSet (wd c.body i) (c.chUsed i)) then some 0x0201
    else if stages.any (fun s => !opLane (c.chOp s) (c.chLane s) || (opReduce (c.chOp s) && s + 1 != c.chStages) ||
          (c.chOp s == 0x30 && bits (wd c.body (26 + s)) 22 2 == 2) || !(List.range 3).all (fun k => c.chOperandOk s k)) ||
        outs.any (fun o => !c.chOutOk o) then some 0x0205
    else if e.1 = 0 || e.2.1 = 0 || e.2.2 = 0 || streams.any (fun s => !s.mxOk) then some 0x0204
    else if streams.any (fun s => !s.aligned || !(s.ranges e.1 e.2.1 e.2.2).all (fun r => r.legal j)) then some 0x0206
    else if streamsMeet c.chInStreams c.chOutStreams e.1 e.2.1 e.2.2 then some 0x0207
    else none

/-! Chunks (R87, R88) -/

/-- Chunks of a row. -/
def Cmd.chPerRow (c : Cmd) : Nat := ceilDiv c.extents.1 4096

/-- First element, elements, and row of chunk `p`. -/
def Cmd.chunkAt (c : Cmd) (p : Nat) : Nat × Nat × Nat × Nat :=
  let e := c.extents
  let d0 := p % c.chPerRow * 4096
  let row := p / c.chPerRow
  (d0, min 4096 (e.1 - d0), row % e.2.1, row / e.2.1)

/-- The value of an operand of a stage at one element, in the lane it enters; `ins` are the inputs' elements there and
`res` the results of the stages before it. -/
def Cmd.chOperand (c : Cmd) (s k : Nat) (ins : List RdEl) (res : List Nat) : Nat :=
  let sel := c.chSel s k
  let l := c.chOperandLane s k
  if sel < 4 then
    let e := ins.getD sel ⟨.fin false 0 0, 0⟩
    toLane l (c.chIn sel).fmt e.v e.raw
  else if sel < 12 then res.getD (sel - 4) 0
  else if sel = 12 then immLane l (c.chImm s)
  else 0

/-- The result of a stage at one element; a reduction stage passes its operand on to be reduced. -/
def Cmd.chStage (c : Cmd) (s d0 : Nat) (ins : List RdEl) (res : List Nat) : Nat :=
  let op := c.chOp s
  let l := c.chLane s
  let a := c.chOperand s 0 ins res
  if op = 0x2B then wrap (laneW l) ((c.chImm s : Int) + d0)
  else if op = 0x30 then
    laneCvt (c.chOperandLane s 0) l (rndOf (bits (wd c.body (26 + s)) 22 2) 0 0 0) (bits (wd c.body (26 + s)) 24 1 == 1) a
  else if opReduce op then a
  else laneOp op l a (c.chOperand s 1 ins res) (c.chOperand s 2 ins res)

/-- The results of every stage at one element, in stage order. -/
def Cmd.chElement (c : Cmd) (d0 : Nat) (ins : List RdEl) : List Nat :=
  (List.range c.chStages).foldl (fun res s => res ++ [c.chStage s d0 ins res]) []

/-- The value an output writes at one element. -/
def Cmd.chOutEl (c : Cmd) (j : Job) (o d0 d1 d2 : Nat) (ins : List RdEl) (res : List Nat) : WrEl :=
  let sel := c.chFrom o
  let rnd := rndOf (c.chRnd o) j.seed (bits (wd c.body 34) 0 32)
    (if c.chRedOut o then bits (wd c.body 35) 0 48 + d2 * c.extents.2.1 + d1
     else c.srIndex (bits (wd c.body 35) 0 48) d0 d1 d2)
  if sel < 4 then
    let e := ins.getD sel ⟨.fin false 0 0, 0⟩
    ⟨e.v, if isIntFmt (c.chIn sel).fmt then intElem (c.chIn sel).fmt e.raw else 0, rnd⟩
  else
    let l := opResult (c.chOp (sel - 4)) (c.chLane (sel - 4))
    let v := res.getD (sel - 4) 0
    ⟨laneVal l v, sext (laneW l) v, rnd⟩

/-- Reads of a chunk: each input's elements, joined element by element. -/
def Mach.chReads (m : Mach) (j : Job) (c : Cmd) (d0 n d1 d2 : Nat) : Mach × Except XStop (List (List RdEl)) :=
  let r := m.readAll (fun a i => a.streamRow j c (c.chIn i) d0 n d1 d2) (List.range c.chIns)
  (r.1, match r.2 with
    | .ok rows => .ok ((List.range n).map (fun e => rows.map (fun row => row.getD e ⟨.fin false 0 0, 0⟩)))
    | .error x => .error x)

/-- The writes of a chunk, its counted elements, and the accumulator of a reduction after it. -/
def Mach.chCompute (m : Mach) (j : Job) (c : Cmd) (d0 n d1 d2 : Nat) (els : List (List RdEl)) :
    Mach × Except XStop (List WItem × Nat × Nat) :=
  let res := els.mapIdx (fun i ins => c.chElement (d0 + i) ins)
  let last := c.chStages - 1
  let isMax := c.chOp last == 0x39
  let l := c.chLane last
  let start := if d0 = 0 then laneStart isMax l else sget 0 0 c.run
  let acc := if c.chReduces then reduceLanes isMax l 17 start (res.map (fun r => r.getD last 0)) else 0
  let ends := decide (d0 + n = c.extents.1)
  let outs := m.readAll (fun a o =>
    let st := c.chOut o
    if c.chRedOut o then
      if ends then a.streamPut j c st (c.chSat o) 0 d1 d2 [c.chOutEl j o 0 d1 d2 [] (List.replicate last 0 ++ [acc])]
      else (a, .ok ([], 0))
    else
      a.streamPut j c st (c.chSat o) d0 d1 d2
        ((els.zip res).mapIdx (fun i p => c.chOutEl j o (d0 + i) d1 d2 p.1 p.2))) (List.range c.chOuts)
  (outs.1, match outs.2 with
    | .ok ws => .ok (ws.flatMap Prod.fst, ws.foldl (fun a w => a + w.2) 0, acc)
    | .error x => .error x)

/-- Writes saved with a switched-out chunk, a byte each (R99), and back. -/
def saveItems (ws : List WItem) : List (Nat × Nat × Nat) :=
  ws.flatMap (fun w => w.data.mapIdx (fun i b => (w.src, w.addr + i, b.toNat)))

def loadItems (saved : List (Nat × Nat × Nat)) : List WItem :=
  saved.map (fun p => ⟨p.1, p.2.1, [BitVec.ofNat 8 p.2.2]⟩)

/-- Make the writes of a computed chunk, which are saved in the command, and pass to the next chunk (R99). -/
def Mach.chWrite (m : Mach) (j : Job) (c : Cmd) : Mach :=
  let w := (m.putCmd c).putItems j c (loadItems c.saved)
  match w.1.cmdOf c.id with
  | none => w.1
  | some c1 =>
    match w.2 with
    | .error x => w.1.stopCmd c1 x
    | .ok _ =>
      let c2 := { c1 with
        saved := []
        prog := c.prog + 1
        run := sset 0 1 0 c1.run }
      let c3 := if c2.prog = c2.chPerRow * c2.extents.2.1 * c2.extents.2.2 then { c2 with status := some (c2.status.getD 0) } else c2
      (w.1.putCmd c3).fset (Reg.RF_VX_STATE_CHUNK (c.tgt / 48) (c.tgt % 48)) (c2.prog % c2.chPerRow)

/-- One chunk of a running chain (R87): reads, stages, counts, then writes. -/
def Mach.chunk (m : Mach) (c : Cmd) : Mach :=
  match m.job? c.job with
  | none => m
  | some j =>
    if bits (wd c.body 0) 0 2 ≠ 0 ∨ c.fault ≠ none ∨ c.status ≠ none then m
    else if sget 0 1 c.run = 1 then m.chWrite j c
    else
      let t := c.chunkAt c.prog
      let r := m.chReads j c t.1 t.2.1 t.2.2.1 t.2.2.2
      match r.2 with
      | .error x => r.1.stopCmd c x
      | .ok els =>
        let w := r.1.chCompute j c t.1 t.2.1 t.2.2.1 t.2.2.2 els
        match w.2 with
        | .error x => w.1.stopCmd c x
        | .ok (items, counted, acc) =>
          let k := w.1.countFor c 2 counted
          let m1 := k.1.fadd (Reg.RF_VX_LANEOPS_COUNT (c.tgt / 48) (c.tgt % 48)) (t.2.1 * c.chStages)
          m1.chWrite j { k.2 with
            saved := saveItems (mergeItems items)
            run := sset 0 1 1 (sset 0 0 acc c.run) }

/-- The registers of a switched-out program go to its job's switch-out area, 256 KiB a core (R106, R137). -/
def Mach.saveRegs (m : Mach) (c : Cmd) : Mach :=
  match m.job? c.job with
  | none => m
  | some j =>
    (m.hubWrite (j.switchBase + c.tgt * 2 ^ 18) ((List.range 131072).map (fun i => sget 0 i c.vregs))).putCmd { c with stored := true }

/-- A command of another job needs the vector engine: the programs switched out there save their registers (R137). -/
def Mach.saveOthers (m : Mach) (c : Cmd) : Mach :=
  (m.js.cmds.filter (fun k => k.tgt == c.tgt && k.eng == 3 && k.job != c.job && k.phase == .switched && !k.stored &&
    bits (wd k.body 0) 0 2 == 1)).foldl Mach.saveRegs m

/-- A vector command begins (R82, R101). -/
def Mach.vxBegin (m0 : Mach) (c : Cmd) : Mach :=
  let d := c.tgt / 48
  let k := c.tgt % 48
  let m := m0.saveOthers c
  let m1 := ((m.run c).fset (Reg.RF_VX_STATE_BUSY d k) 1).fset (Reg.RF_VX_STATE_JOB d k) c.job
  let m2 := (m1.fset (Reg.RF_VX_STATE_KIND d k) (bits (wd c.body 0) 0 1)).fset (Reg.RF_VX_STATE_PC d k) 0
  (m2.fset (Reg.RF_VX_STATE_REPEAT d k) 0).fset (Reg.RF_VX_STATE_CHUNK d k) 0

/-- Check of a descriptor with a reserved kind. -/
def vxKind (f : Mach → Cmd → Option Nat) (m : Mach) (c : Cmd) : Option Nat :=
  if 2 ≤ bits (wd c.body 0) 0 2 then some 0x0203 else f m c

/-- CHAIN (R83). A reserved KIND at the vector engine's head is met here too. -/
def execChain (c : CoreId) (s : State) : Host.Outcome State Fault Refusal :=
  s.act (fun m => m.atHead c.flat 3 (fun k => bits (wd k.body 0) 0 2 != 1) (vxKind chainCheck) false (fun a k => a.vxBegin k))

/-- CHAIN_CHUNK (R87). -/
def execChainChunk (c : CoreId) (s : State) : Host.Outcome State Fault Refusal :=
  s.act (fun m =>
    match m.running c.flat 3 with
    | some k => m.chunk k
    | none => m)

/-! The program descriptor (R91) -/

def Cmd.pgCount (c : Cmd) : Nat := bits (wd c.body 0) 5 8 + 1
def Cmd.pgRepeats (c : Cmd) : Nat := bits (wd c.body 0) 13 20 + 1
def Cmd.pgBlock (c : Cmd) : Nat := bits (wd c.body 1) 0 22
def Cmd.pgSlotSrc (c : Cmd) (i : Nat) : Nat := bits (wd c.body (2 + i)) 57 2
/-- Address of a slot in repeat `r`. -/
def Cmd.pgSlot (c : Cmd) (i r : Nat) : Int :=
  (bits (wd c.body (2 + i)) 0 57 : Int) + (r : Int) * sext 32 (bits (wd c.body (10 + i / 2)) (32 * (i % 2)) 32)

/-- Elements a group holds and registers it takes (R80). -/
def groupRegs (l count : Nat) : Nat :=
  let per := 32768 / laneW l
  if count ≤ per then 1 else if count ≤ 2 * per then 2 else 4

/-- Whether a group is aligned and ends by V31. -/
def groupOk (l count r : Nat) : Bool := r % groupRegs l count == 0 && decide (r + groupRegs l count ≤ 32)

def viCount (i : VInst) : Nat := i.cntm1.toNat + 1
def viLane (i : VInst) : Nat := i.fmt.toNat
/-- Row width of a gather, a scatter or a scatter-add. -/
def viWidth (i : VInst) : Nat := i.imm.toNat % 65536

/-- Whether a field the opcode does not use holds a value (R92). -/
def vUnused (op : Nat) (i : VInst) : Bool :=
  let sbOk := opB op && op < 0x48
  let wr := op == 0x49 || op == 0x4B
  let rows := 0x4A ≤ op
  (i.vd.toNat != 0 && (op == 0x49 || op == 0x4B || op == 0x4C)) || (i.va.toNat != 0 && !opA op) ||
    (i.vb.toNat != 0 && (!opB op || i.sb == 1)) || (i.vc.toNat != 0 && !opC op) || (i.sb == 1 && !sbOk) ||
    (i.rnd.toNat != 0 && !(op == 0x30 || wr)) || (i.sat == 1 && !(op == 0x30 || wr)) ||
    (i.fmt2.toNat != 0 && !(opMem op || op == 0x30)) || (op == 0x30 && 4 ≤ i.fmt2.toNat) || (i.slot.toNat != 0 && !opMem op) ||
    (i.imm.toNat != 0 && !((sbOk && i.sb == 1) || op == 0x2B || op == 0x41 || opMem op)) ||
    (i.stride.toNat != 0 && !(op == 0x48 || op == 0x49 || rows))

/-- Whether a memory format meets a lane format (R94, R95). A 32-bit memory format meets either kind. -/
def vMemOk (op l code : Nat) : Bool :=
  !isMx code && (memBits code == 32 || isIntFmt code == !laneF l) &&
    (op != 0x4C || code == (if l = 0 then 7 else if l = 1 then 5 else 8))

/-- The checks of one instruction in a program (R97). -/
def instCheck (c : Cmd) (w0 w1 : Word) : Option Nat :=
  if bits w1 60 4 ≠ 1 then some 0x0202
  else
    match decodeVInst w0 w1 with
    | none => some 0x0201
    | some (op, i) =>
      let l := viLane i
      let n := viCount i
      let l2 := if op = 0x30 then i.fmt2.toNat % 4 else l
      if !opKnown op || i.rnd.toNat = 3 || (opMem op && fmtReserved i.fmt2.toNat) then some 0x0203
      else if vUnused op i then some 0x0201
      else if !opLane op l || (opMem op && !vMemOk op l i.fmt2.toNat) || (i.rnd.toNat = 2 && op = 0x30) ||
          (opMem op && c.pgSlotSrc i.slot.toNat = 3) then some 0x0205
      else if (0x4A ≤ op && (viWidth i = 0 || 4096 < viWidth i || n % (viWidth i) ≠ 0)) || (op = 0x41 && n ≤ i.imm.toNat) ||
          (op != 0x49 && op < 0x4B && !groupOk l2 n i.vd.toNat) || (opA op && !groupOk l n i.va.toNat) ||
          (opB op && i.sb != 1 && !(if 0x4A ≤ op then groupOk 2 (n / viWidth i) i.vb.toNat else groupOk l n i.vb.toNat)) ||
          (opC op && !groupOk l n i.vc.toNat) then some 0x0204
      else none

/-- The instruction words a program runs, kept with the command from its decode. -/
def Cmd.pgWords (c : Cmd) (k : Nat) : Word × Word :=
  (BitVec.ofNat 64 (sget 0 (1000 + 2 * k) c.run), BitVec.ofNat 64 (sget 0 (1001 + 2 * k) c.run))

/-- The instruction block, as its words in the core pool. -/
def Mach.pgBlockWords (m : Mach) (j : Job) (c : Cmd) : List Word :=
  leWords (2 * c.pgCount) (m.poolBytes j c.tgt 0 c.pgBlock (16 * c.pgCount))

/-- Whether some instruction of the block rounds stochastically. -/
def Cmd.pgSr (c : Cmd) (ws : List Word) : Bool := (List.range c.pgCount).any (fun k => bits (wd ws (2 * k)) 44 2 == 2)

/-- Bits of each word of a program descriptor that are listed and used. -/
def Cmd.pgUsed (c : Cmd) (sr : Bool) (i : Nat) : List (Nat × Nat) :=
  if i = 0 then [(0, 33)]
  else if i = 1 then [(0, 22)] ++ (if sr then [(32, 32)] else [])
  else if i < 10 then (if c.pgSlotSrc (i - 2) = 3 then [(57, 2)] else [(0, 59)])
  else if i < 14 then
    (if c.pgSlotSrc (2 * i - 20) = 3 then [] else [(0, 32)]) ++ (if c.pgSlotSrc (2 * i - 19) = 3 then [] else [(32, 32)])
  else if i = 14 then (if sr then [(0, 48)] else [])
  else [(60, 4)] ++ (if sr then [(0, 32)] else [])

/-- The checks of a program with all its instructions (R96, R97). -/
def programCheck (m : Mach) (c : Cmd) : Option Nat :=
  match m.job? c.job with
  | none => none
  | some j =>
    if bits (wd c.body 15) 60 4 ≠ 1 then some 0x0202
    else if c.pgBlock % 16 ≠ 0 || !(mkRng 0 c.pgBlock (16 * c.pgCount)).legal j then some 0x0206
    else
      let ws := m.pgBlockWords j c
      if (List.range 16).any (fun i => reservedSet (wd c.body i) (c.pgUsed (c.pgSr ws) i)) then some 0x0201
      else (List.range c.pgCount).findSome? (fun k => instCheck c (wd ws (2 * k)) (wd ws (2 * k + 1)))

/-- A program command with the words of its block, taken as it begins. DEDUCED: log entry 25. -/
def Cmd.withBlock (c : Cmd) (ws : List Word) : Cmd :=
  { c with run := (List.range ws.length).foldl (fun r i => sset 0 (1000 + i) (wd ws i).toNat r) c.run }

/-- PROGRAM (R91): checked at its head with its instructions, then its block is taken and issued. -/
def execProgram (c : CoreId) (s : State) : Host.Outcome State Fault Refusal :=
  s.act (fun m => m.atHead c.flat 3 (fun k => bits (wd k.body 0) 0 2 == 1) programCheck false (fun a k =>
    match a.job? k.job with
    | none => a
    | some j => a.vxBegin (k.withBlock (a.pgBlockWords j k))))

/-! Counters (R100, R101) -/

/-- CNT_CLR of RF_VX_CTRL. -/
def execVxCntClr (a : Agent) (c : CoreId) (s : State) : Host.Outcome State Fault Refusal :=
  s.act (fun m0 => m0.byAgent a (Reg.RF_VX_CTRL c.die.val c.core.val) (fun m =>
    let d := c.die.val
    let k := c.core.val
    [Reg.RF_VX_CYC_BUSY d k, Reg.RF_VX_CYC_WAIT d k, Reg.RF_VX_LANEOPS d k, Reg.RF_VX_CMDS d k].foldl (fun a r => a.rset r 0) m))

/-- NF_CLR of RF_VX_CTRL: RF_NF_SRC stands. -/
def execNfClr (a : Agent) (c : CoreId) (s : State) : Host.Outcome State Fault Refusal :=
  s.act (fun m0 => m0.byAgent a (Reg.RF_VX_CTRL c.die.val c.core.val) (fun m =>
    let d := c.die.val
    let k := c.core.val
    [Reg.RF_NF_GRAD d k, Reg.RF_NF_LOSS d k, Reg.RF_NF_MON d k, Reg.RF_NF_LAST d k].foldl (fun a r => a.rset r 0) m))

end Sys2Proof.Machine
end

