-- ==== Sys2Proof/Machine/Registers.lean ====
section
/-!
DEFINITION. Register writes (R7, R8, R15, R258, R457, R458) and the accesses that reach nothing (R18, R19). A write to a register
whose writes are rows of their own does what that row does, where it sets a value and where it triggers a command.
-/

namespace Sys2Proof.Machine

/-! The written value (R7, R8, R458) -/

/-- Whether an access has a width and alignment that R7 performs. -/
def accessOk (addr size : Nat) : Bool := (size == 8 && addr % 8 == 0) || (size == 4 && addr % 4 == 0)

/-- A write to one register: its address, the value in place, and the bits written. -/
structure RegWrite where
  reg : Nat
  val : Word
  mask : Word

/-- The write that an access makes. -/
def regWriteOf (addr size : Nat) (v : Word) : RegWrite :=
  if size = 8 then ⟨addr, v, BitVec.allOnes 64⟩
  else
    let sh := addr % 8 * 8
    ⟨addr / 8 * 8, BitVec.ofNat 64 (v.toNat % 2 ^ 32 * 2 ^ sh), BitVec.ofNat 64 ((2 ^ 32 - 1) * 2 ^ sh)⟩

/-- Bits of a register with an access code. -/
def accMask (d : RegDef) (acc : Acc) : Word :=
  BitVec.ofNat 64 ((d.fields.filter (fun f => f.acc == acc)).foldl (fun v f => v + (2 ^ f.w - 1) * 2 ^ f.lo) 0)

/-- Replace the bits of a mask. -/
def mix (old new mask : Word) : Word := (old &&& ~~~mask) ||| (new &&& mask)

/-- What a write leaves of a register by its fields' access codes (R8); RWL fields follow it until Lighthouse has locked them. -/
def Mach.written (m : Mach) (d : RegDef) (w : RegWrite) : Word :=
  let old := m.rget w.reg
  let rw := accMask d .rw ||| (if m.lh.booted then 0 else accMask d .rwl)
  mix old w.val (w.mask &&& rw) &&& ~~~(w.val &&& w.mask &&& accMask d .w1c)

/-- Place of an address among `n` registers a stride apart. -/
def idxOf (base stride n a : Nat) : Option Nat :=
  if base ≤ a ∧ (a - base) % stride = 0 ∧ (a - base) / stride < n then some ((a - base) / stride) else none

/-- Registers that only the owner writes (R258, R283, R340, R366, R387, R421, R431, R456). -/
def ownerOnly (r : Nat) : Bool :=
  let within := fun (lo hi : Nat) => decide (lo ≤ r) && decide (r ≤ hi)
  r == Reg.HB_JOB_CMD || r == Reg.HB_JOB_ARG || within Reg.HB_TLBI_CMD Reg.HB_TLBI_STATUS || within Reg.HB_FR_BASE Reg.HB_FLT_RESOLVE ||
    within Reg.HB_MP_BASE Reg.HB_MP_HEAD || within Reg.HB_EV_VA Reg.HB_EV_STATUS || r == Reg.HB_DIE_CMD ||
    within (Reg.HB_PF_BASE 0) (Reg.HB_PF_STATE 63) || r == Reg.SK_KEY_CMD || within Reg.SG_WQ_BASE Reg.SG_CTRL ||
    r == Reg.BW_CTRL || r == Reg.BW_RATE || within (Reg.BW_WIN_BASE 4) (Reg.BW_WIN_LIM 15) ||
    within (Reg.HL_IRQ_ROUTE 0) (Reg.HL_IRQ_ROUTE 191) || r == Reg.LW_ROUTE || within (Reg.LW_MKEY 0) (Reg.LW_MKEY 15) ||
    within Reg.SW_SELF Reg.SW_LANE_CMD || r == Reg.HB_FW_CMD || within Reg.HB_TM_AREA Reg.HB_TM_RST_STATUS || r == Reg.PW_MODE ||
    within Reg.LH_UPD_ARG Reg.LH_UPD_STATUS || r == Reg.LH_SVN_CMD || r == Reg.LH_LIFE_CMD || r == Reg.LH_FRONT_CMD

/-! Reserved codes (R457) -/

/-- Command registers with a code field: register, the field's lowest bit, the codes it has, where the outcome shows, and BUSY. -/
def codeFields : List (Nat × Nat × List Nat × Fld × Fld) := [
  (Reg.HB_JOB_CMD, 0, [1, 2], Reg.HB_JOB_STATUS_STATUS, Reg.HB_JOB_STATUS_BUSY),
  (Reg.HB_FW_CMD, 0, [1, 2], Reg.HB_FW_STATUS_STATUS, Reg.HB_FW_STATUS_BUSY),
  (Reg.HB_TM_RST_CMD, 6, [1, 2], Reg.HB_TM_RST_STATUS_STATUS, Reg.HB_TM_RST_STATUS_BUSY),
  (Reg.SW_CTX_CMD, 0, [1, 2], Reg.SW_CTX_STATUS_STATUS, Reg.SW_CTX_STATUS_BUSY),
  (Reg.SW_LANE_CMD, 6, [1, 2], Reg.SW_LANE_STATUS_STATUS, Reg.SW_LANE_STATUS_BUSY),
  (Reg.SK_KEY_CMD, 0, [1, 2], Reg.SK_KEY_STATUS_STATUS, Reg.SK_KEY_STATUS_BUSY),
  (Reg.LH_ATT_CMD, 0, [1, 2], Reg.LH_ATT_STATUS_STATUS, Reg.LH_ATT_STATUS_BUSY),
  (Reg.LH_UPD_CMD, 0, [1, 2, 3], Reg.LH_UPD_STATUS_STATUS, Reg.LH_UPD_STATUS_BUSY),
  (Reg.LH_FRONT_CMD, 0, [1, 2, 3], Reg.LH_FRONT_STATE_STATUS, Reg.LH_FRONT_STATE_BUSY)]

/-- A reserved code performs nothing, and the command's STATUS reads 0x0203; a register whose command runs ignores it. LH_LIFE_CMD
and HB_DIE_CMD give outcomes of their own (R400, R241). DEDUCED: log entry 58. -/
def Mach.reservedCode (m : Mach) (w : RegWrite) : Mach :=
  if w.reg = Reg.LH_LIFE_CMD then
    (if (bits w.val 0 2 = 0 ∨ bits w.val 0 2 = 3) ∧ !m.flag Reg.LH_UPD_STATUS_BUSY then m.updEnd 0x0605 0 else m)
  else if w.reg = Reg.HB_DIE_CMD then
    (if 3 < bits w.val 0 3 then m.logE 0x01 0 0 noJob w.reg
     else if bits w.val 3 2 = 0 ∨ bits w.val 3 2 = 3 then m.fset (Reg.HB_DIE_STATE_STATUS (bits w.val 0 3)) 0x0203
     else m)
  else
    match codeFields.find? (fun c => c.1 == w.reg) with
    | some (_, lo, codes, st, busy) => if codes.contains (bits w.val lo 2) ∨ m.flag busy then m else m.fset st 0x0203
    | none => m

/-- What else follows a write: records that waited for ring space, the room of the Tidemark area, and a wake from Slack by a write
to PW_MODE that requests nothing (R167, R380, R433). -/
def Mach.afterWrite (m : Mach) (w : RegWrite) : Mach :=
  if w.reg = Reg.SG_CQ_HEAD ∨ w.reg = Reg.SG_CQ_BASE then m.sgDrain m.sg.held
  else if w.reg = Reg.HB_TM_AREA_LEN then m.setArea m.tm.area
  else if w.reg = Reg.PW_MODE ∧ bits w.val 6 1 = 0 then m.slackWake (m.fget Reg.PW_MODE_PREV)
  else m

/-- A write that no rule turns away. DEDUCED: log entry 58. -/
def Mach.plainWrite (m : Mach) (d : RegDef) (w : RegWrite) : Mach :=
  let m1 := if m.lh.booted ∧ (w.mask &&& accMask d .rwl) ≠ 0 then m.logE 0x01 0 0 noJob w.reg else m
  ((m1.rset w.reg (m1.written d w)).reservedCode w).afterWrite w

/-- Whether a register of a live context's doorbell page takes writes: those of a ring whose EN is 0 take none (R462). -/
def Mach.ringOpen (m : Mach) (jn r : Nat) : Bool :=
  let o := r - Reg.HB_DB_SQ_TAIL jn 0
  match m.job? jn with
  | some j => decide (0x80 ≤ o) || j.ringEn (o / 8 % 8)
  | none => false

/-- Who may write: the owner's registers, and those that accept writes only through their own landward port (R258, R282); the
doorbell page of a context that is not live takes none (R462); BW_ registers without the partner site take none (R232). -/
def Mach.mayWrite (m : Mach) (a : Agent) (d : RegDef) (w : RegWrite) : Mach :=
  let viaPort := fun (p : Nat) => decide (a.ownerCode = 2 + p)
  let page := (w.reg - Reg.HB_DB_SQ_TAIL 0 0) / 0x10000
  if Reg.BW_ID < w.reg ∧ w.reg < Reg.HL_ID ∧ !m.flag Reg.BW_ID_FITTED then m
  else if (w.reg = Reg.LW_FLINE 0 ∧ !viaPort 0) ∨ (w.reg = Reg.LW_FLINE 1 ∧ !viaPort 1) then m.logE 0x01 0 0 noJob w.reg
  else if Reg.HB_DB_SQ_TAIL 0 0 ≤ w.reg ∧ page < 64 ∧ (!m.live page || !m.ringOpen page w.reg) then m.doorbellIgnored page w.reg
  else if ownerOnly w.reg then m.owned a w.reg (fun x => x.plainWrite d w)
  else m.plainWrite d w

/-- Registers whose value a row of its own takes: what that row does with the value written. -/
def Mach.rowFor (m : Mach) (a : Agent) (w : RegWrite) : Option (State → Host.Outcome State Fault Refusal) :=
  let v := mix (m.rget w.reg) w.val w.mask
  let low := fun (f : State → Host.Outcome State Fault Refusal) => if w.mask.getLsbD 0 then some f else none
  let r := w.reg
  let t : BitVec 32 := v.setWidth 32
  if r = Reg.HB_FR_HEAD then low (execFrHeadWrite a t)
  else if r = Reg.HB_FR_BASE then some (execFrBaseWrite a v)
  else if r = Reg.HB_MP_TAIL then low (execMpTailWrite a t)
  else if r = Reg.SG_WQ_TAIL then low (execShingleDoorbell a t)
  else if r = Reg.LW_ROUTE then low (execRouteChange a (v.setWidth 2))
  else if r = Reg.HB_FW_IFACE then low (execInterfaceSelect a ((v >>> 8).setWidth 4))
  else if r = Reg.SW_SELF ∧ v.getLsbD 25 then low (execMembershipLoad a (v.setWidth 12) ((v >>> 12).setWidth 13))
  else if r = Reg.TD_SCHED_CFG ∧ v.getLsbD 11 then low (execScheduleLoad a (v.setWidth 11))
  else
    match idxOf (Reg.SW_ETH_TX 0) 0x40 2 r, idxOf (Reg.BW_WIN_BASE 4) 8 24 r with
    | some e, _ => low (execEthTxDoorbell a (Fin.ofNat 2 e) t)
    | none, some k => some (execBwWindowWrite a (Fin.ofNat 16 (4 + k / 2)) (decide (k % 2 = 1)) v)
    | none, none =>
      if r < Reg.HB_DB_SQ_TAIL 0 0 then none
      else
        let jn := Fin.ofNat 64 ((r - Reg.HB_DB_SQ_TAIL 0 0) / 0x10000)
        let o := (r - Reg.HB_DB_SQ_TAIL 0 0) % 0x10000
        if o < 0x40 then low (execSqDoorbell a jn (Fin.ofNat 8 (o / 8)) t)
        else if o = 0x80 then low (execCqHeadWrite a jn t)
        else if o = 0x90 then low (execEqHeadWrite a jn t)
        else none

/-- Meanings one after the other. -/
def runAll : List (State → Host.Outcome State Fault Refusal) → State → Host.Outcome State Fault Refusal
  | [], s => .next s
  | f :: rest, s =>
    match f s with
    | .next t => runAll rest t
    | .fault e => .fault e
    | .refused e => .refused e

/-- Meanings whose bit of the written value is set, from the lowest bit up. DEDUCED: log entry 58. -/
def bitCmds (v : Word) (cmds : List (Nat × (State → Host.Outcome State Fault Refusal))) :
    List (State → Host.Outcome State Fault Refusal) :=
  (cmds.filter (fun c => v.getLsbD c.1)).map (fun c => c.2)

/-- RETRAIN, whose outcome the link decides: free values. DESIGN CHOICE: log entry 8. -/
def retrainFree (a : Agent) (s : State) : Host.Outcome State Fault Refusal :=
  let k := s.m.fresh
  execRetrain a (Config.openBit 3 k.1) ((Config.openWord 3 k.1).setWidth 7) { s with m := k.2 }

/-- TRANSFER written to its register: the record stands at LH_UPD_ARG (R403). DESIGN CHOICE: log entry 54. -/
def transferAt (a : Agent) (again : Instr) (s : State) : Host.Outcome State Fault Refusal :=
  if s.m.down then .next s
  else
    match s.m.hubRead 25 (s.m.fget Reg.LH_UPD_ARG_ADDR) (104 + sigLen) with
    | (m1, none) => .next { s with m := m1.anew again }
    | (m1, some d) =>
      if d.2 then State.act { s with m := m1 } (fun m => m.updCmd a Reg.LH_LIFE_CMD (fun x => x.updEnd 0x0304 0))
      else execTransfer a d.1 { s with m := m1 }

/-- The commands that a write to a register of one block for the whole module triggers (R458), by the value with the half not written
zero; none for a reserved code. -/
def blockTriggers (a : Agent) (again : Instr) (r : Nat) (v : Word) : List (State → Host.Outcome State Fault Refusal) :=
  let op := fun (lo : Nat) (one two three : List (State → Host.Outcome State Fault Refusal)) =>
    if bits v lo 2 = 1 then one else if bits v lo 2 = 2 then two else if bits v lo 2 = 3 then three else []
  let jn := Fin.ofNat 64
  if r = Reg.HB_JOB_CMD then op 0 [execCreate a (jn (bits v 2 6))] [execDestroy a (jn (bits v 2 6))] []
  else if r = Reg.HB_TLBI_CMD then bitCmds v [(18, execTlbi a (v.setWidth 16) (v.getLsbD 16) (v.getLsbD 17))]
  else if r = Reg.HB_FLT_RESOLVE then [execHbFltResolve a (v.setWidth 8) ((v >>> 16).setWidth 16)]
  else if r = Reg.HB_EV_CMD then bitCmds v [(17, execEvict a (v.setWidth 16) (v.getLsbD 16))]
  else if r = Reg.HB_DIE_CMD then
    (if 3 < bits v 0 3 then [] else op 3 [execHbDieFence a (Fin.ofNat 4 (bits v 0 3))] [execReadmit a (Fin.ofNat 4 (bits v 0 3))] [])
  else if r = Reg.HB_FW_CMD then
    op 0 [execFirmwareLoad a ((v >>> 2).setWidth 3) (v.getLsbD 5)] [execReload a ((v >>> 2).setWidth 3) (v.getLsbD 5)] []
  else if r = Reg.HB_TM_RST_CMD then op 6 [execRestore a (jn (bits v 0 6))] [execTidemarkRelease a (jn (bits v 0 6))] []
  else if r = Reg.BW_CTRL then bitCmds v [(0, retrainFree a)]
  else if r = Reg.HL_HART_START then [execHartStart a v]
  else if r = Reg.HL_DRV_OWNER then bitCmds v [(2, execClaim [a]), (3, execRelease a)]
  else if r = Reg.LW_ARM 0 then [execEpochArm a 0 (v.setWidth 32)]
  else if r = Reg.LW_ARM 1 then [execEpochArm a 1 (v.setWidth 32)]
  else if r = Reg.SW_CTX_CMD then op 0 [execOpenCtx a] [execCloseCtx a ((v >>> 2).setWidth 14)] []
  else if r = Reg.SW_LANE_CMD then op 6 [execLaneRetire a (jn (bits v 0 6))] [execLaneRestore a (jn (bits v 0 6))] []
  else if r = Reg.TD_SNAP then bitCmds v [(0, execSnap a)]
  else if r = Reg.TD_CTRL then bitCmds v [(0, execRejoin a)]
  else if r = Reg.SK_KEY_CMD then op 0 [execGenerate a (jn (bits v 2 6))] [execErase a (jn (bits v 2 6))] []
  else if r = Reg.SG_CTRL then bitCmds v [(0, execQreset a), (1, execSanitize a)]
  else if r = Reg.LH_LIFE_CMD then op 0 [execLifecycleRetire a ((v >>> 32).setWidth 32)] [transferAt a again] []
  else if r = Reg.LH_ATT_CMD then op 0 [execReport a] [execIdcert a] []
  else if r = Reg.LH_SVN_CMD then [execSvnCommit a (v.setWidth 3)]
  else if r = Reg.LH_UPD_CMD then
    op 0 [execUpdateStage a ((v >>> 2).setWidth 2)] [execUpdateConfirm a ((v >>> 2).setWidth 2)] [execUpdateCancel a ((v >>> 2).setWidth 2)]
  else if r = Reg.LH_LOG_CMD then [execLogCopy a (v.setWidth 40) ((v >>> 40).setWidth 17)]
  else if r = Reg.LH_FRONT_CMD then op 0 [execQuiesceBay a (Fin.ofNat 4 (bits v 2 2))] [execFrontCancel a] [execRemoveAck a]
  else if r = Reg.PW_MODE then bitCmds v [(6, execModeRequest a ((v >>> 4).setWidth 2))]
  else []

/-- The core whose block a register of a Reef die lies in. -/
def coreOf (r : Nat) : CoreId :=
  let o := r - 0xF00000000000
  ⟨Fin.ofNat 4 (o / 0x4000000), Fin.ofNat 48 (o % 0x4000000 / 0x100000 - 16)⟩

/-- The commands that a write to a register of a job, of a ring or of a core triggers (R458). -/
def unitTriggers (a : Agent) (r : Nat) (v : Word) : List (State → Host.Outcome State Fault Refusal) :=
  let o := (r - Reg.HB_DB_SQ_TAIL 0 0) % 0x10000
  let jn := Fin.ofNat 64 ((r - Reg.HB_DB_SQ_TAIL 0 0) / 0x10000)
  let c := coreOf r
  match idxOf (Reg.HB_PF_CTRL 0) 0x40 64 r, idxOf (Reg.HB_TM_CTRL 0) 0x40 64 r with
  | some j, _ =>
    bitCmds v [(0, execPrefetchStart a (Fin.ofNat 64 j)), (1, execPrefetchStop a (Fin.ofNat 64 j)),
      (2, execPrefetchResume a (Fin.ofNat 64 j))]
  | none, some j =>
    bitCmds v [(0, execTidemarkArm a (Fin.ofNat 64 j)), (1, execTake a (Fin.ofNat 64 j)), (2, execTidemarkCancel a (Fin.ofNat 64 j))]
  | none, none =>
    if Reg.HB_DB_SQ_TAIL 0 0 ≤ r then
      if o = 0x98 then [execHbDbEvent a jn (v.setWidth 8) ((v >>> 16).setWidth 48)]
      else if 0x40 ≤ o ∧ o < 0x80 then
        bitCmds v [(33, execRingResume a jn (Fin.ofNat 8 (o / 8 % 8))), (34, execRingReset a jn (Fin.ofNat 8 (o / 8 % 8)))]
      else []
    else if r = Reg.RF_MX_CTRL c.die.val c.core.val then bitCmds v [(0, execMxCntClr a c), (1, execPlanFlush a c)]
    else if r = Reg.RF_VX_CTRL c.die.val c.core.val then bitCmds v [(0, execVxCntClr a c), (1, execNfClr a c)]
    else []

/-- The commands that a register write triggers (R458). -/
def triggers (a : Agent) (again : Instr) (w : RegWrite) : List (State → Host.Outcome State Fault Refusal) :=
  match blockTriggers a again w.reg w.val with
  | [] => unitTriggers a w.reg w.val
  | fs => fs

/-- Whether a register lies in the window of a Reef die that cannot be reached: writes toward it are discarded (R235). -/
def Mach.lostWindow (m : Mach) (r : Nat) : Bool :=
  decide (0xF00000000000 ≤ r) && decide (r < 0xF00010000000) && !m.dieUp ((r - 0xF00000000000) / 0x4000000)

/-- What an access that is not performed leaves (R7, R15), and at a hart of Headland the precise access fault it takes (R252), of code 5
or 7 (PRESUMED: log entry 65). -/
def Mach.turnedAway (m : Mach) (a : Agent) (addr : Nat) (wr : Bool) : Mach :=
  match a with
  | .headland h => (m.notPerformed addr wr).accessFault h.val (if wr then 7 else 5) (BitVec.ofNat 64 addr)
  | _ => m.notPerformed addr wr

/-- REGISTER_WRITE (R7, R8, R15, R235, R258, R457, R458). -/
def execRegisterWrite (a : Agent) (addr : BitVec 52) (size : Nat) (v : Word) (s : State) : Host.Outcome State Fault Refusal :=
  let w := regWriteOf addr.toNat size v
  if tierOf addr.toNat ≠ .registers then .next s
  else if !accessOk addr.toNat size then s.act (fun m => m.turnedAway a addr.toNat true)
  else
    match Reg.rowAt w.reg, s.m.rowFor a w, triggers a (.registerWrite a addr size v) w with
    | none, _, _ => s.act (fun m => m.turnedAway a addr.toNat true)
    | some d, none, [] => s.act (fun m => m.byAgent a w.reg (fun x => if x.lostWindow w.reg then x else x.mayWrite a d w))
    | some _, some f, _ => f s
    | some _, none, fs => if s.m.lostWindow w.reg then s.act (fun m => m) else runAll fs s

/-! Accesses that reach nothing -/

/-- ACCESS_NOT_PERFORMED (R7): a width or alignment that the register space does not take. -/
def execAccessNotPerformed (a : Agent) (addr : BitVec 52) (size : Nat) (wr : Bool) (s : State) : Host.Outcome State Fault Refusal :=
  s.act (fun m => if tierOf addr.toNat = .registers ∧ !accessOk addr.toNat size then m.turnedAway a addr.toNat wr else m)

/-- UNASSIGNED_ACCESS (R15): an address or offset that no table assigns. -/
def execUnassignedAccess (a : Agent) (addr : BitVec 52) (size : Nat) (wr : Bool) (s : State) : Host.Outcome State Fault Refusal :=
  s.act (fun m =>
    if tierOf addr.toNat = .registers ∧ accessOk addr.toNat size ∧ Reg.rowAt (addr.toNat / 8 * 8) = none ∧
        !(decide (apertureBase ≤ addr.toNat) && decide (addr.toNat < apertureBase + 0x800000)) then
      m.turnedAway a addr.toNat wr
    else m)

/-- Whether an agent is coherent (R18): Headland, the landward host and Harbour's internal agents. -/
def Agent.coherent (a : Agent) : Bool :=
  match a with
  | .headland _ | .host _ | .internal _ => true
  | _ => false

/-- RESERVED_RANGE_ACCESS (R18, R247, R252, R400, R428): a read returns poison, which faults a hart of Headland, a write is discarded, and
Lighthouse records it. Reads of a Shingle that is locked complete so. -/
def execReservedRangeAccess (a : Agent) (pa : BitVec 52) (wr : Bool) (s : State) : Host.Outcome State Fault Refusal :=
  s.act (fun m =>
    let t := tierOf pa.toNat
    if Agent.coherent a ∧ (t = .reserved ∨ t = .shingleBeyond ∨ (t = .shingle ∧ m.lh.locked ∧ !wr)) then
      let m1 := m.logE 0x02 0 0 noJob pa.toNat
      if wr then m1
      else
        let m2 := m1.emit (.data 63 pa.toNat [] true)
        match a with
        | .headland h => m2.accessFault h.val 5 (pa.setWidth 64)
        | _ => m2
    else m)

/-- SHINGLE_WRITE_DISCARD (R19). -/
def execShingleWriteDiscard (a : Agent) (pa : BitVec 52) (s : State) : Host.Outcome State Fault Refusal :=
  s.act (fun m =>
    if Agent.coherent a ∧ tierOf pa.toNat = .shingle then m.logE 0x02 0 0 noJob pa.toNat else m)

end Sys2Proof.Machine
end

