-- ==== Sys2Proof/Machine/Sequencer.lean ====
section
/-!
DEFINITION. The sequencer's own commands (R113 to R116, R135): NOP, FENCE, FLUSH, STEPEND, SELFTEST and POOLCLEAR.
-/

namespace Sys2Proof.Machine

/-- Fields of body word `i` that an opcode uses (R113); a field it does not use holds zero (R9). -/
def seqFields (op i : Nat) : List (Nat × Nat) :=
  if i = 0 then
    [(0, 8)] ++ (if op = 2 then [(8, 1), (9, 1)] else []) ++ (if op = 5 then [(10, 2)] else [])
  else if i = 1 then (if op = 3 then [(0, 57)] else [])
  else if i = 2 then (if op = 3 then [(0, 31)] else [])
  else if i = 7 then [(60, 4)]
  else []

/-- The checks of a sequencer body at its queue head (R9, R10, R113). -/
def seqCheck (c : Cmd) : Option Nat :=
  let op := c.seqOp
  let len := bits (wd c.body 2) 0 31
  if bits (wd c.body 7) 60 4 ≠ 1 then some 0x0202
  else if op = 0 ∨ 6 < op then some 0x0203
  else if c.tgt = 192 ∧ (op = 5 ∨ op = 6 ∨ (op = 2 ∧ bits (wd c.body 0) 8 1 = 1)) then some 0x0208
  else if (List.range 8).any (fun i => reservedSet (wd c.body i) (seqFields op i)) then some 0x0201
  else if op = 3 ∧ bits (wd c.body 1) 0 57 % 64 ≠ 0 then some 0x0206
  else if op = 3 ∧ (len % 64 ≠ 0 ∨ len < 64 ∨ 2 ^ 30 < len) then some 0x0204
  else none

/-- A sequencer command at its queue head, by opcode; reserved opcodes, and those that a Harbour ring may not carry, are met by
any of the rows. -/
def Mach.seqHead (m : Mach) (t op : Nat) (excl : Bool) (go : Mach → Cmd → Mach) : Mach :=
  m.atHead t 0
    (fun c => c.seqOp == op || c.seqOp == 0 || decide (6 < c.seqOp) || (c.tgt == 192 && (c.seqOp == 5 || c.seqOp == 6)))
    (fun _ c => seqCheck c) excl go

/-- NOP (R113): it completes. -/
def execNop (t : Seq) (s : State) : Host.Outcome State Fault Refusal :=
  s.act (fun m => m.seqHead t.tgt 1 false (fun x c => x.finish (c) 0 0 0 false))

/-- FENCE (R114): its waits were met before dispatch; with INV it discards the job's far-cache lines on the die. -/
def execFence (t : Seq) (s : State) : Host.Outcome State Fault Refusal :=
  s.act (fun m => m.seqHead t.tgt 2 false (fun x c =>
    let x1 := if bits (wd c.body 0) 8 1 = 1 then x.dropFar (fun l => l.die == c.tgt / 48 && l.job == c.job) else x
    x1.finish c 0 0 0 false))

/-- Process a FLUSH from its first line not yet processed (R115): each 64 KiB piece is translated with the read right, and
every line of it that a coherent agent holds is recalled. The number bounds the pieces. -/
def Mach.flushFrom (m : Mach) (j : Job) (c : Cmd) : Nat → Mach
  | 0 => m.putCmd { c with status := some 0 }
  | n + 1 =>
    let va := bits (wd c.body 1) 0 57 + c.prog
    let left := bits (wd c.body 2) 0 31 - c.prog
    if left = 0 then m.putCmd { c with status := (match c.status with
      | some st => some st
      | none => some 0) }
    else
      let len := min left (65536 - va % 65536)
      let r := m.xlate j c.tgt va .read
      match r.2 with
      | .ok pa _ =>
        let lines := r.1.dir.ents.filter (fun p => decide (pa / 64 ≤ p.1) && decide (p.1 < (pa + len) / 64))
        let c1 := { c with prog := c.prog + len }
        let m1 := lines.foldl (fun a p => (a.outstAdd c.id).request p.1 (.inval (some ⟨c.id, va + (p.1 * 64 - pa)⟩))) (r.1.putCmd c1)
        (match m1.cmdOf c.id with
         | some c2 => m1.flushFrom j c2 n
         | none => m1)
      | .status st => r.1.putCmd { c with
        status := some st
        va := va
        prog := bits (wd c.body 2) 0 31 }
      | .wait => r.1
      | e =>
        match e.kind with
        | some k => r.1.stopCmd c (.fault va .read k)
        | none => r.1

/-- Go on with a running FLUSH. -/
def Mach.flushRun (m : Mach) (c : Cmd) : Mach :=
  match m.job? c.job with
  | none => m
  | some j => m.flushFrom j c (bits (wd c.body 2) 0 31 / 65536 + 3)

/-- FLUSH (R115): begun at the head, or resumed there after its fault is resolved. -/
def execFlush (t : Seq) (s : State) : Host.Outcome State Fault Refusal :=
  s.act (fun m =>
    match m.running t.tgt 0 with
    | some c => if c.seqOp = 3 ∧ c.prog < bits (wd c.body 2) 0 31 ∧ c.fault = none ∧ (c.status = none ∨ c.status = some 0x0304) then m.flushRun c else m
    | none => m.seqHead t.tgt 3 false (fun x c => (x.run c).flushRun { c with phase := .running }))

/-- A command as a STEPEND is checked: COND is not consulted (R46). -/
def Cmd.uncond (c : Cmd) : Cmd := { c with hdr := c.hdr.set 0 (BitVec.ofNat 64 ((wd c.hdr 0).toNat - c.cond * 2 ^ 20)) }

/-- STEPEND (R116): at the head it leaves the queue's way and waits for its boundary; a second one for its step on its
ring, or one of a step that is over or too far, completes with 0x0101. -/
def execStepend (t : Seq) (s : State) : Host.Outcome State Fault Refusal :=
  s.act (fun m =>
    match m.queueHead t.tgt 0 with
    | none => m
    | some c =>
      if c.phase = .queued ∧ c.isStepend then
        match seqCheck c with
        | some st => m.finish c st 0 0 false
        | none =>
          match m.stateAux c.uncond false with
          | some aux => m.finish c 0x0101 aux 0 false
          | none => m.run c
      else m)

/-- SELFTEST (R116, R135): the named unit's built-in test. -/
def execSelftest (c : CoreId) (pass : Bool) (s : State) : Host.Outcome State Fault Refusal :=
  s.act (fun m => m.seqHead c.flat 5 true (fun x k => x.finish k (if pass then 0 else 0x0F02) 0 0 false))

/-- Zero a core's whole pool and its cluster's (R116, R135), stream buffer and all. -/
def Mach.clearPools (m : Mach) (tgt : Nat) : Mach :=
  let cl := tgt / 48 * 6 + tgt % 48 / 8
  { m with mem := { m.mem with
    corePool := serase (fun a => a / 2 ^ 22 == tgt) m.mem.corePool
    clusterPool := serase (fun a => a / 2 ^ 24 == cl) m.mem.clusterPool } }

/-- POOLCLEAR (R116, R135). -/
def execPoolclear (c : CoreId) (s : State) : Host.Outcome State Fault Refusal :=
  s.act (fun m => m.seqHead c.flat 6 true (fun x k => (x.clearPools c.flat).finish k 0 0 0 false))

end Sys2Proof.Machine
end

