-- ==== Sys2Proof/Machine/VectorInstr.lean ====
section
/-!
DEFINITION. The vector instructions (R80, R81, R92 to R95, R99). A row of the table runs when a program runs on the core
and its current instruction is the one the row carries. Registers, slots and memory are those of the running command.
-/

namespace Sys2Proof.Machine

/-! Registers (R80, R81) -/

/-- Element `e` of a group of lane format `l` from register `r`. -/
def Cmd.vget (c : Cmd) (l r e : Nat) : Nat :=
  let b := laneW l / 8
  leNat ((List.range b).map (fun k => sget (0 : Byte) (r * 4096 + e * b + k) c.vregs))

/-- The first `n` elements of a group. -/
def Cmd.vread (c : Cmd) (l r n : Nat) : List Nat := (List.range n).map (fun e => c.vget l r e)

/-- Set bytes of the register file in ascending order. -/
def vbytes (at_ : Nat) : List Byte → SMap Byte → SMap Byte
  | [], v => v
  | b :: bs, v => vbytes (at_ + 1) bs (sset 0 at_ b v)

/-- Write elements of a group from element `e0` on; the elements at or beyond the count keep their values. -/
def Cmd.vwrite (c : Cmd) (l r e0 : Nat) (vs : List Nat) : Cmd :=
  let b := laneW l / 8
  { c with vregs := vbytes (r * 4096 + e0 * b) (vs.flatMap (fun v => leBytes b v)) c.vregs }

/-- Operand b of an instruction: a group, or IMM repeated. -/
def Cmd.vOperandB (c : Cmd) (i : VInst) (n : Nat) : List Nat :=
  if i.sb = 1 then List.replicate n (immLane (viLane i) i.imm.toNat) else c.vread (viLane i) i.vb.toNat n

/-! Issue -/

/-- The running program of a core whose current instruction is the one given. -/
def Mach.vCurrent (m : Mach) (tgt op : Nat) (i : VInst) : Option (Job × Cmd) :=
  match m.running tgt 3 with
  | none => none
  | some c =>
    match m.job? c.job with
    | none => none
    | some j =>
      if bits (wd c.body 0) 0 2 = 1 ∧ c.fault = none ∧ c.status = none ∧
          decodeVInst (c.pgWords c.prog).1 (c.pgWords c.prog).2 = some (op, i) then some (j, c)
      else none

/-- Counted elements of an instruction with CNT = 1 (R100). -/
def Mach.vCount (m : Mach) (c : Cmd) (i : VInst) (n : Nat) : Mach × Cmd :=
  if i.cnt = 1 then m.countFor c 2 n else (m, c)

/-- An instruction is done: the program goes on to the next, to the next repeat, or ends (R91). -/
def Mach.vNext (m : Mach) (c : Cmd) (n : Nat) : Mach :=
  let d := c.tgt / 48
  let k := c.tgt % 48
  let wrapped := decide (c.pgCount ≤ c.prog + 1)
  let c1 := { c with
    prog := if wrapped then 0 else c.prog + 1
    rep := if wrapped then c.rep + 1 else c.rep
    row := 0 }
  let ends := decide (c.pgRepeats ≤ c1.rep)
  let c2 := if ends then { c1 with status := some (c1.status.getD 0) } else c1
  let m1 := (m.putCmd c2).fadd (Reg.RF_VX_LANEOPS_COUNT d k) n
  if ends then m1 else (m1.fset (Reg.RF_VX_STATE_PC d k) c1.prog).fset (Reg.RF_VX_STATE_REPEAT d k) c1.rep

/-- An instruction that writes elements to a register group of lane format `l2`: `bad` tells which are counted. -/
def Mach.vRegOp (m : Mach) (tgt op : Nat) (i : VInst) (l2 : Nat) (f : Cmd → Nat → List (Nat × Bool)) : Mach :=
  match m.vCurrent tgt op i with
  | none => m
  | some (_, c) =>
    let vs := f c (viCount i)
    let k := m.vCount c i (vs.filter Prod.snd).length
    k.1.vNext (k.2.vwrite l2 i.vd.toNat 0 (vs.map Prod.fst)) (viCount i)

/-- Mark the counted ones among lane values. -/
def marked (l : Nat) (vs : List Nat) : List (Nat × Bool) := vs.map (fun v => (v, laneBad l v))

/-- The element-wise operations of R93. Operand a of VSEL is the integer format of the width, the same bits. -/
def Mach.vElementwise (m : Mach) (tgt op : Nat) (i : VInst) : Mach :=
  let l := viLane i
  m.vRegOp tgt op i (opResult op l) (fun c n =>
    let as := if opA op then c.vread l i.va.toNat n else List.replicate n 0
    let bs := if opB op then c.vOperandB i n else List.replicate n 0
    let cs := if opC op then c.vread l i.vc.toNat n else List.replicate n 0
    marked (opResult op l) (List.zipWith (fun a (p : Nat × Nat) => laneOp op l a p.1 p.2) as (bs.zip cs)))

/-- VRSUM and VRMAX (R49, R93): element 0 only, from c[0]. -/
def Mach.vReduce (m : Mach) (tgt op : Nat) (i : VInst) : Mach :=
  let l := viLane i
  m.vRegOp tgt op i l (fun c n =>
    marked l [reduceLanes (op == 0x39) l 17 (c.vget l i.vc.toNat 0) (c.vread l i.va.toNat n)])

/-! Memory instructions (R94, R95, R99) -/

/-- An element of memory entering a lane. A 32-bit format of the other kind is converted by value (DEDUCED). -/
def vIn (l code raw : Nat) : Nat :=
  if laneF l then laneOut l (if isIntFmt code then Num.ofInt (intElem code raw) else (memFmt code).decode raw)
  else if isIntFmt code then wrap (laneW l) (intElem code raw)
  else laneCvt 0 l .rne false raw

/-- A lane value in a memory format, and whether it is counted. -/
def vOut (l code : Nat) (rnd : Rnd) (sat : Bool) (v : Nat) : Nat × Bool :=
  if laneF l then
    (if isIntFmt code then (laneCvt l 2 rnd sat v, false) else (memFmt code).encode rnd sat (laneNum l v))
  else if isIntFmt code then (intSat code (sext (laneW l) v), false)
  else ((Fmt.fp32.encode rnd sat (Num.ofInt (sext (laneW l) v))).1, false)

/-- An element address: a pool offset inside the job's window and off the stream buffer, or a virtual address; naturally
aligned. The other cases end the command with 0x0303 (R97). DEDUCED: log entry 25. -/
def vAddr (j : Job) (src size : Nat) (a : Int) : Except XStop Nat :=
  let x : Int := if src = 2 then a % 2 ^ 57 else a
  let r : Rng := ⟨src, x, x + size⟩
  if x % size = 0 ∧ (src = 2 ∨ r.legal j) then .ok x.toNat
  else .error (.status 0x0303 (if x < 0 then 0 else x.toNat))

/-- Address of element `e` of VLD or VST. -/
def Cmd.vPlain (c : Cmd) (i : VInst) (e : Nat) : Int :=
  let size := elemBytes i.fmt2.toNat
  c.pgSlot i.slot.toNat c.rep + (i.imm.toNat : Int) + (e : Int) * (if i.stride.toNat = 0 then size else i.stride.toNat : Nat)

/-- Address of element `e` of a gather, a scatter or a scatter-add. -/
def Cmd.vIndexed (c : Cmd) (i : VInst) (e : Nat) : Int :=
  let w := viWidth i
  let ix := sext 32 (c.vget 2 i.vb.toNat (e / w))
  c.pgSlot i.slot.toNat c.rep + ((i.imm.toNat / 65536 * 16 : Nat) : Int) + ix * (i.stride.toNat : Int) +
    ((e % w * elemBytes i.fmt2.toNat : Nat) : Int)

/-- Read elements at addresses, each as its memory bits. -/
def Mach.vFetch (m : Mach) (j : Job) (c : Cmd) (i : VInst) (as : List Int) : Mach × Except XStop (List Nat) :=
  let src := c.pgSlotSrc i.slot.toNat
  let size := elemBytes i.fmt2.toNat
  m.readAll (fun x a =>
    match vAddr j src size a with
    | .error e => (x, .error e)
    | .ok addr =>
      let r := x.srcRead j c src addr size
      (r.1, match r.2 with
        | .ok bs => .ok (leNat bs)
        | .error e => .error e)) as

/-- Write memory bits at addresses, all or none. -/
def Mach.vStore (m : Mach) (j : Job) (c : Cmd) (i : VInst) (ps : List (Int × Nat)) : Mach × Except XStop Unit :=
  let src := c.pgSlotSrc i.slot.toNat
  let size := elemBytes i.fmt2.toNat
  let r := m.readAll (fun x (p : Int × Nat) =>
    match vAddr j src size p.1 with
    | .error e => (x, .error e)
    | .ok addr => (x, .ok (WItem.mk src addr (leBytes size p.2)))) ps
  match r.2 with
  | .error e => (r.1, .error e)
  | .ok ws => r.1.putItems j c ws

/-- Rounding of element `e` of a store (R94). -/
def Cmd.vRnd (c : Cmd) (j : Job) (i : VInst) (e : Nat) : Rnd :=
  rndOf i.rnd.toNat j.seed (bits (wd c.body 1) 32 32)
    (bits (wd c.body 14) 0 48 + c.rep * bits (wd c.body 15) 0 32 + e)

/-- VLD. -/
def Mach.vLoad (m : Mach) (tgt : Nat) (i : VInst) : Mach :=
  match m.vCurrent tgt 0x48 i with
  | none => m
  | some (j, c) =>
    let n := viCount i
    let r := m.vFetch j c i ((List.range n).map (fun e => c.vPlain i e))
    match r.2 with
    | .error x => r.1.stopCmd c x
    | .ok raws =>
      let vs := raws.map (fun v => vIn (viLane i) i.fmt2.toNat v)
      let k := r.1.vCount c i (vs.filter (fun v => laneBad (viLane i) v)).length
      k.1.vNext (k.2.vwrite (viLane i) i.vd.toNat 0 vs) n

/-- Lane elements from `e0` as they are stored, and how many are counted. -/
def Cmd.vStored (c : Cmd) (j : Job) (i : VInst) (e0 n : Nat) : List (Nat × Bool) :=
  (List.range n).map (fun k =>
    vOut (viLane i) i.fmt2.toNat (c.vRnd j i (e0 + k)) (i.sat == 1) (c.vget (viLane i) i.va.toNat (e0 + k)))

/-- VST. -/
def Mach.vPut (m : Mach) (tgt : Nat) (i : VInst) : Mach :=
  match m.vCurrent tgt 0x49 i with
  | none => m
  | some (j, c) =>
    let n := viCount i
    let vs := c.vStored j i 0 n
    let w := m.vStore j c i (vs.mapIdx (fun e v => (c.vPlain i e, v.1)))
    match w.1.cmdOf c.id with
    | none => w.1
    | some c1 =>
      match w.2 with
      | .error x => w.1.stopCmd c1 x
      | .ok _ =>
        let k := w.1.vCount c1 i (vs.filter Prod.snd).length
        k.1.vNext k.2 n

/-- One row of a gather, a scatter or a scatter-add: the command after it and how many elements are counted. -/
def Mach.vRow (m : Mach) (j : Job) (c : Cmd) (op : Nat) (i : VInst) : Mach × Except XStop (Cmd × Nat) :=
  let w := viWidth i
  let e0 := c.row * w
  let l := viLane i
  let at_ := (List.range w).map (fun k => c.vIndexed i (e0 + k))
  if op = 0x4B then
    let vs := c.vStored j i e0 w
    let r := m.vStore j c i (at_.zip (vs.map Prod.fst))
    (r.1, match r.2 with
      | .error x => .error x
      | .ok _ => .ok (c, (vs.filter Prod.snd).length))
  else if op = 0x4C ∧ sget 0 c.id m.js.outst ≠ 0 then (m, .error .wait)
  else
    let r := m.vFetch j c i at_
    match r.2 with
    | .error x => (r.1, .error x)
    | .ok raws =>
      if op = 0x4A then
        let vs := raws.map (fun v => vIn l i.fmt2.toNat v)
        (r.1, .ok (c.vwrite l i.vd.toNat e0 vs, (vs.filter (fun v => laneBad l v)).length))
      else
        let vs := raws.mapIdx (fun k old => laneOp (if l = 2 then 0x20 else 0x01) l old (c.vget l i.va.toNat (e0 + k)) 0)
        let s := r.1.vStore j c i (at_.zip vs)
        (s.1, match s.2 with
          | .error x => .error x
          | .ok _ => .ok (c, (vs.filter (fun v => laneBad l v)).length))

/-- Rows from the first not yet completed (R99); the number bounds them. -/
def Mach.vRows (m : Mach) (j : Job) (op : Nat) (i : VInst) (id : Nat) : Nat → Mach
  | 0 => m
  | n + 1 =>
    match m.cmdOf id with
    | none => m
    | some c =>
      if viCount i / viWidth i ≤ c.row then m.vNext c (viCount i)
      else
        let r := m.vRow j c op i
        match r.2 with
        | .error x =>
          (match r.1.cmdOf id with
           | some c1 => r.1.stopCmd c1 x
           | none => r.1)
        | .ok (c1, bad) =>
          let k := r.1.vCount c1 i bad
          let st := match r.1.cmdOf id with
            | some q => q.status
            | none => none
          (k.1.putCmd { k.2 with
            row := c.row + 1
            status := st }).vRows j op i id n

/-- VGATHER, VSCATTER and VSCADD. -/
def Mach.vIndexedOp (m : Mach) (tgt op : Nat) (i : VInst) : Mach :=
  match m.vCurrent tgt op i with
  | none => m
  | some (j, c) => m.vRows j op i c.id (viCount i + 1)

/-! The rows -/

/-- VADD (R93): d = a + b. -/
def execVadd (c : CoreId) (i : VInst) (s : State) : Host.Outcome State Fault Refusal :=
  s.act (fun m => m.vElementwise c.flat 0x01 i)

/-- VSUB (R93): d = a − b. -/
def execVsub (c : CoreId) (i : VInst) (s : State) : Host.Outcome State Fault Refusal :=
  s.act (fun m => m.vElementwise c.flat 0x02 i)

/-- VMUL (R93): d = a × b. -/
def execVmul (c : CoreId) (i : VInst) (s : State) : Host.Outcome State Fault Refusal :=
  s.act (fun m => m.vElementwise c.flat 0x03 i)

/-- VFMA (R93): d = a × b + c, rounded once. -/
def execVfma (c : CoreId) (i : VInst) (s : State) : Host.Outcome State Fault Refusal :=
  s.act (fun m => m.vElementwise c.flat 0x04 i)

/-- VFNMA (R93): d = −(a × b) + c, rounded once. -/
def execVfnma (c : CoreId) (i : VInst) (s : State) : Host.Outcome State Fault Refusal :=
  s.act (fun m => m.vElementwise c.flat 0x05 i)

/-- VDIV (R93): d = a / b. -/
def execVdiv (c : CoreId) (i : VInst) (s : State) : Host.Outcome State Fault Refusal :=
  s.act (fun m => m.vElementwise c.flat 0x06 i)

/-- VSQRT (R93): d = √a. -/
def execVsqrt (c : CoreId) (i : VInst) (s : State) : Host.Outcome State Fault Refusal :=
  s.act (fun m => m.vElementwise c.flat 0x07 i)

/-- VRCP (R93): d = 1 / a. -/
def execVrcp (c : CoreId) (i : VInst) (s : State) : Host.Outcome State Fault Refusal :=
  s.act (fun m => m.vElementwise c.flat 0x08 i)

/-- VRSQ (R93): d = 1 / √a. -/
def execVrsq (c : CoreId) (i : VInst) (s : State) : Host.Outcome State Fault Refusal :=
  s.act (fun m => m.vElementwise c.flat 0x09 i)

/-- VEXP2 (R93): d = 2^a. -/
def execVexp2 (c : CoreId) (i : VInst) (s : State) : Host.Outcome State Fault Refusal :=
  s.act (fun m => m.vElementwise c.flat 0x0A i)

/-- VLOG2 (R93): d = log2 a. -/
def execVlog2 (c : CoreId) (i : VInst) (s : State) : Host.Outcome State Fault Refusal :=
  s.act (fun m => m.vElementwise c.flat 0x0B i)

/-- VEXP (R93): exp. -/
def execVexp (c : CoreId) (i : VInst) (s : State) : Host.Outcome State Fault Refusal :=
  s.act (fun m => m.vElementwise c.flat 0x0C i)

/-- VLOG (R93): natural logarithm. -/
def execVlog (c : CoreId) (i : VInst) (s : State) : Host.Outcome State Fault Refusal :=
  s.act (fun m => m.vElementwise c.flat 0x0D i)

/-- VTANH (R93): tanh. -/
def execVtanh (c : CoreId) (i : VInst) (s : State) : Host.Outcome State Fault Refusal :=
  s.act (fun m => m.vElementwise c.flat 0x0E i)

/-- VSIGM (R93): sigmoid. -/
def execVsigm (c : CoreId) (i : VInst) (s : State) : Host.Outcome State Fault Refusal :=
  s.act (fun m => m.vElementwise c.flat 0x0F i)

/-- VERF (R93): erf. -/
def execVerf (c : CoreId) (i : VInst) (s : State) : Host.Outcome State Fault Refusal :=
  s.act (fun m => m.vElementwise c.flat 0x10 i)

/-- VMIN (R93): the smaller of a and b. -/
def execVmin (c : CoreId) (i : VInst) (s : State) : Host.Outcome State Fault Refusal :=
  s.act (fun m => m.vElementwise c.flat 0x11 i)

/-- VMAX (R93): the larger of a and b. -/
def execVmax (c : CoreId) (i : VInst) (s : State) : Host.Outcome State Fault Refusal :=
  s.act (fun m => m.vElementwise c.flat 0x12 i)

/-- VABS (R93): sign cleared. -/
def execVabs (c : CoreId) (i : VInst) (s : State) : Host.Outcome State Fault Refusal :=
  s.act (fun m => m.vElementwise c.flat 0x13 i)

/-- VNEG (R93): sign inverted. -/
def execVneg (c : CoreId) (i : VInst) (s : State) : Host.Outcome State Fault Refusal :=
  s.act (fun m => m.vElementwise c.flat 0x14 i)

/-- VCMPEQ (R93): all ones when a = b, else 0. -/
def execVcmpeq (c : CoreId) (i : VInst) (s : State) : Host.Outcome State Fault Refusal :=
  s.act (fun m => m.vElementwise c.flat 0x18 i)

/-- VCMPLT (R93): all ones when a < b, else 0. -/
def execVcmplt (c : CoreId) (i : VInst) (s : State) : Host.Outcome State Fault Refusal :=
  s.act (fun m => m.vElementwise c.flat 0x19 i)

/-- VCMPLE (R93): all ones when a ≤ b, else 0. -/
def execVcmple (c : CoreId) (i : VInst) (s : State) : Host.Outcome State Fault Refusal :=
  s.act (fun m => m.vElementwise c.flat 0x1A i)

/-- VISNF (R93): all ones when a is NaN or infinite, else 0. -/
def execVisnf (c : CoreId) (i : VInst) (s : State) : Host.Outcome State Fault Refusal :=
  s.act (fun m => m.vElementwise c.flat 0x1B i)

/-- VSEL (R93): d = b when a ≠ 0, else c. -/
def execVsel (c : CoreId) (i : VInst) (s : State) : Host.Outcome State Fault Refusal :=
  s.act (fun m => m.vElementwise c.flat 0x1C i)

/-- VIADD (R93): wrapping sum. -/
def execViadd (c : CoreId) (i : VInst) (s : State) : Host.Outcome State Fault Refusal :=
  s.act (fun m => m.vElementwise c.flat 0x20 i)

/-- VISUB (R93): wrapping difference. -/
def execVisub (c : CoreId) (i : VInst) (s : State) : Host.Outcome State Fault Refusal :=
  s.act (fun m => m.vElementwise c.flat 0x21 i)

/-- VIMUL (R93): low half of the product. -/
def execVimul (c : CoreId) (i : VInst) (s : State) : Host.Outcome State Fault Refusal :=
  s.act (fun m => m.vElementwise c.flat 0x22 i)

/-- VAND (R93): bitwise and. -/
def execVand (c : CoreId) (i : VInst) (s : State) : Host.Outcome State Fault Refusal :=
  s.act (fun m => m.vElementwise c.flat 0x23 i)

/-- VOR (R93): bitwise or. -/
def execVor (c : CoreId) (i : VInst) (s : State) : Host.Outcome State Fault Refusal :=
  s.act (fun m => m.vElementwise c.flat 0x24 i)

/-- VXOR (R93): bitwise exclusive or. -/
def execVxor (c : CoreId) (i : VInst) (s : State) : Host.Outcome State Fault Refusal :=
  s.act (fun m => m.vElementwise c.flat 0x25 i)

/-- VSHL (R93): left shift by b mod the width. -/
def execVshl (c : CoreId) (i : VInst) (s : State) : Host.Outcome State Fault Refusal :=
  s.act (fun m => m.vElementwise c.flat 0x26 i)

/-- VSHR (R93): logical right shift by b mod the width. -/
def execVshr (c : CoreId) (i : VInst) (s : State) : Host.Outcome State Fault Refusal :=
  s.act (fun m => m.vElementwise c.flat 0x27 i)

/-- VSRA (R93): arithmetic right shift by b mod the width. -/
def execVsra (c : CoreId) (i : VInst) (s : State) : Host.Outcome State Fault Refusal :=
  s.act (fun m => m.vElementwise c.flat 0x28 i)

/-- VIMIN (R93): signed minimum. -/
def execVimin (c : CoreId) (i : VInst) (s : State) : Host.Outcome State Fault Refusal :=
  s.act (fun m => m.vElementwise c.flat 0x29 i)

/-- VIMAX (R93): signed maximum. -/
def execVimax (c : CoreId) (i : VInst) (s : State) : Host.Outcome State Fault Refusal :=
  s.act (fun m => m.vElementwise c.flat 0x2A i)

/-- VIOTA (R93): d = IMM + e. -/
def execViota (c : CoreId) (i : VInst) (s : State) : Host.Outcome State Fault Refusal :=
  s.act (fun m => m.vRegOp c.flat 0x2B i (viLane i) (fun _ n =>
    (List.range n).map (fun (e : Nat) => (wrap (laneW (viLane i)) ((i.imm.toNat : Int) + (e : Int)), false))))

/-- VCVT (R93): a converted to the lane format in FMT2, by RND and SAT. -/
def execVcvt (c : CoreId) (i : VInst) (s : State) : Host.Outcome State Fault Refusal :=
  s.act (fun m => m.vRegOp c.flat 0x30 i (i.fmt2.toNat % 4) (fun k n =>
    (k.vread (viLane i) i.va.toNat n).map (fun a =>
      let l2 := i.fmt2.toNat % 4
      let rnd := rndOf i.rnd.toNat 0 0 0
      (laneCvt (viLane i) l2 rnd (i.sat == 1) a, laneF l2 && ((laneFmt l2).encode rnd (i.sat == 1) (laneVal (viLane i) a)).2))))

/-- VRSUM (R93): d[0] = c[0] plus the sum of a in the order of R49. -/
def execVrsum (c : CoreId) (i : VInst) (s : State) : Host.Outcome State Fault Refusal :=
  s.act (fun m => m.vReduce c.flat 0x38 i)

/-- VRMAX (R93): d[0] = the maximum of c[0] and a in the order of R49. -/
def execVrmax (c : CoreId) (i : VInst) (s : State) : Host.Outcome State Fault Refusal :=
  s.act (fun m => m.vReduce c.flat 0x39 i)

/-- VMOV (R93): d = a, a NaN canonical (R25). -/
def execVmov (c : CoreId) (i : VInst) (s : State) : Host.Outcome State Fault Refusal :=
  s.act (fun m => m.vRegOp c.flat 0x40 i (viLane i) (fun k n =>
    marked (viLane i) ((k.vread (viLane i) i.va.toNat n).map (laneCanon (viLane i)))))

/-- VBCAST (R93): d = a[IMM], a NaN canonical (R25). -/
def execVbcast (c : CoreId) (i : VInst) (s : State) : Host.Outcome State Fault Refusal :=
  s.act (fun m => m.vRegOp c.flat 0x41 i (viLane i) (fun k n =>
    marked (viLane i) (List.replicate n (laneCanon (viLane i) (k.vget (viLane i) i.va.toNat i.imm.toNat)))))

/-- VPERM (R93): d = a[b[e]], zero for an index outside the count, a NaN canonical (R25). -/
def execVperm (c : CoreId) (i : VInst) (s : State) : Host.Outcome State Fault Refusal :=
  s.act (fun m => m.vRegOp c.flat 0x42 i (viLane i) (fun k n =>
    let ixs := if i.sb = 1 then List.replicate n (immLane (viLane i % 2 + 2) i.imm.toNat) else k.vread (viLane i) i.vb.toNat n
    marked (viLane i) (ixs.map (fun b => if b < n then laneCanon (viLane i) (k.vget (viLane i) i.va.toNat b) else 0))))

/-- VLD (R93): elements read from memory or a pool, converted from FMT2. -/
def execVld (c : CoreId) (i : VInst) (s : State) : Host.Outcome State Fault Refusal :=
  s.act (fun m => m.vLoad c.flat i)

/-- VST (R93): elements written to memory or a pool, converted to FMT2. -/
def execVst (c : CoreId) (i : VInst) (s : State) : Host.Outcome State Fault Refusal :=
  s.act (fun m => m.vPut c.flat i)

/-- VGATHER (R93): rows read at indexed places. -/
def execVgather (c : CoreId) (i : VInst) (s : State) : Host.Outcome State Fault Refusal :=
  s.act (fun m => m.vIndexedOp c.flat 0x4A i)

/-- VSCATTER (R93): rows written at indexed places. -/
def execVscatter (c : CoreId) (i : VInst) (s : State) : Host.Outcome State Fault Refusal :=
  s.act (fun m => m.vIndexedOp c.flat 0x4B i)

/-- VSCADD (R93): ordered scatter-add (R95). -/
def execVscadd (c : CoreId) (i : VInst) (s : State) : Host.Outcome State Fault Refusal :=
  s.act (fun m => m.vIndexedOp c.flat 0x4C i)

end Sys2Proof.Machine
end

