-- ==== Sys2Proof/Machine/Dispatch.lean ====
section
/-!
DEFINITION. One arm for each command: its meaning, a direct call. The arms stand in the order of the table.
-/

namespace Sys2Proof.Machine

def exec (i : Instr) (s : State) : Host.Outcome State Fault Refusal :=
  match i with
  | .registerWrite a addr size v => Sys2Proof.Machine.execRegisterWrite a addr size v s
  | .accessNotPerformed a addr size wr => Sys2Proof.Machine.execAccessNotPerformed a addr size wr s
  | .unassignedAccess a addr size wr => Sys2Proof.Machine.execUnassignedAccess a addr size wr s
  | .reservedRangeAccess a pa wr => Sys2Proof.Machine.execReservedRangeAccess a pa wr s
  | .shingleWriteDiscard a pa => Sys2Proof.Machine.execShingleWriteDiscard a pa s
  | .rds x line => Sys2Proof.Machine.execRds x line s
  | .rdo x line => Sys2Proof.Machine.execRdo x line s
  | .upg x line => Sys2Proof.Machine.execUpg x line s
  | .wb y line data => Sys2Proof.Machine.execWb y line data s
  | .evictionNotice x line toLlc => Sys2Proof.Machine.execEvictionNotice x line toLlc s
  | .nonCachingWrite r pa key w => Sys2Proof.Machine.execNonCachingWrite r pa key w s
  | .engineRead c job pa key => Sys2Proof.Machine.execEngineRead c job pa key s
  | .snoopResponse y line ans => Sys2Proof.Machine.execSnoopResponse y line ans s
  | .completionAck line => Sys2Proof.Machine.execCompletionAck line s
  | .snoopTimeout y line => Sys2Proof.Machine.execSnoopTimeout y line s
  | .demandRead pa key errs => Sys2Proof.Machine.execDemandRead pa key errs s
  | .codewordWrite pa key data => Sys2Proof.Machine.execCodewordWrite pa key data s
  | .scrub pa errs => Sys2Proof.Machine.execScrub pa errs s
  | .shingleRead pa uncorrectable => Sys2Proof.Machine.execShingleRead pa uncorrectable s
  | .generate a sel => Sys2Proof.Machine.execGenerate a sel s
  | .erase a sel => Sys2Proof.Machine.execErase a sel s
  | .keyCommandDone => Sys2Proof.Machine.execKeyCommandDone s
  | .create a job => Sys2Proof.Machine.execCreate a job s
  | .destroy a job => Sys2Proof.Machine.execDestroy a job s
  | .destroyComplete job => Sys2Proof.Machine.execDestroyComplete job s
  | .sqDoorbell a job ring tail => Sys2Proof.Machine.execSqDoorbell a job ring tail s
  | .hbDbEvent a job event value => Sys2Proof.Machine.execHbDbEvent a job event value s
  | .ringResume a job ring => Sys2Proof.Machine.execRingResume a job ring s
  | .ringReset a job ring => Sys2Proof.Machine.execRingReset a job ring s
  | .cqHeadWrite a job head => Sys2Proof.Machine.execCqHeadWrite a job head s
  | .eqHeadWrite a job head => Sys2Proof.Machine.execEqHeadWrite a job head s
  | .cqBatchTimeout job => Sys2Proof.Machine.execCqBatchTimeout job s
  | .commandFetch job ring => Sys2Proof.Machine.execCommandFetch job ring s
  | .commandDispatch t e => Sys2Proof.Machine.execCommandDispatch t e s
  | .commandComplete t e => Sys2Proof.Machine.execCommandComplete t e s
  | .switchOut c e => Sys2Proof.Machine.execSwitchOut c e s
  | .faultLimitExpiry t w => Sys2Proof.Machine.execFaultLimitExpiry t w s
  | .watchdogExpiry t w => Sys2Proof.Machine.execWatchdogExpiry t w s
  | .stepBoundary job => Sys2Proof.Machine.execStepBoundary job s
  | .nop t => Sys2Proof.Machine.execNop t s
  | .fence t => Sys2Proof.Machine.execFence t s
  | .flush t => Sys2Proof.Machine.execFlush t s
  | .stepend t => Sys2Proof.Machine.execStepend t s
  | .selftest c pass => Sys2Proof.Machine.execSelftest c pass s
  | .poolclear c => Sys2Proof.Machine.execPoolclear c s
  | .copy c => Sys2Proof.Machine.execCopy c s
  | .stage c => Sys2Proof.Machine.execStage c s
  | .fill c => Sys2Proof.Machine.execFill c s
  | .gemm c => Sys2Proof.Machine.execGemm c s
  | .conv c => Sys2Proof.Machine.execConv c s
  | .mv c => Sys2Proof.Machine.execMv c s
  | .matrixPass c => Sys2Proof.Machine.execMatrixPass c s
  | .mxCntClr a c => Sys2Proof.Machine.execMxCntClr a c s
  | .planFlush a c => Sys2Proof.Machine.execPlanFlush a c s
  | .chain c => Sys2Proof.Machine.execChain c s
  | .chainChunk c => Sys2Proof.Machine.execChainChunk c s
  | .program c => Sys2Proof.Machine.execProgram c s
  | .vxCntClr a c => Sys2Proof.Machine.execVxCntClr a c s
  | .nfClr a c => Sys2Proof.Machine.execNfClr a c s
  | .vadd c x => Sys2Proof.Machine.execVadd c x s
  | .vsub c x => Sys2Proof.Machine.execVsub c x s
  | .vmul c x => Sys2Proof.Machine.execVmul c x s
  | .vfma c x => Sys2Proof.Machine.execVfma c x s
  | .vfnma c x => Sys2Proof.Machine.execVfnma c x s
  | .vdiv c x => Sys2Proof.Machine.execVdiv c x s
  | .vsqrt c x => Sys2Proof.Machine.execVsqrt c x s
  | .vrcp c x => Sys2Proof.Machine.execVrcp c x s
  | .vrsq c x => Sys2Proof.Machine.execVrsq c x s
  | .vexp2 c x => Sys2Proof.Machine.execVexp2 c x s
  | .vlog2 c x => Sys2Proof.Machine.execVlog2 c x s
  | .vexp c x => Sys2Proof.Machine.execVexp c x s
  | .vlog c x => Sys2Proof.Machine.execVlog c x s
  | .vtanh c x => Sys2Proof.Machine.execVtanh c x s
  | .vsigm c x => Sys2Proof.Machine.execVsigm c x s
  | .verf c x => Sys2Proof.Machine.execVerf c x s
  | .vmin c x => Sys2Proof.Machine.execVmin c x s
  | .vmax c x => Sys2Proof.Machine.execVmax c x s
  | .vabs c x => Sys2Proof.Machine.execVabs c x s
  | .vneg c x => Sys2Proof.Machine.execVneg c x s
  | .vcmpeq c x => Sys2Proof.Machine.execVcmpeq c x s
  | .vcmplt c x => Sys2Proof.Machine.execVcmplt c x s
  | .vcmple c x => Sys2Proof.Machine.execVcmple c x s
  | .visnf c x => Sys2Proof.Machine.execVisnf c x s
  | .vsel c x => Sys2Proof.Machine.execVsel c x s
  | .viadd c x => Sys2Proof.Machine.execViadd c x s
  | .visub c x => Sys2Proof.Machine.execVisub c x s
  | .vimul c x => Sys2Proof.Machine.execVimul c x s
  | .vand c x => Sys2Proof.Machine.execVand c x s
  | .vor c x => Sys2Proof.Machine.execVor c x s
  | .vxor c x => Sys2Proof.Machine.execVxor c x s
  | .vshl c x => Sys2Proof.Machine.execVshl c x s
  | .vshr c x => Sys2Proof.Machine.execVshr c x s
  | .vsra c x => Sys2Proof.Machine.execVsra c x s
  | .vimin c x => Sys2Proof.Machine.execVimin c x s
  | .vimax c x => Sys2Proof.Machine.execVimax c x s
  | .viota c x => Sys2Proof.Machine.execViota c x s
  | .vcvt c x => Sys2Proof.Machine.execVcvt c x s
  | .vrsum c x => Sys2Proof.Machine.execVrsum c x s
  | .vrmax c x => Sys2Proof.Machine.execVrmax c x s
  | .vmov c x => Sys2Proof.Machine.execVmov c x s
  | .vbcast c x => Sys2Proof.Machine.execVbcast c x s
  | .vperm c x => Sys2Proof.Machine.execVperm c x s
  | .vld c x => Sys2Proof.Machine.execVld c x s
  | .vst c x => Sys2Proof.Machine.execVst c x s
  | .vgather c x => Sys2Proof.Machine.execVgather c x s
  | .vscatter c x => Sys2Proof.Machine.execVscatter c x s
  | .vscadd c x => Sys2Proof.Machine.execVscadd c x s
  | .pageWalk w job va acc => Sys2Proof.Machine.execPageWalk w job va acc s
  | .faultRetry w => Sys2Proof.Machine.execFaultRetry w s
  | .frHeadWrite a head => Sys2Proof.Machine.execFrHeadWrite a head s
  | .hbFltResolve a record status => Sys2Proof.Machine.execHbFltResolve a record status s
  | .tlbi a asid allAsid discard => Sys2Proof.Machine.execTlbi a asid allAsid discard s
  | .tlbiComplete => Sys2Proof.Machine.execTlbiComplete s
  | .mpTailWrite a tail => Sys2Proof.Machine.execMpTailWrite a tail s
  | .migrationComplete record poisoned => Sys2Proof.Machine.execMigrationComplete record poisoned s
  | .evict a asid migrate => Sys2Proof.Machine.execEvict a asid migrate s
  | .evictionComplete => Sys2Proof.Machine.execEvictionComplete s
  | .limtosCapability p lo hi groups width => Sys2Proof.Machine.execLimtosCapability p lo hi groups width s
  | .limtosFlit p inward seq groups => Sys2Proof.Machine.execLimtosFlit p inward seq groups s
  | .spareSwitch p g inward => Sys2Proof.Machine.execSpareSwitch p g inward s
  | .narrowingResume p => Sys2Proof.Machine.execNarrowingResume p s
  | .partnerRequest acc pa len w => Sys2Proof.Machine.execPartnerRequest acc pa len w s
  | .rateAllowanceRelease => Sys2Proof.Machine.execRateAllowanceRelease s
  | .partnerMsix vector => Sys2Proof.Machine.execPartnerMsix vector s
  | .apertureAccess a off size wr v => Sys2Proof.Machine.execApertureAccess a off size wr v s
  | .bwWindowWrite a n lim v => Sys2Proof.Machine.execBwWindowWrite a n lim v s
  | .windowRecallDone n => Sys2Proof.Machine.execWindowRecallDone n s
  | .retrain a ok lanes => Sys2Proof.Machine.execRetrain a ok lanes s
  | .partnerLinkDown => Sys2Proof.Machine.execPartnerLinkDown s
  | .clockLoss d => Sys2Proof.Machine.execClockLoss d s
  | .dieReset d => Sys2Proof.Machine.execDieReset d s
  | .hbDieFence a d => Sys2Proof.Machine.execHbDieFence a d s
  | .dieFenceInvalidate d => Sys2Proof.Machine.execDieFenceInvalidate d s
  | .readmit a d => Sys2Proof.Machine.execReadmit a d s
  | .restoringComplete d r => Sys2Proof.Machine.execRestoringComplete d r s
  | .poisonedLoad h fetch addr => Sys2Proof.Machine.execPoisonedLoad h fetch addr s
  | .vfredusum h vd vs2 vs1 sew form vl => Sys2Proof.Machine.execVfredusum h vd vs2 vs1 sew form vl s
  | .wrsWake w => Sys2Proof.Machine.execWrsWake w s
  | .hartStart a mask => Sys2Proof.Machine.execHartStart a mask s
  | .claim as => Sys2Proof.Machine.execClaim as s
  | .release a => Sys2Proof.Machine.execRelease a s
  | .interruptDelivery src => Sys2Proof.Machine.execInterruptDelivery src s
  | .recoveryEntry p => Sys2Proof.Machine.execRecoveryEntry p s
  | .recoveryExit p lanes rate => Sys2Proof.Machine.execRecoveryExit p lanes rate s
  | .recoveryLimitExpiry p => Sys2Proof.Machine.execRecoveryLimitExpiry p s
  | .linkDown p => Sys2Proof.Machine.execLinkDown p s
  | .perstAssert p => Sys2Proof.Machine.execPerstAssert p s
  | .hotReset p => Sys2Proof.Machine.execHotReset p s
  | .functionLevelReset p => Sys2Proof.Machine.execFunctionLevelReset p s
  | .epochArm a p epoch => Sys2Proof.Machine.execEpochArm a p epoch s
  | .fenceRead a => Sys2Proof.Machine.execFenceRead a s
  | .fenceReadDone => Sys2Proof.Machine.execFenceReadDone s
  | .routeChange a mode => Sys2Proof.Machine.execRouteChange a mode s
  | .routeChangeDone => Sys2Proof.Machine.execRouteChangeDone s
  | .cxlMemRequest p dpa w => Sys2Proof.Machine.execCxlMemRequest p dpa w s
  | .configRequest p => Sys2Proof.Machine.execConfigRequest p s
  | .landwardWriteAck p => Sys2Proof.Machine.execLandwardWriteAck p s
  | .pixel => Sys2Proof.Machine.execPixel s
  | .tokens => Sys2Proof.Machine.execTokens s
  | .unitAssign u => Sys2Proof.Machine.execUnitAssign u s
  | .pictureBoundary u missingRef rap => Sys2Proof.Machine.execPictureBoundary u missingRef rap s
  | .sampleDecodeEnd u us e => Sys2Proof.Machine.execSampleDecodeEnd u us e s
  | .lateEviction u us => Sys2Proof.Machine.execLateEviction u us s
  | .intakeBatchComplete job stream => Sys2Proof.Machine.execIntakeBatchComplete job stream s
  | .connectorUnplug c => Sys2Proof.Machine.execConnectorUnplug c s
  | .connectorPlug c => Sys2Proof.Machine.execConnectorPlug c s
  | .lossOfLight l => Sys2Proof.Machine.execLossOfLight l s
  | .probePulse l heard => Sys2Proof.Machine.execProbePulse l heard s
  | .laneRelight l => Sys2Proof.Machine.execLaneRelight l s
  | .fabricCapability p lo hi id reach key => Sys2Proof.Machine.execFabricCapability p lo hi id reach key s
  | .fabricFlit p seq lane ok load => Sys2Proof.Machine.execFabricFlit p seq lane ok load s
  | .restripe p => Sys2Proof.Machine.execRestripe p s
  | .portDownNotice source lost => Sys2Proof.Machine.execPortDownNotice source lost s
  | .laneRetire a l => Sys2Proof.Machine.execLaneRetire a l s
  | .laneRestore a l => Sys2Proof.Machine.execLaneRestore a l s
  | .laneRetrained l ok => Sys2Proof.Machine.execLaneRetrained l ok s
  | .laserBayFault b => Sys2Proof.Machine.execLaserBayFault b s
  | .membershipLoad a rank size => Sys2Proof.Machine.execMembershipLoad a rank size s
  | .openCtx a => Sys2Proof.Machine.execOpenCtx a s
  | .closeCtx a ctx => Sys2Proof.Machine.execCloseCtx a ctx s
  | .closeComplete ctx => Sys2Proof.Machine.execCloseComplete ctx s
  | .remoteWrite ctx msg => Sys2Proof.Machine.execRemoteWrite ctx msg s
  | .remoteWriteAck ctx num refused => Sys2Proof.Machine.execRemoteWriteAck ctx num refused s
  | .resendTimeout ctx => Sys2Proof.Machine.execResendTimeout ctx s
  | .connectionFailure ctx => Sys2Proof.Machine.execConnectionFailure ctx s
  | .timeMessage p offsetPs hops => Sys2Proof.Machine.execTimeMessage p offsetPs hops s
  | .snap a => Sys2Proof.Machine.execSnap a s
  | .keyFlood heard => Sys2Proof.Machine.execKeyFlood heard s
  | .electWaitExpiry => Sys2Proof.Machine.execElectWaitExpiry s
  | .announcement => Sys2Proof.Machine.execAnnouncement s
  | .announcementReceive p an => Sys2Proof.Machine.execAnnouncementReceive p an s
  | .lossTimeout => Sys2Proof.Machine.execLossTimeout s
  | .holdoverLimitExpiry => Sys2Proof.Machine.execHoldoverLimitExpiry s
  | .rejoin a => Sys2Proof.Machine.execRejoin a s
  | .scheduleLoad a nslots => Sys2Proof.Machine.execScheduleLoad a nslots s
  | .scheduleActivate => Sys2Proof.Machine.execScheduleActivate s
  | .ethTxDoorbell a e tail => Sys2Proof.Machine.execEthTxDoorbell a e tail s
  | .frameTransmitted e => Sys2Proof.Machine.execFrameTransmitted e s
  | .frameReceived e f => Sys2Proof.Machine.execFrameReceived e f s
  | .ptpMessage e siteTime locked => Sys2Proof.Machine.execPtpMessage e siteTime locked s
  | .allreduce => Sys2Proof.Machine.execAllreduce s
  | .reducescatter => Sys2Proof.Machine.execReducescatter s
  | .allgather => Sys2Proof.Machine.execAllgather s
  | .alltoall => Sys2Proof.Machine.execAlltoall s
  | .broadcast => Sys2Proof.Machine.execBroadcast s
  | .put => Sys2Proof.Machine.execPut s
  | .commit => Sys2Proof.Machine.execCommit s
  | .collectiveMessage ctx w0 w1 data => Sys2Proof.Machine.execCollectiveMessage ctx w0 w1 data s
  | .flagRoundStart job => Sys2Proof.Machine.execFlagRoundStart job s
  | .flagRoundMessage job pos down nf => Sys2Proof.Machine.execFlagRoundMessage job pos down nf s
  | .componentFault c => Sys2Proof.Machine.execComponentFault c s
  | .heartbeatTimeout c => Sys2Proof.Machine.execHeartbeatTimeout c s
  | .componentRestart c => Sys2Proof.Machine.execComponentRestart c s
  | .firmwareLoad a target override => Sys2Proof.Machine.execFirmwareLoad a target override s
  | .reload a target override => Sys2Proof.Machine.execReload a target override s
  | .firmwareLoaded => Sys2Proof.Machine.execFirmwareLoaded s
  | .reloadQlimitExpiry => Sys2Proof.Machine.execReloadQlimitExpiry s
  | .interfaceSelect a sel => Sys2Proof.Machine.execInterfaceSelect a sel s
  | .riskUpdate => Sys2Proof.Machine.execRiskUpdate s
  | .tidemarkArm a job => Sys2Proof.Machine.execTidemarkArm a job s
  | .take a job => Sys2Proof.Machine.execTake a job s
  | .tidemarkCancel a job => Sys2Proof.Machine.execTidemarkCancel a job s
  | .intervalExpiry job => Sys2Proof.Machine.execIntervalExpiry job s
  | .tidemarkRequest job target down => Sys2Proof.Machine.execTidemarkRequest job target down s
  | .refuse job target down => Sys2Proof.Machine.execRefuse job target down s
  | .captureDone job => Sys2Proof.Machine.execCaptureDone job s
  | .shardOffer o => Sys2Proof.Machine.execShardOffer o s
  | .offerAnswer job accept id feed => Sys2Proof.Machine.execOfferAnswer job accept id feed s
  | .sealAck job holder => Sys2Proof.Machine.execSealAck job holder s
  | .restore a job => Sys2Proof.Machine.execRestore a job s
  | .tidemarkRelease a job => Sys2Proof.Machine.execTidemarkRelease a job s
  | .restoreDone shards => Sys2Proof.Machine.execRestoreDone shards s
  | .powerOn b => Sys2Proof.Machine.execPowerOn b s
  | .report a => Sys2Proof.Machine.execReport a s
  | .reportComplete => Sys2Proof.Machine.execReportComplete s
  | .idcert a => Sys2Proof.Machine.execIdcert a s
  | .treePrepared => Sys2Proof.Machine.execTreePrepared s
  | .updateStage a target => Sys2Proof.Machine.execUpdateStage a target s
  | .updateConfirm a target => Sys2Proof.Machine.execUpdateConfirm a target s
  | .updateCancel a target => Sys2Proof.Machine.execUpdateCancel a target s
  | .svnCommit a kind => Sys2Proof.Machine.execSvnCommit a kind s
  | .lifecycleRetire a confirm => Sys2Proof.Machine.execLifecycleRetire a confirm s
  | .transfer a record => Sys2Proof.Machine.execTransfer a record s
  | .logCopy a start count => Sys2Proof.Machine.execLogCopy a start count s
  | .logFlashWrite => Sys2Proof.Machine.execLogFlashWrite s
  | .sensorSample r => Sys2Proof.Machine.execSensorSample r s
  | .ageingFit f => Sys2Proof.Machine.execAgeingFit f s
  | .ident => Sys2Proof.Machine.execIdent s
  | .sidebandStatus => Sys2Proof.Machine.execSidebandStatus s
  | .recoveryData data => Sys2Proof.Machine.execRecoveryData data s
  | .recoveryCommit => Sys2Proof.Machine.execRecoveryCommit s
  | .getVersion p => Sys2Proof.Machine.execGetVersion p s
  | .getCapabilities p => Sys2Proof.Machine.execGetCapabilities p s
  | .negotiateAlgorithms p ok => Sys2Proof.Machine.execNegotiateAlgorithms p ok s
  | .getDigests p => Sys2Proof.Machine.execGetDigests p s
  | .getCertificate p off len => Sys2Proof.Machine.execGetCertificate p off len s
  | .challenge p nonce => Sys2Proof.Machine.execChallenge p nonce s
  | .getMeasurements p index nonce => Sys2Proof.Machine.execGetMeasurements p index nonce s
  | .keyExchange p session => Sys2Proof.Machine.execKeyExchange p session s
  | .finish p session ok ide => Sys2Proof.Machine.execFinish p session ok ide s
  | .endSession p session => Sys2Proof.Machine.execEndSession p session s
  | .underVoltage mv us => Sys2Proof.Machine.execUnderVoltage mv us s
  | .overVoltage mv us => Sys2Proof.Machine.execOverVoltage mv us s
  | .overCurrent ma us => Sys2Proof.Machine.execOverCurrent ma us s
  | .domainFail n => Sys2Proof.Machine.execDomainFail n s
  | .modeRequest a req => Sys2Proof.Machine.execModeRequest a req s
  | .modeChangeDone => Sys2Proof.Machine.execModeChangeDone s
  | .modeQlimitExpiry => Sys2Proof.Machine.execModeQlimitExpiry s
  | .idleSlackExpiry => Sys2Proof.Machine.execIdleSlackExpiry s
  | .slackEntry => Sys2Proof.Machine.execSlackEntry s
  | .slackExitDone => Sys2Proof.Machine.execSlackExitDone s
  | .capControl watts us => Sys2Proof.Machine.execCapControl watts us s
  | .referenceFail => Sys2Proof.Machine.execReferenceFail s
  | .write => Sys2Proof.Machine.execWrite s
  | .unitCommit => Sys2Proof.Machine.execUnitCommit s
  | .trim => Sys2Proof.Machine.execTrim s
  | .shingleDoorbell a tail => Sys2Proof.Machine.execShingleDoorbell a tail s
  | .qreset a => Sys2Proof.Machine.execQreset a s
  | .sanitize a => Sys2Proof.Machine.execSanitize a s
  | .wearLevelling block => Sys2Proof.Machine.execWearLevelling block s
  | .readDisturbRefresh block => Sys2Proof.Machine.execReadDisturbRefresh block s
  | .blockRetire block => Sys2Proof.Machine.execBlockRetire block s
  | .prefetchStart a job => Sys2Proof.Machine.execPrefetchStart a job s
  | .prefetchStop a job => Sys2Proof.Machine.execPrefetchStop a job s
  | .prefetchResume a job => Sys2Proof.Machine.execPrefetchResume a job s
  | .prefetchCopy job => Sys2Proof.Machine.execPrefetchCopy job s
  | .prefetchStage job => Sys2Proof.Machine.execPrefetchStage job s
  | .mark job => Sys2Proof.Machine.execMark job s
  | .prefetchEntryDone job => Sys2Proof.Machine.execPrefetchEntryDone job s
  | .shortPress => Sys2Proof.Machine.execShortPress s
  | .longPress => Sys2Proof.Machine.execLongPress s
  | .selectTimeout => Sys2Proof.Machine.execSelectTimeout s
  | .baySafe => Sys2Proof.Machine.execBaySafe s
  | .swapWindowExpiry => Sys2Proof.Machine.execSwapWindowExpiry s
  | .bayLatchOpen b => Sys2Proof.Machine.execBayLatchOpen b s
  | .bayFitted b r => Sys2Proof.Machine.execBayFitted b r s
  | .quiesceBay a b => Sys2Proof.Machine.execQuiesceBay a b s
  | .frontCancel a => Sys2Proof.Machine.execFrontCancel a s
  | .removeAck a => Sys2Proof.Machine.execRemoveAck a s
  | .graceExpiry => Sys2Proof.Machine.execGraceExpiry s
  | .powerDownDone => Sys2Proof.Machine.execPowerDownDone s
  | .leverOpen => Sys2Proof.Machine.execLeverOpen s
  | .leverClose => Sys2Proof.Machine.execLeverClose s
  | .landwardLinkL0 p lanes rate => Sys2Proof.Machine.execLandwardLinkL0 p lanes rate s
  | .tideSlotStart => Sys2Proof.Machine.execTideSlotStart s
  | .updateSlotWritten => Sys2Proof.Machine.execUpdateSlotWritten s
  | .sanitizeDone => Sys2Proof.Machine.execSanitizeDone s
  | .logCopyDone => Sys2Proof.Machine.execLogCopyDone s
  | .msixUnmask p vector => Sys2Proof.Machine.execMsixUnmask p vector s
  | .ethernetLinkChange e up => Sys2Proof.Machine.execEthernetLinkChange e up s
  | .frBaseWrite a v => Sys2Proof.Machine.execFrBaseWrite a v s

end Sys2Proof.Machine
end

