-- ==== Sys2Proof/Machine/Redo.lean ====
section
/-!
DEFINITION. What waits for a line of its own at the home, and goes on when time passes (R193, R205): commands of Harbour's own agents that
read memory, received frames, a queue reset, and migrations that wait for a frame. DESIGN CHOICE: log entry 16.
-/

namespace Sys2Proof.Machine

/-- The state a step leaves. -/
def afterStep (s : State) : Host.Outcome State Fault Refusal → State
  | .next t => t
  | _ => s

/-- Try a command again. -/
def State.redo (s : State) (c : Instr) : State :=
  match c with
  | .membershipLoad a rank size => afterStep s (execMembershipLoad a rank size s)
  | .openCtx a => afterStep s (execOpenCtx a s)
  | .scheduleLoad a n => afterStep s (execScheduleLoad a n s)
  | .firmwareLoad a t o => afterStep s (execFirmwareLoad a t o s)
  | .reload a t o => afterStep s (execReload a t o s)
  | .updateStage a t => afterStep s (execUpdateStage a t s)
  | .tidemarkArm a j => afterStep s (execTidemarkArm a j s)
  | .restore a j => afterStep s (execRestore a j s)
  | .tidemarkRelease a j => afterStep s (execTidemarkRelease a j s)
  | _ => s

/-- Everything that waits for the home is tried again, in order. -/
def State.goOn (s : State) : State :=
  let s1 := s.m.dir.again.foldl State.redo { s with m := { s.m with dir := { s.m.dir with again := [] } } }
  let m1 := if s1.m.sg.resetTo.isSome then s1.m.sgResume else s1.m
  let m2 := if m1.sw.ethHeld.isEmpty then m1 else m1.ethDrain
  { s1 with m := m2.startMigs }

end Sys2Proof.Machine
end

