-- ==== Sys2Proof/Machine/Tick.lean ====
section
/-!
DEFINITION. What passes when no command waits: one nanosecond of Lighthouse's local counter (R256), and of the Tide count
while it runs (R323), with its slewing (R321, R322, R339). Every other deadline is a command of its own.
-/

namespace Sys2Proof.Machine

/-- Femtoseconds that one nanosecond of slewing removes: 10 ppm toward the upstream's time, 1 ppm when a master steers toward
site time. DEDUCED: log entry 41. -/
def Mach.slewStep (m : Mach) : Int :=
  let lim : Int := if m.fget Reg.TD_STATE_STATE = 2 then 1 else 10
  max (-lim) (min lim m.td.slew)

/-- One nanosecond of the Tide count (R323): it stands while STILL, and otherwise moves by one, or by none or two as the
slewing makes it. -/
def Mach.tideTick (m : Mach) : Mach :=
  if m.tideUnset then m
  else if m.flag Reg.TD_STATE_STILL then
    let m1 := { m with td := { m.td with still := m.td.still - 1 } }
    if m.td.still ≤ 1 then m1.fset Reg.TD_STATE_STILL 0 else m1
  else
    let d := m.slewStep
    let f := m.td.frac + d
    let turn : Int := if 1000000 ≤ f then 1 else if f ≤ -1000000 then -1 else 0
    let m1 := { m with td := { m.td with
      slew := m.td.slew - d
      frac := f - turn * 1000000 } }
    m1.rset Reg.TD_NOW (m1.rget Reg.TD_NOW + BitVec.ofInt 64 (1 + turn))

/-- The harts that compare with the local counter (R256) take a timer interrupt that has come due. -/
def Mach.hartTick (m : Mach) : Mach := m.timedHarts.foldl (fun a h => if a.hartRuns h then a.hartIrq h else a) m

/-- Cycles of a die's arithmetic clock that begin in the nanosecond that ends now. -/
def Mach.cyclesNow (m : Mach) (d : Nat) : Nat :=
  let f := m.fget (Reg.PW_CLK_MHZ d)
  m.ns * f / 1000 - (m.ns - 1) * f / 1000

/-- The counters of an engine with a command in it (R78, R101): its cycles, those of them in which it is held for operands, which is
timing that the manual leaves to the part, and what the state register shows of that. DESIGN CHOICE: log entry 62. -/
def Mach.engineTick (m : Mach) (c : Cmd) : Mach :=
  let d := c.tgt / 48
  let k := c.tgt % 48
  let n := m.cyclesNow d
  let f := m.fresh
  let held := (Config.openWord 1 f.1).toNat % (n + 1)
  let bit := if held = 0 then 0 else 1
  if c.eng = 1 then
    (((f.2.fadd (Reg.RF_MX_CYC_BUSY_COUNT d k) n).fadd (Reg.RF_MX_CYC_HELD_COUNT d k) held).fset (Reg.RF_MX_STATE_HELD d k) bit).fset
      (Reg.RF_MX_STATE_DRAINING d k) (if Config.openBit 2 f.1 then 1 else 0)
  else if c.eng = 2 then (f.2.fadd (Reg.RF_MV_CYC_BUSY_COUNT d k) n).fadd (Reg.RF_MV_CYC_HELD_COUNT d k) held
  else ((f.2.fadd (Reg.RF_VX_CYC_BUSY_COUNT d k) n).fadd (Reg.RF_VX_CYC_WAIT_COUNT d k) held).fset (Reg.RF_VX_STATE_WAIT d k) bit

/-- Every engine of a core with a command in it counts. -/
def Mach.cycleTick (m : Mach) : Mach :=
  (m.js.cmds.filter (fun c => c.phase == .running && decide (c.tgt < 192) && decide (1 ≤ c.eng) && decide (c.eng ≤ 3))).foldl
    Mach.engineTick m

/-- The guard of the present slot ends: scheduled transmissions begin (R332, R334). -/
def Mach.slotTick (m : Mach) : Mach :=
  match m.td.slot with
  | some k => if !m.sw.queue.isEmpty ∧ m.guardOver k then m.txServe else m
  | none => m

/-- One nanosecond. DESIGN CHOICE: log entry 4. -/
def Mach.tick (m : Mach) : Mach := ({ m with ns := m.ns + 1 }).tideTick.slotTick.hartTick.cycleTick

/-- A step on an empty queue: what waits for the home is tried again, and a nanosecond passes. DESIGN CHOICE: log entry 4. -/
def idle (s : State) : Host.Outcome State Fault Refusal := (if s.m.down then s else s.goOn).act Mach.tick

end Sys2Proof.Machine
end

