-- ==== Sys2Proof/Machine/Step.lean ====
section
/-!
DEFINITION. One step: the command at the front of the queue, with the rest of the queue; an empty queue lets a nanosecond
of the module's clocks pass.
-/

namespace Sys2Proof.Machine

/-- One step; racing commands take effect in the order of the queue (R209; DESIGN CHOICE: log entry 6). -/
def step (s : State) : Host.Outcome State Fault Refusal :=
  match s.pending with
  | [] => Sys2Proof.Machine.idle s
  | c :: rest => Sys2Proof.Machine.exec c { s with pending := rest }

/-- The table gives no row bits, so no word spells a command and the state stands unchanged. DESIGN CHOICE: log entry 3. -/
def State.withFetchWord (s : State) (nbits w : Nat) : State :=
  match Sys2Proof.decodeTableWord nbits w with
  | some c => { s with pending := c :: s.pending }
  | none => s

end Sys2Proof.Machine
end

