-- ==== Sys2Proof/WellFormed.lean ====
section
/-!
DEFINITION. Which command terms describe something that can reach the module: sizes, lengths and lists whose types are wider than
what the hardware can send or report. The meanings are total on every term.
-/

namespace Sys2Proof

/-- A register or aperture access moves 1 to 64 bytes. -/
def sizeOk (n : Nat) : Bool := decide (0 < n) && decide (n ≤ 64)

/-- `n` bytes from an address stay within their unit of `u` bytes. -/
def partOk (pa u n : Nat) : Bool := decide (0 < n) && decide (pa % u + n ≤ u)

/-- A write stays within its 64-byte line, and an atomic is naturally aligned (R51, R200). -/
def writeOk (pa : Nat) (w : WriteOp) : Bool :=
  match w with
  | .store data => partOk pa 64 data.length
  | .atomic .iadd64 _ => pa % 8 == 0
  | .atomic _ _ => pa % 4 == 0

/-- Each symbol of a codeword is in error at most once, and by something (R154). -/
def errsOk (errs : List (Fin 36 × Byte)) : Bool := decide (errs.map Prod.fst).Nodup && errs.all (fun e => e.2 != 0)

/-- A partner request writes what its length says, and a read or an atomic stores nothing. -/
def requestOk (acc : Access) (len : Nat) (w : WriteOp) : Bool :=
  match acc, w with
  | .write, .store data => data.length == len
  | .atomic, .atomic op _ => len == (if op = .iadd64 then 8 else 4)
  | .read, .store data => data.isEmpty
  | _, _ => false

/-- A CXL.mem write carries a whole line (R268). -/
def lineOk (w : Option (List Byte)) : Bool :=
  match w with
  | some data => data.length == 64
  | none => true

/-- A message's hop count fits its field of R315. -/
def hopsOk (msg : Option FabMsg) : Bool :=
  match msg with
  | some f => decide (f.hops < 64)
  | none => true

/-- What a boot reports is listed once. -/
def bootOk (b : BootInfo) : Bool :=
  decide b.lostGroups.Nodup && decide b.sparedWires.Nodup && decide b.badStacks.Nodup && decide b.badShelf.Nodup &&
    decide b.badLanes.Nodup && decide b.badDomains.Nodup && decide (b.far.map Prod.fst).Nodup

/-- Whether a command term is well-formed. -/
def wellFormed (i : Instr) : Bool :=
  match i with
  | .registerWrite _ _ size _ => sizeOk size
  | .accessNotPerformed _ _ size _ => sizeOk size
  | .unassignedAccess _ _ size _ => sizeOk size
  | .reservedRangeAccess _ _ _ => true
  | .shingleWriteDiscard _ _ => true
  | .rds _ _ => true
  | .rdo _ _ => true
  | .upg _ _ => true
  | .wb _ _ _ => true
  | .evictionNotice _ _ _ => true
  | .nonCachingWrite _ pa _ w => writeOk pa.toNat w
  | .engineRead _ _ _ _ => true
  | .snoopResponse _ _ _ => true
  | .completionAck _ => true
  | .snoopTimeout _ _ => true
  | .demandRead _ _ errs => errsOk errs
  | .codewordWrite pa _ data => partOk pa.toNat 32 data.length
  | .scrub _ errs => errsOk errs
  | .shingleRead _ _ => true
  | .generate _ _ => true
  | .erase _ _ => true
  | .keyCommandDone => true
  | .create _ _ => true
  | .destroy _ _ => true
  | .destroyComplete _ => true
  | .sqDoorbell _ _ _ _ => true
  | .hbDbEvent _ _ _ _ => true
  | .ringResume _ _ _ => true
  | .ringReset _ _ _ => true
  | .cqHeadWrite _ _ _ => true
  | .eqHeadWrite _ _ _ => true
  | .cqBatchTimeout _ => true
  | .commandFetch _ _ => true
  | .commandDispatch _ _ => true
  | .commandComplete _ _ => true
  | .switchOut _ _ => true
  | .faultLimitExpiry _ _ => true
  | .watchdogExpiry _ _ => true
  | .stepBoundary _ => true
  | .nop _ => true
  | .fence _ => true
  | .flush _ => true
  | .stepend _ => true
  | .selftest _ _ => true
  | .poolclear _ => true
  | .copy _ => true
  | .stage _ => true
  | .fill _ => true
  | .gemm _ => true
  | .conv _ => true
  | .mv _ => true
  | .matrixPass _ => true
  | .mxCntClr _ _ => true
  | .planFlush _ _ => true
  | .chain _ => true
  | .chainChunk _ => true
  | .program _ => true
  | .vxCntClr _ _ => true
  | .nfClr _ _ => true
  | .vadd _ _ => true
  | .vsub _ _ => true
  | .vmul _ _ => true
  | .vfma _ _ => true
  | .vfnma _ _ => true
  | .vdiv _ _ => true
  | .vsqrt _ _ => true
  | .vrcp _ _ => true
  | .vrsq _ _ => true
  | .vexp2 _ _ => true
  | .vlog2 _ _ => true
  | .vexp _ _ => true
  | .vlog _ _ => true
  | .vtanh _ _ => true
  | .vsigm _ _ => true
  | .verf _ _ => true
  | .vmin _ _ => true
  | .vmax _ _ => true
  | .vabs _ _ => true
  | .vneg _ _ => true
  | .vcmpeq _ _ => true
  | .vcmplt _ _ => true
  | .vcmple _ _ => true
  | .visnf _ _ => true
  | .vsel _ _ => true
  | .viadd _ _ => true
  | .visub _ _ => true
  | .vimul _ _ => true
  | .vand _ _ => true
  | .vor _ _ => true
  | .vxor _ _ => true
  | .vshl _ _ => true
  | .vshr _ _ => true
  | .vsra _ _ => true
  | .vimin _ _ => true
  | .vimax _ _ => true
  | .viota _ _ => true
  | .vcvt _ _ => true
  | .vrsum _ _ => true
  | .vrmax _ _ => true
  | .vmov _ _ => true
  | .vbcast _ _ => true
  | .vperm _ _ => true
  | .vld _ _ => true
  | .vst _ _ => true
  | .vgather _ _ => true
  | .vscatter _ _ => true
  | .vscadd _ _ => true
  | .pageWalk _ _ _ _ => true
  | .faultRetry _ => true
  | .frHeadWrite _ _ => true
  | .hbFltResolve _ _ _ => true
  | .tlbi _ _ _ _ => true
  | .tlbiComplete => true
  | .mpTailWrite _ _ => true
  | .migrationComplete _ poisoned => decide poisoned.Nodup
  | .evict _ _ _ => true
  | .evictionComplete => true
  | .limtosCapability _ _ _ _ _ => true
  | .limtosFlit _ _ _ groups => decide (groups.map (fun g => g.g)).Nodup
  | .spareSwitch _ _ _ => true
  | .narrowingResume _ => true
  | .partnerRequest acc pa len w => partOk pa.toNat 64 len && requestOk acc len w
  | .rateAllowanceRelease => true
  | .partnerMsix _ => true
  | .apertureAccess _ _ size _ _ => sizeOk size
  | .bwWindowWrite _ _ _ _ => true
  | .windowRecallDone _ => true
  | .retrain _ _ _ => true
  | .partnerLinkDown => true
  | .clockLoss _ => true
  | .dieReset _ => true
  | .hbDieFence _ _ => true
  | .dieFenceInvalidate _ => true
  | .readmit _ _ => true
  | .restoringComplete _ r => decide r.lost.Nodup && decide (r.spared.map (fun x => (x.1, x.2.1))).Nodup
  | .poisonedLoad _ _ _ => true
  | .vfredusum _ _ _ _ _ _ _ => true
  | .wrsWake _ => true
  | .hartStart _ _ => true
  | .claim as => !as.isEmpty && decide as.Nodup
  | .release _ => true
  | .interruptDelivery _ => true
  | .recoveryEntry _ => true
  | .recoveryExit _ _ _ => true
  | .recoveryLimitExpiry _ => true
  | .linkDown _ => true
  | .perstAssert _ => true
  | .hotReset _ => true
  | .functionLevelReset _ => true
  | .epochArm _ _ _ => true
  | .fenceRead _ => true
  | .fenceReadDone => true
  | .routeChange _ _ => true
  | .routeChangeDone => true
  | .cxlMemRequest _ _ w => lineOk w
  | .configRequest _ => true
  | .landwardWriteAck _ => true
  | .pixel => true
  | .tokens => true
  | .unitAssign _ => true
  | .pictureBoundary _ _ _ => true
  | .sampleDecodeEnd _ _ _ => true
  | .lateEviction _ _ => true
  | .intakeBatchComplete _ _ => true
  | .connectorUnplug _ => true
  | .connectorPlug _ => true
  | .lossOfLight _ => true
  | .probePulse _ _ => true
  | .laneRelight _ => true
  | .fabricCapability _ _ _ _ _ _ => true
  | .fabricFlit _ _ _ _ load => hopsOk load.msg
  | .restripe _ => true
  | .portDownNotice _ _ => true
  | .laneRetire _ _ => true
  | .laneRestore _ _ => true
  | .laneRetrained _ _ => true
  | .laserBayFault _ => true
  | .membershipLoad _ _ _ => true
  | .openCtx _ => true
  | .closeCtx _ _ => true
  | .closeComplete _ => true
  | .remoteWrite _ msg => !msg.data.isEmpty || msg.sig.isSome
  | .remoteWriteAck _ _ _ => true
  | .resendTimeout _ => true
  | .connectionFailure _ => true
  | .timeMessage _ _ _ => true
  | .snap _ => true
  | .keyFlood _ => true
  | .electWaitExpiry => true
  | .announcement => true
  | .announcementReceive _ _ => true
  | .lossTimeout => true
  | .holdoverLimitExpiry => true
  | .rejoin _ => true
  | .scheduleLoad _ _ => true
  | .scheduleActivate => true
  | .ethTxDoorbell _ _ _ => true
  | .frameTransmitted _ => true
  | .frameReceived _ _ => true
  | .ptpMessage _ _ _ => true
  | .allreduce => true
  | .reducescatter => true
  | .allgather => true
  | .alltoall => true
  | .broadcast => true
  | .put => true
  | .commit => true
  | .collectiveMessage _ _ _ _ => true
  | .flagRoundStart _ => true
  | .flagRoundMessage _ _ _ _ => true
  | .componentFault _ => true
  | .heartbeatTimeout _ => true
  | .componentRestart _ => true
  | .firmwareLoad _ _ _ => true
  | .reload _ _ _ => true
  | .firmwareLoaded => true
  | .reloadQlimitExpiry => true
  | .interfaceSelect _ _ => true
  | .riskUpdate => true
  | .tidemarkArm _ _ => true
  | .take _ _ => true
  | .tidemarkCancel _ _ => true
  | .intervalExpiry _ => true
  | .tidemarkRequest _ _ _ => true
  | .refuse _ _ _ => true
  | .captureDone _ => true
  | .shardOffer o => !o.data.isEmpty
  | .offerAnswer _ _ _ _ => true
  | .sealAck _ _ => true
  | .restore _ _ => true
  | .tidemarkRelease _ _ => true
  | .restoreDone _ => true
  | .powerOn b => bootOk b
  | .report _ => true
  | .reportComplete => true
  | .idcert _ => true
  | .treePrepared => true
  | .updateStage _ _ => true
  | .updateConfirm _ _ => true
  | .updateCancel _ _ => true
  | .svnCommit _ _ => true
  | .lifecycleRetire _ _ => true
  | .transfer _ _ => true
  | .logCopy _ _ _ => true
  | .logFlashWrite => true
  | .sensorSample r => decide (r.temps.map Prod.fst).Nodup && decide (r.rails.map Prod.fst).Nodup
  | .ageingFit f => f.laserHours.length == 4 && f.headroom.length == 4
  | .ident => true
  | .sidebandStatus => true
  | .recoveryData data => !data.isEmpty && decide (data.length ≤ 255)
  | .recoveryCommit => true
  | .getVersion _ => true
  | .getCapabilities _ => true
  | .negotiateAlgorithms _ _ => true
  | .getDigests _ => true
  | .getCertificate _ off len => decide (off < 65536) && decide (len < 65536)
  | .challenge _ _ => true
  | .getMeasurements _ _ _ => true
  | .keyExchange _ _ => true
  | .finish _ _ _ _ => true
  | .endSession _ _ => true
  | .underVoltage _ _ => true
  | .overVoltage _ _ => true
  | .overCurrent _ _ => true
  | .domainFail _ => true
  | .modeRequest _ _ => true
  | .modeChangeDone => true
  | .modeQlimitExpiry => true
  | .idleSlackExpiry => true
  | .slackEntry => true
  | .slackExitDone => true
  | .capControl _ _ => true
  | .referenceFail => true
  | .write => true
  | .unitCommit => true
  | .trim => true
  | .shingleDoorbell _ _ => true
  | .qreset _ => true
  | .sanitize _ => true
  | .wearLevelling _ => true
  | .readDisturbRefresh _ => true
  | .blockRetire _ => true
  | .prefetchStart _ _ => true
  | .prefetchStop _ _ => true
  | .prefetchResume _ _ => true
  | .prefetchCopy _ => true
  | .prefetchStage _ => true
  | .mark _ => true
  | .prefetchEntryDone _ => true
  | .shortPress => true
  | .longPress => true
  | .selectTimeout => true
  | .baySafe => true
  | .swapWindowExpiry => true
  | .bayLatchOpen _ => true
  | .bayFitted _ _ => true
  | .quiesceBay _ _ => true
  | .frontCancel _ => true
  | .removeAck _ => true
  | .graceExpiry => true
  | .powerDownDone => true
  | .leverOpen => true
  | .leverClose => true
  | .landwardLinkL0 _ _ _ => true
  | .tideSlotStart => true
  | .updateSlotWritten => true
  | .sanitizeDone => true
  | .logCopyDone => true
  | .msixUnmask _ _ => true
  | .ethernetLinkChange _ _ => true
  | .frBaseWrite _ _ => true

end Sys2Proof
end

