-- ==== Sys2Proof/Safety.lean ====
section
/-!
DEFINITION. What statements say of runs: that a command completes, that memory and the registers are held in their one canonical
form, and that the commands waiting are well-formed.
-/

namespace Sys2Proof

open Sys2Proof.Machine

/-- The module is on: it takes every command. -/
abbrev On (s : State) : Prop := s.m.down = false

/-- A command completes with the machine `m`, and leaves the queue as it was. -/
def Gives (i : Instr) (s : State) (m : Mach) : Prop := exec i s = .next { s with m := m }

/-- A command completes, it leaves the queue, and `P` holds of the machine it leaves. -/
def Completes (i : Instr) (s : State) (P : Mach → Prop) : Prop := ∃ m, Gives i s m ∧ P m

/-- An agent may write the owner's registers (R258): Lighthouse, or the agent that OWNER names. -/
def MayOwn (m : Mach) (a : Agent) : Prop :=
  a = .lighthouse ∨ (m.fget Reg.HL_DRV_OWNER_OWNER ≠ 0 ∧ a.ownerCode = m.fget Reg.HL_DRV_OWNER_OWNER)

/-- Every waiting command is well-formed. -/
def QueueOk (s : State) : Prop := ∀ i ∈ s.pending, wellFormed i = true

/-- Everything but the register file is as it was: what a command that only writes registers leaves alone. -/
def OnlyRegs (s : State) (m : Mach) : Prop := { m with regs := s.m.regs } = s.m

end Sys2Proof
end

