-- ==== Sys2Proof/Certificates/Slice0/Obligations.lean ====
section
/-!
DEFINITION. The statements for the provers. Completion statements say, family by family of the table, that a command answers the next
state its rules give, for states and operands that meet the conditions named; the last part states what holds of the machine as a
whole.
-/

section

open Sys2Proof Sys2Proof.Machine

/-! Registers and the address map -/

/-- A register whose write neither begins a command, nor belongs to the owner alone, nor is a row of its own: nothing but its
value follows the write. -/
def Sys2Proof.quietReg (r : Nat) : Bool :=
  !ownerOnly r && codeFields.all (fun c => c.1 != r) && r != Reg.LH_LIFE_CMD && r != Reg.HB_DIE_CMD && r != Reg.SG_CQ_HEAD &&
    r != Reg.SG_CQ_BASE && r != Reg.HB_TM_AREA_LEN && r != Reg.PW_MODE && !(decide (Reg.BW_ID < r) && decide (r < Reg.HL_ID)) &&
    r != Reg.LW_FLINE 0 && r != Reg.LW_FLINE 1 && !(decide (Reg.HB_DB_SQ_TAIL 0 0 ≤ r) && decide (r < Reg.HB_DB_SQ_TAIL 64 0))

/-- REGISTER_WRITE (R7, R8, R458): the register takes the bits written by their access codes, and nothing else changes; a write to
HB_DB_EVENT acts once, as the row of its own, a half not written taken as zeros. An access that R7 does not perform, and one to an
unassigned address (R15), answers all ones to a read, changes nothing on a write and is logged, and at a hart of Headland it takes an
access fault as well (R252); a read of a reserved range is poisoned and its write discarded, both logged (R18); a write to Shingle is
discarded and logged (R19). -/
def Obligations.RegisterAccesses : Prop :=
  ∀ (s : State) (a : Agent) (addr : BitVec 52) (size : Nat), On s →
    (∀ (v : Word) (d : RegDef), tierOf addr.toNat = .registers → accessOk addr.toNat size = true →
      Reg.rowAt (regWriteOf addr.toNat size v).reg = some d → s.m.rowFor a (regWriteOf addr.toNat size v) = none →
      triggers a (.registerWrite a addr size v) (regWriteOf addr.toNat size v) = [] →
      s.m.lostWindow (regWriteOf addr.toNat size v).reg = false →
      Agent.reaches a (regWriteOf addr.toNat size v).reg = true → quietReg (regWriteOf addr.toNat size v).reg = true →
      (s.m.lh.booted = false ∨ (regWriteOf addr.toNat size v).mask &&& accMask d .rwl = 0) →
      Completes (.registerWrite a addr size v) s (fun m => OnlyRegs s m ∧
        m.rget (regWriteOf addr.toNat size v).reg = s.m.written d (regWriteOf addr.toNat size v) ∧
        ∀ r, r ≠ (regWriteOf addr.toNat size v).reg → m.rget r = s.m.rget r)) ∧
    (∀ (job : Fin 64) (v : Word), addr.toNat = Reg.HB_DB_EVENT job.val →
      exec (.registerWrite a addr 8 v) s = exec (.hbDbEvent a job (v.setWidth 8) ((v >>> 16).setWidth 48)) s ∧
      exec (.registerWrite a addr 4 v) s = exec (.hbDbEvent a job (v.setWidth 8) (((v.setWidth 32 : BitVec 32) >>> 16).setWidth 48)) s) ∧
    (∀ i : Bool → Instr, tierOf addr.toNat = .registers →
      (accessOk addr.toNat size = false ∧ i = .accessNotPerformed a addr size) ∨
        (accessOk addr.toNat size = true ∧ Reg.rowAt (addr.toNat / 8 * 8) = none ∧
          (addr.toNat < apertureBase ∨ apertureBase + 0x800000 ≤ addr.toNat) ∧ i = .unassignedAccess a addr size) →
      ((∀ h : Fin 64, a ≠ .headland h) →
        Gives (i true) s (s.m.logE 0x01 0 0 noJob addr.toNat) ∧
        Gives (i false) s ((s.m.logE 0x01 0 0 noJob addr.toNat).emit (.regData (BitVec.allOnes 64)))) ∧
      (∀ h : Fin 64, a = .headland h →
        Gives (i true) s ((s.m.logE 0x01 0 0 noJob addr.toNat).accessFault h.val 7 (addr.setWidth 64)) ∧
        Gives (i false) s (((s.m.logE 0x01 0 0 noJob addr.toNat).emit (.regData (BitVec.allOnes 64))).accessFault h.val 5
          (addr.setWidth 64)))) ∧
    (Agent.coherent a = true → (tierOf addr.toNat = .reserved ∨ tierOf addr.toNat = .shingleBeyond) →
      Gives (.reservedRangeAccess a addr true) s (s.m.logE 0x02 0 0 noJob addr.toNat) ∧
      ((∀ h : Fin 64, a ≠ .headland h) → Gives (.reservedRangeAccess a addr false) s
        ((s.m.logE 0x02 0 0 noJob addr.toNat).emit (.data 63 addr.toNat [] true))) ∧
      (∀ h : Fin 64, a = .headland h → Gives (.reservedRangeAccess a addr false) s
        (((s.m.logE 0x02 0 0 noJob addr.toNat).emit (.data 63 addr.toNat [] true)).accessFault h.val 5 (addr.setWidth 64)))) ∧
    (Agent.coherent a = true → tierOf addr.toNat = .shingle →
      Gives (.shingleWriteDiscard a addr) s (s.m.logE 0x02 0 0 noJob addr.toNat))

/-! The directory -/

/-- A line of Stack or Shelf that no transaction blocks, asked for by an agent other than the partner that is neither absent nor
quarantined, nor behind a landward port that is not armed, on a die in reach, in a directory with room (R197 to R202, R235, R279). -/
def Sys2Proof.homeIdle (m : Mach) (x line : Nat) : Prop :=
  (tierOf (line * 64) = .stack ∨ tierOf (line * 64) = .shelf) ∧ x ≠ 15 ∧ m.absent x = false ∧
  (x = 13 ∨ x = 14 → m.armed (x - 13) = true) ∧ m.quarantined x = false ∧ m.reach (line * 64) = true ∧ m.txn line = none ∧
  m.dir.lru.length < 16

/-- The directory's rows complete as R200 to R203, R247 and R249 have them. -/
def Obligations.DirectoryRowsComplete : Prop :=
  ∀ (s : State) (x y : Pos) (line : BitVec 46), On s →
    (homeIdle s.m x.val line.toNat → s.m.ent line.toNat = none → (isReadOnly x.val || isStreaming x.val) = true →
      Gives (.rds x line) s (((s.m.grantFrom x.val line.toNat 0 none).setEnt line.toNat (some (.s (vecAdd 0 x.val) none))).setTxn
        line.toNat (some ⟨.rds x.val, [], none, false, true, []⟩))) ∧
    (homeIdle s.m x.val line.toNat → s.m.ent line.toNat = none → (isReadOnly x.val || isStreaming x.val) = false →
      (8 < x.val ∨ (s.m.lineFor x.val line.toNat).2 = false →
        Gives (.rds x line) s (((s.m.grantFrom x.val line.toNat 2 none).setEnt line.toNat (some (.o x.val))).setTxn line.toNat
          (some ⟨.rds x.val, [], none, false, true, []⟩))) ∧
      (x.val ≤ 8 → (s.m.lineFor x.val line.toNat).2 = true →
        Gives (.rds x line) s ((s.m.grantFrom x.val line.toNat 0 none).setTxn line.toNat
          (some ⟨.rds x.val, [], none, false, true, []⟩)))) ∧
    (homeIdle s.m x.val line.toNat → isReadOnly x.val = false → s.m.ent line.toNat = none →
      Gives (.rdo x line) s ((((s.m.breakResv (some x.val) line.toNat).grantFrom x.val line.toNat 2 none).setEnt line.toNat
        (some (.o x.val))).setTxn line.toNat (some ⟨.rdo x.val, [], none, false, true, []⟩))) ∧
    (∀ f : Option Nat, homeIdle s.m x.val line.toNat → isReadOnly x.val = false →
      s.m.ent line.toNat = some (.s (vecAdd 0 x.val) f) →
      Gives (.upg x line) s ((((s.m.breakResv (some x.val) line.toNat).grant x.val line.toNat 2 none false).setEnt line.toNat
        (some (.o x.val))).setTxn line.toNat (some ⟨.upg x.val, [], none, false, true, []⟩))) ∧
    (∀ data : BitVec 512, y.val ≠ 15 → s.m.absent y.val = false → s.m.quarantined y.val = false →
      s.m.dir.dropWb.contains (line.toNat, y.val) = false → s.m.ent line.toNat = some (.o y.val) →
      (tierOf (line.toNat * 64) = .stack ∨ tierOf (line.toNat * 64) = .shelf) → s.m.reach (line.toNat * 64) = true →
      Gives (.wb y line data) s
        (((s.m.memWrite (s.m.posKey y.val (line.toNat * 64)) (line.toNat * 64) (leBytes 64 data.toNat)).1.setEnt line.toNat
          none).bwSettle.rwHome)) ∧
    (∀ f : Option Nat, s.m.absent x.val = false → s.m.quarantined x.val = false →
      (s.m.ent line.toNat = some (.s (vecAdd 0 x.val) f) ∨ s.m.ent line.toNat = some (.o x.val)) →
      Gives (.evictionNotice x line false) s (s.m.setEnt line.toNat none).bwSettle.rwHome) ∧
    (s.m.absent x.val = false → s.m.quarantined x.val = false → x.val ≤ 7 → s.m.ent line.toNat = some (.o x.val) →
      s.m.txn line.toNat = none → s.m.dir.lru.length < 16 →
      Gives (.evictionNotice x line true) s ((s.m.setEnt line.toNat (some (.o 8))).setTxn line.toNat none)) ∧
    (∀ (t : HomeTxn) (z : Nat) (d : BitVec 512), s.m.quarantined y.val = false → s.m.txn line.toNat = some t → t.req = .rds z →
      t.waits = [y.val] → t.poison = false → s.m.forwards y.val line.toNat t.req = true →
      Gives (.snoopResponse y line (.clean (some d))) s
        ((((s.m.complete line.toNat (.rds z) (some (leBytes 64 d.toNat, false))).setTxn line.toNat
          (some { t with waits := [], done := true })).dirRelieve line.toNat).bwSettle.rwHome)) ∧
    (∀ t : HomeTxn, s.m.txn line.toNat = some t → t.done = true → t.queue = [] →
      Gives (.completionAck line) s (((s.m.setTxn line.toNat none).dirRelieve line.toNat).bwSettle.rwHome)) ∧
    (∀ t : HomeTxn, ¬((y.val = 13 ∨ y.val = 14) ∧ s.m.recovering (y.val - 13) = true) → s.m.txn line.toNat = some t →
      t.waits.contains y.val = true →
      Gives (.snoopTimeout y line) s
        ((((((((s.m.poisonCount line.toNat).fadd Reg.HB_DIR_CNT_TIMEOUTS 1).setPosBit Reg.HB_DIR_QUAR_QUAR y.val true).logE
          0x06 0x0304 y.val noJob (line.toNat * 64)).setEnt line.toNat none).finishTxn line.toNat { t with poison := true }
          none).dirRelieve line.toNat).bwSettle.rwHome))

/-- Engine accesses and other non-caching writes (R151, R200, R206, R207): bytes that lie in one line of Stack or Shelf that no agent
holds reach memory with the answer, an engine's also the lines of them that its die's far cache holds; and an engine's read answers the
transaction's bytes and leaves the directory. -/
def Obligations.NonCachingRowsComplete : Prop :=
  ∀ (s : State) (pa : BitVec 52) (key : Fin 64), On s →
    (∀ (p : Pos) (bs : List Byte), homeIdle s.m p.val (pa.toNat / 64) →
      bs ≠ [] → pa.toNat % 64 + bs.length ≤ 64 → s.m.ent (pa.toNat / 64) = none →
      Gives (.nonCachingWrite (.agent p) pa key (.store bs)) s
        ((((((s.m.breakResv (some p.val) (pa.toNat / 64)).setEnt (pa.toNat / 64) none).memWrite (s.m.keyId key.val) pa.toNat bs).1.grant
          p.val (pa.toNat / 64) 0 none (((s.m.breakResv (some p.val) (pa.toNat / 64)).setEnt (pa.toNat / 64) none).memWrite
            (s.m.keyId key.val) pa.toNat bs).2).setTxn (pa.toNat / 64)
          (some ⟨.ncw (some p.val) pa.toNat (s.m.keyId key.val) (.store bs) none, [], none, false, true, []⟩)))) ∧
    (∀ (c : CoreId) (bs : List Byte), (tierOf pa.toNat = .stack ∨ tierOf pa.toNat = .shelf) → s.m.reach pa.toNat = true →
      bs ≠ [] → pa.toNat % 64 + bs.length ≤ 64 → s.m.ent (pa.toNat / 64) = none → s.m.txn (pa.toNat / 64) = none →
      s.m.dir.lru.length < 16 →
      Gives (.nonCachingWrite (.engine c) pa key (.store bs)) s
        (((((s.m.breakResv none (pa.toNat / 64)).setEnt (pa.toNat / 64) none).memWrite (s.m.keyId key.val) pa.toNat bs).1.setTxn
          (pa.toNat / 64) none).farUpdate c.die.val pa.toNat bs)) ∧
    (∀ (c : CoreId) (job : Fin 64) (m1 : Mach) (bs : List Byte),
      s.m.engPiece c.flat job.val ⟨pa.toNat / 256 * 256, s.m.keyId key.val, 256⟩ = (m1, .ok bs) →
      Gives (.engineRead c job pa key) s (m1.emit (.data (64 + c.flat) (pa.toNat / 256 * 256) bs false)))

/-! Memory tiers and keys -/

/-- The symbol code's answers at a controller (R155, R156), the controller's writes and scrub (R159, R160), and reads of Shingle
(R165). -/
def Obligations.MemoryTierRowsComplete : Prop :=
  ∀ (s : State) (pa : BitVec 52) (key : Fin 64) (errs : List (Fin 36 × Byte)), On s →
    (coded pa.toNat = true → s.m.cwBad (pa.toNat / 32 * 32 / 32) = false →
      decodeRs (s.m.erased (pa.toNat / 32 * 32)) (wrongSymbols errs) = .clean →
      Gives (.demandRead pa key errs) s
        (s.m.emit (.data 255 (pa.toNat / 32 * 32) (s.m.peeks (s.m.keyId key.val) (pa.toNat / 32 * 32) 32) false))) ∧
    (∀ pins : List Nat, coded pa.toNat = true → s.m.cwBad (pa.toNat / 32 * 32 / 32) = false →
      decodeRs (s.m.erased (pa.toNat / 32 * 32)) (wrongSymbols errs) = .corrected pins →
      Gives (.demandRead pa key errs) s
        ((pins.foldl (fun a pin => a.correction (pa.toNat / 32 * 32) pin)
          (s.m.fadd ⟨eccReg (pa.toNat / 32 * 32), 0, 32⟩ 1)).emit
          (.data 255 (pa.toNat / 32 * 32) (s.m.peeks (s.m.keyId key.val) (pa.toNat / 32 * 32) 32) false)) ∧
      ((if tierOf pa.toNat = .stack then s.m.flag Reg.SK_SCRUB_CFG_EN else s.m.flag Reg.SF_SCRUB_CFG_EN) = true →
        Gives (.scrub pa errs) s (pins.foldl (fun a pin => a.correction (pa.toNat / 32 * 32) pin)
          (s.m.fadd ⟨eccReg (pa.toNat / 32 * 32), 0, 32⟩ 1)))) ∧
    (coded pa.toNat = true → s.m.cwBad (pa.toNat / 32 * 32 / 32) = false →
      decodeRs (s.m.erased (pa.toNat / 32 * 32)) (wrongSymbols errs) = .bad →
      Gives (.demandRead pa key errs) s
        ((((s.m.fadd ⟨eccReg (pa.toNat / 32 * 32), 32, 32⟩ 1).setLast (pa.toNat / 32 * 32 / 32 * 32) 63).setPoison
          (pa.toNat / 32 * 32 / 32) true).emit (.data 255 (pa.toNat / 32 * 32) [] true))) ∧
    (∀ data : List Byte, coded pa.toNat = true →
      ((s.m.memWrite (s.m.keyId key.val) pa.toNat data).2 = false →
        Gives (.codewordWrite pa key data) s (s.m.memWrite (s.m.keyId key.val) pa.toNat data).1) ∧
      ((s.m.memWrite (s.m.keyId key.val) pa.toNat data).2 = true →
        Gives (.codewordWrite pa key data) s ((s.m.memWrite (s.m.keyId key.val) pa.toNat data).1.emit (.data 255 pa.toNat [] true)))) ∧
    (∀ bad : Bool, tierOf (pa.toNat / 256 * 256) = .shingle → s.m.harbourRuns = true →
      Gives (.shingleRead pa bad) s
        ((s.m.flashRead ((pa.toNat / 256 * 256 - shingleBase) / 16384) bad).emit (.data 255 (pa.toNat / 256 * 256)
          (if ((s.m.flashRead ((pa.toNat / 256 * 256 - shingleBase) / 16384) bad).load 0 (pa.toNat / 256 * 256) 256).2 then []
            else ((s.m.flashRead ((pa.toNat / 256 * 256 - shingleBase) / 16384) bad).load 0 (pa.toNat / 256 * 256) 256).1)
          ((s.m.flashRead ((pa.toNat / 256 * 256 - shingleBase) / 16384) bad).load 0 (pa.toNat / 256 * 256) 256).2)))

/-- Key commands (R163): begun by the owner on a slot that no live context may use, and at their end the slot holds a fresh key,
or none, and BUSY clears. -/
def Obligations.KeyCommandsComplete : Prop :=
  ∀ (s : State) (a : Agent) (sel : Fin 64) (gen : Bool), On s → 
    (MayOwn s.m a → s.m.flag Reg.SK_KEY_STATUS_BUSY = false → sel.val ≠ 0 → s.m.keyInUse sel.val = false →
      Gives (if gen then .generate a sel else .erase a sel) s
        (({ s.m with mem := { s.m.mem with keyCmd := some (gen, sel.val) } }).fset Reg.SK_KEY_STATUS_BUSY 1)) ∧
    (s.m.mem.keyCmd = some (gen, sel.val) →
      Completes .keyCommandDone s (fun m => m.mem.keyCmd = none ∧ m.mem.bytes = s.m.mem.bytes ∧ m.mem.ktag = s.m.mem.ktag ∧
        m.mem.poison = s.m.mem.poison ∧ sget 1 sel.val m.mem.keys = (if gen then s.m.mem.keyNext else 1) ∧
        (∀ k, k ≠ sel.val → sget 1 k m.mem.keys = sget 1 k s.m.mem.keys) ∧
        m.fget ⟨Reg.SK_KEY_LOADED, sel.val, 1⟩ = (if gen then 1 else 0) ∧
        m.fget Reg.SK_KEY_STATUS_STATUS = 0 ∧ m.fget Reg.SK_KEY_STATUS_BUSY = 0))

/-! Jobs, rings and commands -/

/-- The command at the head of an engine's queue passes every state check and is not skipped (R46, R140, R141). -/
def Sys2Proof.headReady (m : Mach) (tgt eng : Nat) (excl : Bool) (c : Cmd) : Prop :=
  m.queueHead tgt eng = some c ∧ c.phase = .queued ∧ m.stateAux c excl = none ∧ m.condSkips c = false

/-- The job CREATE opens from a descriptor's words, with the actions it is held for in machine `m0` (R109, R134), before it wakes the
module. -/
def Sys2Proof.opened (m0 m : Mach) (jn : Nat) (ws : List Word) : Mach :=
  (((((m.wipeJob jn).setJob jn (some { freshJob ws with held := m0.actionsNow (freshJob ws) })).fset (Reg.HB_FIN_STATE_FINITE jn)
    1).clFresh jn).fset ⟨Reg.HB_JOB_LIVE, jn, 1⟩ 1).fset Reg.HB_JOB_STATUS_STATUS 0

/-- Job commands (R109, R110): each as its rule has it when its checks pass. -/
def Obligations.JobCommandsComplete : Prop :=
  ∀ (s : State) (a : Agent) (job : Fin 64), On s →
    (∀ (m1 : Mach) (ws : List Word) (bad : Bool), MayOwn s.m a → s.m.flag Reg.HB_JOB_STATUS_BUSY = false → s.m.harbourRuns = true →
      s.m.hubWords 26 (s.m.fget Reg.HB_JOB_ARG_DESC) 16 = (m1, some (ws, bad)) →
      m1.createCheck (s.m.fget Reg.HB_JOB_ARG_DESC) job.val ws bad = none →
      Gives (.create a job) s ((opened s.m m1 job.val ws).slackWake ((opened s.m m1 job.val ws).fget Reg.PW_MODE_PREV))) ∧
    (∀ j : Job, MayOwn s.m a → s.m.flag Reg.HB_JOB_STATUS_BUSY = false → s.m.harbourRuns = true → s.m.job? job.val = some j →
      Gives (.destroy a job) s ((s.m.dying job.val j).cancel 0x0102 (s.m.js.cmds.filter (fun c => c.job == job.val)))) ∧
    (∀ j : Job, s.m.job? job.val = some j → j.dying = true → j.overflow = [] → (∀ c ∈ s.m.js.cmds, c.job ≠ job.val) →
      Gives (.destroyComplete job) s (s.m.forget job.val j))

/-- The doorbell page (R125, R131, R142, R462): what each write does to a live job. -/
def Obligations.DoorbellRowsComplete : Prop :=
  ∀ (s : State) (a : Agent) (job : Fin 64) (ring : Fin 8) (j : Job) (t : BitVec 32), On s → s.m.job? job.val = some j →
    (Agent.reaches a (Reg.HB_DB_SQ_TAIL job.val ring.val) = true → j.ringEn ring.val = true →
      (j.failed = true ∨
        (t.toNat + 2 ^ 32 - s.m.fget (Reg.HB_DB_SQ_HEAD_HEAD job.val ring.val)) % 2 ^ 32 ≤ j.sqSize ring.val →
        Gives (.sqDoorbell a job ring t) s (s.m.fset (Reg.HB_DB_SQ_TAIL_TAIL job.val ring.val) t.toNat).doorbellWake) ∧
      (j.failed = false →
        j.sqSize ring.val < (t.toNat + 2 ^ 32 - s.m.fget (Reg.HB_DB_SQ_HEAD_HEAD job.val ring.val)) % 2 ^ 32 →
        Gives (.sqDoorbell a job ring t) s
          ((s.m.fset (Reg.HB_DB_SQ_TAIL_TAIL job.val ring.val) t.toNat).doorbellWake.stopRing job.val ring.val 0x0208))) ∧
    (∀ (e : BitVec 8) (v : BitVec 48), Agent.reaches a (Reg.HB_DB_EVENT job.val) = true → e.toNat < 224 →
      Gives (.hbDbEvent a job e v) s (s.m.fset (Reg.HB_EVENT_VALUE job.val e.toNat)
        (max (s.m.fget (Reg.HB_EVENT_VALUE job.val e.toNat)) v.toNat)).doorbellWake) ∧
    (Agent.reaches a (Reg.HB_DB_SQ_HEAD job.val ring.val) = true → j.ringEn ring.val = true →
      (j.failed = true ∨ (s.m.fget (Reg.HB_DB_SQ_TAIL_TAIL job.val ring.val) + 2 ^ 32 -
          s.m.fget (Reg.HB_DB_SQ_HEAD_HEAD job.val ring.val)) % 2 ^ 32 ≤ j.sqSize ring.val →
        Gives (.ringResume a job ring) s (s.m.fset (Reg.HB_DB_SQ_HEAD_STOPPED job.val ring.val) 0)) ∧
      (j.failed = false → j.sqSize ring.val < (s.m.fget (Reg.HB_DB_SQ_TAIL_TAIL job.val ring.val) + 2 ^ 32 -
          s.m.fget (Reg.HB_DB_SQ_HEAD_HEAD job.val ring.val)) % 2 ^ 32 →
        Gives (.ringResume a job ring) s
          ((s.m.fset (Reg.HB_DB_SQ_HEAD_STOPPED job.val ring.val) 0).stopRing job.val ring.val 0x0208))) ∧
    (Agent.reaches a (Reg.HB_DB_SQ_HEAD job.val ring.val) = true → j.ringEn ring.val = true →
      Gives (.ringReset a job ring) s
        (((s.m.fset (Reg.HB_DB_SQ_HEAD_HEAD job.val ring.val) (s.m.fget (Reg.HB_DB_SQ_TAIL_TAIL job.val ring.val))).fset
          (Reg.HB_DB_SQ_HEAD_STOPPED job.val ring.val) 0).retireAll 0x0102
          (s.m.js.cmds.filter (fun c => c.job == job.val && c.ring == ring.val && c.phase == .pending)))) ∧
    (Agent.reaches a (Reg.HB_DB_CQ_HEAD job.val) = true →
      Gives (.cqHeadWrite a job t) s (((s.m.fset (Reg.HB_DB_CQ_HEAD_HEAD job.val) t.toNat).setJob job.val
        (some { j with cqFullSent := false })).cqDrain job.val j.overflow)) ∧
    (Agent.reaches a (Reg.HB_DB_EQ_HEAD job.val) = true → j.eventsLost = 0 →
      Gives (.eqHeadWrite a job t) s (s.m.fset (Reg.HB_DB_EQ_HEAD_HEAD job.val) t.toNat)) ∧
    (Agent.reaches a (Reg.HB_DB_EQ_HEAD job.val) = true → j.eventsLost ≠ 0 →
      (s.m.fset (Reg.HB_DB_EQ_HEAD_HEAD job.val) t.toNat).eqFull job.val j = false →
      Gives (.eqHeadWrite a job t) s (((s.m.fset (Reg.HB_DB_EQ_HEAD_HEAD job.val) t.toNat).setJob job.val
        (some { j with eventsLost := 0 })).postEvent job.val 0x07 0 0 0 0 j.eventsLost)) ∧
    (j.batch ≠ 0 → s.m.flag (Reg.HB_DB_IRQ_CQ_EN job.val) = true →
      Gives (.cqBatchTimeout job) s ((s.m.setJob job.val (some { j with batch := 0 })).raise job.val))

/-- Fetch, dispatch and the end of a command (R104, R112, R114, R132, R137, R139, R140, R144, R460). -/
def Obligations.CommandFlowComplete : Prop :=
  ∀ (s : State), On s →
    (∀ (job : Fin 64) (ring : Fin 8) (j : Job), s.m.job? job.val = some j → j.ringEn ring.val = true →
      s.m.flag (Reg.HB_DB_SQ_HEAD_STOPPED job.val ring.val) = false → j.failed = false → j.dying = false →
      ∀ (head pos left slots tgt : Nat) (h b : List Word) (m1 m2 : Mach) (c : Cmd),
      head = s.m.fget (Reg.HB_DB_SQ_HEAD_HEAD job.val ring.val) → pos = head % j.sqSize ring.val → left = j.sqSize ring.val - pos →
      1 + slots ≤ (s.m.fget (Reg.HB_DB_SQ_TAIL_TAIL job.val ring.val) + 2 ^ 32 - head) % 2 ^ 32 → 1 + slots ≤ left →
      s.m.hubWords 26 (j.sqBase ring.val + pos * 64) 8 = (m1, some (h, false)) →
      m1.hubWords 26 (j.sqBase ring.val + (pos + 1) % j.sqSize ring.val * 64) (8 * slots) = (m2, some (b, false)) →
      bits (wd h 0) 0 4 ≠ 15 → slots = bits (wd h 0) 10 4 →
      tgt = (if j.ringTarget ring.val = 4 then 192 else j.ringTarget ring.val * 48 + bits (wd h 0) 4 6) →
      headerCheck job.val (j.ringTarget ring.val) left h b = none →
      ¬(j.ringTarget ring.val < 4 ∧ m2.fget (Reg.HB_DIE_STATE_STATE (j.ringTarget ring.val)) ≠ dieInService) →
      m2.bufferUsed tgt < 64 →
      c = { newCmd m2.js.nextId job.val ring.val pos tgt (bits (wd h 0) 0 4) h b with task := m2.taskNow job.val tgt } →
      (m2.accept job.val ring.val head (1 + slots)).taskFails c = none →
      Gives (.commandFetch job ring) s ((m2.accept job.val ring.val head (1 + slots)).takeIn c)) ∧
    (∀ (t : Seq) (e : Engine) (jn : Nat) (c : Cmd), (s.m.entries t.tgt e.code).length < 32 →
      s.m.choose t.tgt e.code ((sget none (t.tgt * 8 + e.code) s.m.js.rr).getD ⟨0, []⟩) = some jn →
      s.m.candidate t.tgt e.code jn = some c →
      Gives (.commandDispatch t e) s (s.m.enqueue t.tgt e.code jn c)) ∧
    (∀ (t : Seq) (e : Engine) (c : Cmd) (st : Nat), (t = .harbour → e = .sequencer) → s.m.running t.tgt e.code = some c →
      c.status = some st → sget 0 c.id s.m.js.outst = 0 → c.flushing = false →
      Gives (.commandComplete t e) s ((s.m.countDone c).finish c st 0 c.va c.skipped)) ∧
    (∀ (e : Engine) (c : Cmd) (st : Nat), e ≠ .sequencer → c.status = some st → sget 0 c.id s.m.js.outst = 0 → c.flushing = false →
      s.m.js.cmds.find? (fun k => k.tgt == 192 && k.eng == e.code && k.phase == .running && k.status.isSome && !s.m.waitsTurn k) =
        some c →
      Gives (.commandComplete .harbour e) s ((s.m.countDone c).finish c st 0 c.va c.skipped)) ∧
    (∀ (c : CoreId) (e : Engine) (k : Cmd) (f : CmdFault), s.m.running c.flat e.code = some k → k.fault = some f →
      k.status = none → Gives (.switchOut c e) s (s.m.switchOut k)) ∧
    (∀ (t : Seq) (e : Engine) (i : Fin 64) (k : Cmd) (f : CmdFault), k.fault = some f →
      (s.m.js.cmds.filter (fun k => k.tgt == t.tgt && k.eng == e.code && k.fault.isSome && k.phase != .ended))[i.val]? = some k →
      Gives (.faultLimitExpiry t ⟨e, i⟩) s ((s.m.leaveFaults k).endFaulted k 0x0405 f.va)) ∧
    (∀ (t : Seq) (e : Engine) (i : Fin 8) (c : Cmd), e ≠ .sequencer → (s.m.timed t.tgt e.code)[i.val]? = some c →
      Gives (.watchdogExpiry t ⟨e, i⟩) s
        ((s.m.putCmd { c with status := some 0x0F03 }).logE 0x1A 0x0F03 e.code c.job 0)) ∧
    (∀ (job : Fin 64) (j : Job) (ds : List (List Byte)), s.m.job? job.val = some j → j.dying = false → j.failed = false →
      s.m.atBoundary job.val j = true → s.m.replayCheck? job.val j = (s.m, .ok none) → s.m.sealRead job.val j = (s.m, .ok ds) →
      Gives (.stepBoundary job) s
        (((s.m.crossBoundary job.val j 0).tmBoundary job.val j.step (s.m.sealDue job.val j) ds).boundaryActions job.val j))

/-- The sequencer's own commands at their queue heads (R113 to R116, R135). -/
def Obligations.SequencerCommandsComplete : Prop :=
  ∀ (s : State) (c : Cmd), On s → seqCheck c = none →
    (∀ t : Seq, headReady s.m t.tgt 0 false c → c.seqOp = 1 → Gives (.nop t) s (s.m.finish c 0 0 0 false)) ∧
    (∀ t : Seq, headReady s.m t.tgt 0 false c → c.seqOp = 2 →
      Gives (.fence t) s ((if bits (wd c.body 0) 8 1 = 1 then
        s.m.dropFar (fun l => l.die == c.tgt / 48 && l.job == c.job) else s.m).finish c 0 0 0 false)) ∧
    (∀ t : Seq, headReady s.m t.tgt 0 false c → c.seqOp = 3 →
      Gives (.flush t) s ((s.m.run c).flushRun { c with phase := .running })) ∧
    (∀ t : Seq, s.m.queueHead t.tgt 0 = some c → c.phase = .queued → c.isStepend = true →
      s.m.stateAux c.uncond false = none →
      Gives (.stepend t) s (s.m.run c)) ∧
    (∀ (k : CoreId) (pass : Bool), headReady s.m k.flat 0 true c → c.seqOp = 5 →
      Gives (.selftest k pass) s (s.m.finish c (if pass then 0 else 0x0F02) 0 0 false)) ∧
    (∀ k : CoreId, headReady s.m k.flat 0 true c → c.seqOp = 6 →
      Gives (.poolclear k) s ((s.m.clearPools k.flat).finish c 0 0 0 false))

/-! The data mover and the matrix engine -/

/-- Data mover commands at their queue head (R121, R122): each that passes its checks runs its units. -/
def Obligations.MoverCommandsComplete : Prop :=
  ∀ (s : State) (c : CoreId) (k : Cmd), On s → headReady s.m c.flat 4 false k → dmCheck s.m k = none →
    (k.dmKind = 0 → Gives (.copy c) s
      ((s.m.putCmd { k with phase := .running }).dmRun { k with phase := .running })) ∧
    (k.dmKind = 1 → Gives (.stage c) s
      ((s.m.putCmd { k with phase := .running }).dmRun { k with phase := .running })) ∧
    (k.dmKind = 2 → Gives (.fill c) s
      ((s.m.putCmd { k with phase := .running }).dmRun { k with phase := .running }))

/-- Matrix commands (R62, R63, R70, R72, R78): begun at their queue head, run pass by pass, the pass before draining first; the
counters and the plans. -/
def Obligations.MatrixRowsComplete : Prop :=
  ∀ (s : State) (c : CoreId), On s →
    (∀ (j : Job) (k : Cmd), headReady s.m c.flat 1 false k → s.m.job? k.job = some j → mxCheck s.m k = none → k.mxInit ≠ 2 →
      (k.mxKind ≠ 1 → Gives (.gemm c) s (s.m.mxBegin j k)) ∧ (k.mxKind = 1 → Gives (.conv c) s (s.m.mxBegin j k))) ∧
    (∀ (j : Job) (k : Cmd), headReady s.m c.flat 2 false k → s.m.job? k.job = some j → mxCheck s.m k = none → k.mxInit ≠ 2 →
      Gives (.mv c) s ((s.m.mxBegin j k).mvRun c.flat 66)) ∧
    (∀ (j : Job) (k k1 : Cmd) (m1 : Mach), s.m.running c.flat 1 = some k → s.m.job? k.job = some j → k.fault = none →
      k.status = none → k.mxStage = 2 → k.mxKind ≠ 2 → s.m.mxDrainLast j k = (m1, .ok k1) →
      (k1.mxPasses ≤ k1.prog → Gives (.matrixPass c) s (m1.mxEnd j k.id)) ∧
      ∀ (k2 : Cmd) (m2 : Mach), k1.prog < k1.mxPasses → m1.mxPass j k1 = (m2, .ok k2) →
        (k2.prog ≠ k.mxPasses → Gives (.matrixPass c) s
          (m2.fset (Reg.RF_MX_STATE_PASS (k.tgt / 48) (k.tgt % 48)) (min (k1.prog + 1) (k.mxPasses - 1)))) ∧
        (k2.prog = k.mxPasses → Gives (.matrixPass c) s
          ((m2.fset (Reg.RF_MX_STATE_PASS (k.tgt / 48) (k.tgt % 48)) (min (k1.prog + 1) (k.mxPasses - 1))).mxEnd j k.id))) ∧
    (∀ a : Agent, Agent.reaches a (Reg.RF_MX_CTRL c.die.val c.core.val) = true →
      Gives (.mxCntClr a c) s (s.m.mxClear c.flat) ∧
      (s.m.flag (Reg.RF_MX_STATE_BUSY c.die.val c.core.val) = false →
        Gives (.planFlush a c) s { s.m with js := { s.m.js with plans := s.m.js.plans.filter (fun p => p.1 != c.flat) } }) ∧
      (s.m.flag (Reg.RF_MX_STATE_BUSY c.die.val c.core.val) = true →
        Gives (.planFlush a c) s { s.m with js := { s.m.js with
          planFlush := c.flat :: s.m.js.planFlush.filter (fun t => t != c.flat) } }))

/-! The vector engine -/

/-- A row that carries a vector instruction: its opcode and its constructor. -/
def Sys2Proof.elementwiseRows : List (Nat × (CoreId → VInst → Instr)) := [
  (0x01, .vadd), (0x02, .vsub), (0x03, .vmul), (0x04, .vfma), (0x05, .vfnma), (0x06, .vdiv), (0x07, .vsqrt), (0x08, .vrcp),
  (0x09, .vrsq), (0x0A, .vexp2), (0x0B, .vlog2), (0x0C, .vexp), (0x0D, .vlog), (0x0E, .vtanh), (0x0F, .vsigm), (0x10, .verf),
  (0x11, .vmin), (0x12, .vmax), (0x13, .vabs), (0x14, .vneg), (0x18, .vcmpeq), (0x19, .vcmplt), (0x1A, .vcmple), (0x1B, .visnf),
  (0x1C, .vsel), (0x20, .viadd), (0x21, .visub), (0x22, .vimul), (0x23, .vand), (0x24, .vor), (0x25, .vxor), (0x26, .vshl),
  (0x27, .vshr), (0x28, .vsra), (0x29, .vimin), (0x2A, .vimax)]

/-- What an instruction that writes lanes leaves: its elements in the destination group, the counted ones counted, and the program
at its next instruction. -/
def Sys2Proof.lanesOut (m : Mach) (k : Cmd) (i : VInst) (l : Nat) (vs : List (Nat × Bool)) : Mach :=
  (m.vCount k i (vs.filter Prod.snd).length).1.vNext
    ((m.vCount k i (vs.filter Prod.snd).length).2.vwrite l i.vd.toNat 0 (vs.map Prod.fst)) (viCount i)

/-- Element-wise instructions (R80, R92, R93): element `e` of the destination is the operation on elements `e` of the operands, for
every element below the count, and the program goes on. -/
def Obligations.ElementwiseInstructions : Prop :=
  ∀ (s : State) (c : CoreId) (i : VInst) (j : Job) (k : Cmd), On s → ∀ p ∈ elementwiseRows,
    s.m.vCurrent c.flat p.1 i = some (j, k) →
    Gives (p.2 c i) s (lanesOut s.m k i (opResult p.1 (viLane i)) ((List.range (viCount i)).map (fun e =>
      (laneOp p.1 (viLane i) (if opA p.1 then k.vget (viLane i) i.va.toNat e else 0)
          (if opB p.1 then (if i.sb = 1 then immLane (viLane i) i.imm.toNat else k.vget (viLane i) i.vb.toNat e) else 0)
          (if opC p.1 then k.vget (viLane i) i.vc.toNat e else 0),
        laneBad (opResult p.1 (viLane i)) (laneOp p.1 (viLane i) (if opA p.1 then k.vget (viLane i) i.va.toNat e else 0)
          (if opB p.1 then (if i.sb = 1 then immLane (viLane i) i.imm.toNat else k.vget (viLane i) i.vb.toNat e) else 0)
          (if opC p.1 then k.vget (viLane i) i.vc.toNat e else 0))))))

/-- The instructions that move, convert and reduce (R25, R49, R93). -/
def Obligations.LaneMovesAndReductions : Prop :=
  ∀ (s : State) (c : CoreId) (i : VInst) (j : Job) (k : Cmd), On s →
    (s.m.vCurrent c.flat 0x2B i = some (j, k) →
      Gives (.viota c i) s (lanesOut s.m k i (viLane i) ((List.range (viCount i)).map (fun (e : Nat) =>
        (wrap (laneW (viLane i)) ((i.imm.toNat : Int) + (e : Int)), false))))) ∧
    (s.m.vCurrent c.flat 0x30 i = some (j, k) →
      Gives (.vcvt c i) s (lanesOut s.m k i (i.fmt2.toNat % 4) ((List.range (viCount i)).map (fun e =>
        (laneCvt (viLane i) (i.fmt2.toNat % 4) (rndOf i.rnd.toNat 0 0 0) (i.sat == 1) (k.vget (viLane i) i.va.toNat e),
          laneF (i.fmt2.toNat % 4) && ((laneFmt (i.fmt2.toNat % 4)).encode (rndOf i.rnd.toNat 0 0 0) (i.sat == 1)
            (laneVal (viLane i) (k.vget (viLane i) i.va.toNat e))).2))))) ∧
    (s.m.vCurrent c.flat 0x38 i = some (j, k) →
      Gives (.vrsum c i) s (lanesOut s.m k i (viLane i) (marked (viLane i) [reduceLanes false (viLane i) 17
        (k.vget (viLane i) i.vc.toNat 0) ((List.range (viCount i)).map (fun e => k.vget (viLane i) i.va.toNat e))]))) ∧
    (s.m.vCurrent c.flat 0x39 i = some (j, k) →
      Gives (.vrmax c i) s (lanesOut s.m k i (viLane i) (marked (viLane i) [reduceLanes true (viLane i) 17
        (k.vget (viLane i) i.vc.toNat 0) ((List.range (viCount i)).map (fun e => k.vget (viLane i) i.va.toNat e))]))) ∧
    (s.m.vCurrent c.flat 0x40 i = some (j, k) →
      Gives (.vmov c i) s (lanesOut s.m k i (viLane i) ((List.range (viCount i)).map (fun e =>
        (laneCanon (viLane i) (k.vget (viLane i) i.va.toNat e),
          laneBad (viLane i) (laneCanon (viLane i) (k.vget (viLane i) i.va.toNat e))))))) ∧
    (s.m.vCurrent c.flat 0x41 i = some (j, k) →
      Gives (.vbcast c i) s (lanesOut s.m k i (viLane i) (List.replicate (viCount i)
        (laneCanon (viLane i) (k.vget (viLane i) i.va.toNat i.imm.toNat),
          laneBad (viLane i) (laneCanon (viLane i) (k.vget (viLane i) i.va.toNat i.imm.toNat)))))) ∧
    (∀ ix : Nat → Nat, s.m.vCurrent c.flat 0x42 i = some (j, k) →
      (∀ e, ix e = if i.sb = 1 then immLane (viLane i % 2 + 2) i.imm.toNat else k.vget (viLane i) i.vb.toNat e) →
      Gives (.vperm c i) s (lanesOut s.m k i (viLane i) ((List.range (viCount i)).map (fun e =>
        (if ix e < viCount i then laneCanon (viLane i) (k.vget (viLane i) i.va.toNat (ix e)) else 0,
          laneBad (viLane i) (if ix e < viCount i then laneCanon (viLane i) (k.vget (viLane i) i.va.toNat (ix e)) else 0))))))

/-- Vector memory instructions (R94, R95, R99): a load whose elements are read fills its group; a store whose elements are written
goes on to the next instruction; the indexed ones go row by row from the first. -/
def Obligations.VectorMemoryInstructions : Prop :=
  ∀ (s : State) (c : CoreId) (i : VInst) (j : Job) (k : Cmd), On s →
    (∀ (m1 : Mach) (raws : List Nat), s.m.vCurrent c.flat 0x48 i = some (j, k) →
      s.m.vFetch j k i ((List.range (viCount i)).map (fun e => k.vPlain i e)) = (m1, .ok raws) →
      Gives (.vld c i) s (lanesOut m1 k i (viLane i) (marked (viLane i) (raws.map (fun v => vIn (viLane i) i.fmt2.toNat v))))) ∧
    (∀ (m1 : Mach) (k1 : Cmd), s.m.vCurrent c.flat 0x49 i = some (j, k) →
      s.m.vStore j k i ((k.vStored j i 0 (viCount i)).mapIdx (fun e v => (k.vPlain i e, v.1))) = (m1, .ok ()) →
      m1.cmdOf k.id = some k1 →
      Gives (.vst c i) s ((m1.vCount k1 i ((k.vStored j i 0 (viCount i)).filter Prod.snd).length).1.vNext
        (m1.vCount k1 i ((k.vStored j i 0 (viCount i)).filter Prod.snd).length).2 (viCount i))) ∧
    (s.m.vCurrent c.flat 0x4A i = some (j, k) → Gives (.vgather c i) s (s.m.vRows j 0x4A i k.id (viCount i + 1))) ∧
    (s.m.vCurrent c.flat 0x4B i = some (j, k) → Gives (.vscatter c i) s (s.m.vRows j 0x4B i k.id (viCount i + 1))) ∧
    (s.m.vCurrent c.flat 0x4C i = some (j, k) → Gives (.vscadd c i) s (s.m.vRows j 0x4C i k.id (viCount i + 1)))

/-- Vector commands (R83, R87, R91, R100, R101): begun at their queue head; a chunk computes, then writes; and the counters. -/
def Obligations.VectorCommandsComplete : Prop :=
  ∀ (s : State) (c : CoreId), On s →
    (∀ k : Cmd, headReady s.m c.flat 3 false k → bits (wd k.body 0) 0 2 = 0 → chainCheck s.m k = none →
      Gives (.chain c) s (s.m.vxBegin k)) ∧
    (∀ (k : Cmd) (j : Job), headReady s.m c.flat 3 false k → bits (wd k.body 0) 0 2 = 1 → programCheck s.m k = none →
      s.m.job? k.job = some j →
      Gives (.program c) s (s.m.vxBegin (k.withBlock (s.m.pgBlockWords j k)))) ∧
    (∀ (k : Cmd) (j : Job), s.m.running c.flat 3 = some k → s.m.job? k.job = some j → bits (wd k.body 0) 0 2 = 0 →
      k.fault = none → k.status = none → sget 0 1 k.run = 1 → Gives (.chainChunk c) s (s.m.chWrite j k)) ∧
    (∀ (k : Cmd) (j : Job) (m1 m2 : Mach) (els : List (List RdEl)) (items : List WItem) (n : Nat) (acc : Nat),
      s.m.running c.flat 3 = some k → s.m.job? k.job = some j → bits (wd k.body 0) 0 2 = 0 →
      k.fault = none → k.status = none → sget 0 1 k.run ≠ 1 →
      s.m.chReads j k (k.chunkAt k.prog).1 (k.chunkAt k.prog).2.1 (k.chunkAt k.prog).2.2.1 (k.chunkAt k.prog).2.2.2 = (m1, .ok els) →
      m1.chCompute j k (k.chunkAt k.prog).1 (k.chunkAt k.prog).2.1 (k.chunkAt k.prog).2.2.1 (k.chunkAt k.prog).2.2.2 els =
        (m2, .ok (items, n, acc)) →
      Gives (.chainChunk c) s
        (((m2.countFor k 2 n).1.fadd (Reg.RF_VX_LANEOPS_COUNT (k.tgt / 48) (k.tgt % 48)) ((k.chunkAt k.prog).2.1 * k.chStages)).chWrite
          j { (m2.countFor k 2 n).2 with saved := saveItems (mergeItems items), run := sset 0 1 1 (sset 0 0 acc k.run) })) ∧
    (∀ a : Agent, Agent.reaches a (Reg.RF_VX_CTRL c.die.val c.core.val) = true →
      Gives (.vxCntClr a c) s ((((s.m.rset (Reg.RF_VX_CYC_BUSY c.die.val c.core.val) 0).rset (Reg.RF_VX_CYC_WAIT c.die.val c.core.val)
        0).rset (Reg.RF_VX_LANEOPS c.die.val c.core.val) 0).rset (Reg.RF_VX_CMDS c.die.val c.core.val) 0) ∧
      Gives (.nfClr a c) s ((((s.m.rset (Reg.RF_NF_GRAD c.die.val c.core.val) 0).rset (Reg.RF_NF_LOSS c.die.val c.core.val) 0).rset
        (Reg.RF_NF_MON c.die.val c.core.val) 0).rset (Reg.RF_NF_LAST c.die.val c.core.val) 0))

/-! Translation, faults and migration -/

/-- Walks and the fault table (R183, R186, R188 to R192, R211): each row as its rule has it. -/
def Obligations.TranslationRowsComplete : Prop :=
  ∀ (s : State) (a : Agent), On s →
    (∀ (w : Waiter) (job : Fin 64) (va : BitVec 57) (acc : Access) (j : Job) (m1 : Mach), s.m.job? job.val = some j →
      (∀ (pa key : Nat), s.m.xlate j (waiterTgt w) va.toNat acc = (m1, .ok pa key) →
        Gives (.pageWalk w job va acc) s { m1 with xl := { m1.xl with
          answered := (⟨w, job.val, va.toNat, acc⟩, none) :: m1.xl.answered } }) ∧
      (∀ st : Nat, s.m.xlate j (waiterTgt w) va.toNat acc = (m1, .status st) →
        Gives (.pageWalk w job va acc) s { m1 with xl := { m1.xl with
          answered := (⟨w, job.val, va.toNat, acc⟩, some st) :: m1.xl.answered } })) ∧
    (∀ (w : Waiter) (f : FWait), s.m.xl.retry.find? (fun f => decide (f.who = w)) = some f →
      Gives (.faultRetry w) s (({ s.m with xl := { s.m.xl with
        retry := s.m.xl.retry.filter (fun x => decide (x ≠ f)) } } : Mach).settleWaiter none f)) ∧
    (MayOwn s.m a →
      (∀ h : BitVec 32, Gives (.frHeadWrite a h) s ((s.m.fset Reg.HB_FR_HEAD_HEAD h.toNat).frDrain s.m.xl.frWait)) ∧
      (∀ v : Word, Gives (.frBaseWrite a v) s
        (((s.m.fset Reg.HB_FR_BASE_LOG2 (bits v 0 5)).fset Reg.HB_FR_BASE_BASE (bits v 12 40)).frDrain s.m.xl.frWait)) ∧
      (∀ (n : BitVec 8) (r : FRec), s.m.xl.recs.find? (fun r => r.num == n.toNat && decide (r.kind = .service)) = some r →
        Gives (.hbFltResolve a n 0) s (s.m.closeRec r none) ∧
        ∀ st : BitVec 16, st = 0x0401 ∨ st = 0x0404 ∨ st = 0x0406 →
          Gives (.hbFltResolve a n st) s (s.m.closeRec r (some st.toNat))) ∧
      (∀ (asid : BitVec 16) (all discard : Bool) (who : Option Nat) (va len : Nat) (m1 : Mach) (frames : List (Nat × Nat)),
        s.m.flag Reg.HB_TLBI_STATUS_BUSY = false → va = s.m.fget Reg.HB_TLBI_VA_VA → len = s.m.fget Reg.HB_TLBI_LEN_LEN →
        va % 65536 = 0 → len % 65536 = 0 → who = (if all then none else some asid.toNat) →
        s.m.untranslate who va len = (m1, frames) →
        Gives (.tlbi a asid all discard) s ((({ m1 with xl := { m1.xl with
          tlbi := some ⟨if discard then frames else [], s.m.pendingRefs.filter (s.m.refMeets who va len)⟩ } } : Mach).fset
            Reg.HB_TLBI_STATUS_STATUS 0).fset Reg.HB_TLBI_STATUS_BUSY 1)) ∧
      (∀ t : BitVec 32, Gives (.mpTailWrite a t) s (s.m.fset Reg.HB_MP_TAIL_TAIL t.toNat).startMigs)) ∧
    (∀ t : TlbiRun, s.m.xl.tlbi = some t → t.refs = [] →
      Gives .tlbiComplete s ((({ s.m with xl := { s.m.xl with tlbi := none } } : Mach).dropFrames t.frames).fset
        Reg.HB_TLBI_STATUS_BUSY 0))

/-- Migration and eviction (R193 to R196, R236): a migration without a frame asks for one, copies into its frame, writes its leaf and
closes, and fails where the frame lies on a fenced die; an eviction begins on a leaf it may take, copies its region to the host once no
copy is left, and closes once its new leaf is home. -/
def Obligations.MigrationRowsComplete : Prop :=
  ∀ (s : State) (a : Agent), On s →
    (∀ (n : Fin 256) (bad : List (Fin 32768)) (r : FRec) (g : Mig), s.m.xl.recs.find? (fun r => r.num == n.val) = some r →
      r.kind = .migrate g →
      (g.frame = none → Gives (.migrationComplete n bad) s (s.m.startMig r)) ∧
      ∀ frame : Nat, g.frame = some frame →
        (g.run = none → s.m.reach frame = false → Gives (.migrationComplete n bad) s (s.m.failMig r)) ∧
        (∀ m1 : Mach, g.run = none → s.m.reach frame = true → s.m.lwHeld (bits g.ent 16 36 * 65536) 2097152 = false →
          s.m.current 21 (bits g.ent 16 36 * 65536) 2097152 = (m1, true) →
          Gives (.migrationComplete n bad) s (m1.migrated r g frame (bad.map (fun i => i.val) ++
            s.m.unarmedLines (bits g.ent 16 36 * 65536)))) ∧
        (∀ num : Nat, g.run = some (num, false) → s.m.homed? num = true → s.m.reach frame = true →
          Gives (.migrationComplete n bad) s (s.m.migLeafOut r g num frame)) ∧
        (∀ num : Nat, g.run = some (num, true) → s.m.homed? num = true →
          Gives (.migrationComplete n bad) s (s.m.migClose r num frame))) ∧
    (∀ (asid : BitVec 16) (mig : Bool) (v : EvictRun) (m0 m1 : Mach) (jn n leaf : Nat) (j : Job) (e : Word), MayOwn s.m a →
      s.m.flag Reg.HB_EV_STATUS_BUSY = false →
      v = ⟨asid.toNat, s.m.fget Reg.HB_EV_VA_VA, s.m.fget Reg.HB_EV_PA_PA * 2 ^ 21, mig, 0, 0, 0⟩ →
      m0 = (s.m.setEvict (some v)).fset Reg.HB_EV_STATUS_BUSY 1 → m0.jobOfAsid asid.toNat = some (jn, j) →
      m0.leafFrom v.va 3 0 j.root = (m1, some (some (leaf, e))) → bits e 14 2 ≤ 1 →
      (∀ r ∈ m1.xl.recs, ¬(r.asid = asid.toNat ∧ r.region = v.va / 2 ^ 21)) → m1.freeRec = some n →
      Gives (.evict a asid mig) s (m1.evictBegin v n leaf e)) ∧
    (∀ (v : EvictRun) (r : FRec) (leaf : Nat) (e : Word), s.m.evicting = some (v, r, leaf, e) →
      (v.stage = 2 → s.m.reach (bits e 16 36 * 65536) = true → s.m.lwUnarmed v.host (2 ^ 21) = false →
        s.m.armed (s.m.lwPort v.host) = true → s.m.lwHeld v.host (2 ^ 21) = false →
        (∀ l : Nat, (∃ p ∈ s.m.dir.txns, p.1 = l) ∨ (∃ p ∈ s.m.dir.ents, p.1 = l) →
          ¬(bits e 16 36 * 65536 / 64 ≤ l ∧ l < (bits e 16 36 * 65536 + 2 ^ 21) / 64) ∧
          ¬(v.host / 64 ≤ l ∧ l < (v.host + 2 ^ 21) / 64)) →
        Gives .evictionComplete s (s.m.evicted v leaf e).evictClose) ∧
      (v.stage = 3 → s.m.homed? v.acc = true →
        Gives .evictionComplete s
          (((s.m.closeRec r none).frPush 5 false r.waiters.length r.asid r.num 0 (r.region * 2 ^ 21)
            (bits e 16 36 * 65536)).evictOver 0)))

/-! Harbour: Limtos, Breakwater, die isolation, and Headland -/

/-- Limtos (R218 to R224): a capability exchange that agrees brings the port up at the width its lost groups leave; a flit that is
next in sequence and passes its check is taken, new or resent, and one that fails it is counted and kept for its replay; a spare
switch and a narrowing take effect. -/
def Obligations.LimtosRowsComplete : Prop :=
  ∀ (s : State) (p : Fin 5), On s →
    (∀ (lo hi : BitVec 4) (groups : BitVec 8) (width : BitVec 2) (w h : Nat), s.m.fget (Reg.HB_LT_STATE_WIDTH p.val) = 0 →
      s.m.fget (Reg.HB_DIE_STATE_STATE p.val) ≠ dieFenced → s.m.fget (Reg.HB_DIE_STATE_STATE p.val) ≠ dieOut →
      s.m.ltChoice p.val = some (w, h) → lo.toNat ≤ 1 → 1 ≤ hi.toNat → groups.toNat = ltGroups p.val → width.toNat = w →
      Completes (.limtosCapability p lo hi groups width) s (fun m => m = s.m.ltUp p.val w h ∧
        m.fget (Reg.HB_LT_STATE_VERSION p.val) = 1)) ∧
    (∀ (dir : Nat) (inward : Bool) (seq : BitVec 10) (gs : List FlitGroup) (r : LtRx), s.m.fget (Reg.HB_LT_STATE_WIDTH p.val) ≠ 0 →
      s.m.dieUp p.val = true → dir = (if inward then 1 else 0) →
      r = (sget none (p.val * 2 + dir) s.m.lt.rx).getD ⟨0, [], 0, 0, 0, []⟩ → seq.toNat = r.next →
      (seq.toNat = r.send → r.unacked.length < 512 → r.again = 0 →
        (s.m.flitOk p.val gs = true → r.copies = [] →
          Gives (.limtosFlit p inward seq gs) s ((s.m.setRx (p.val * 2 + dir)
            ⟨(r.next + 1) % 1024, [], 0, 0, (r.next + 1) % 1024, (r.unacked ++ [r.next]).filter (fun q => q != r.next)⟩).flitEvents
              p.val dir [] gs)) ∧
        (s.m.flitOk p.val gs = false → r.fails < 63 →
          Gives (.limtosFlit p inward seq gs) s ((s.m.fadd (Reg.HB_LT_CNT_CRC_FAIL p.val) 1).setRx (p.val * 2 + dir)
            ⟨r.next, gs :: r.copies, r.fails + 1, 1, (r.next + 1) % 1024, r.unacked ++ [r.next]⟩))) ∧
      (seq.toNat ≠ r.send → seq.toNat ∈ r.unacked → r.again ≠ 0 →
        (s.m.fadd (Reg.HB_LT_CNT_REPLAYS p.val) 1).flitOk p.val gs = true →
        Gives (.limtosFlit p inward seq gs) s (((s.m.fadd (Reg.HB_LT_CNT_REPLAYS p.val) 1).setRx (p.val * 2 + dir)
          ⟨(r.next + 1) % 1024, [], 0, r.again - 1, r.send, r.unacked.filter (fun q => q != r.next)⟩).flitEvents
            p.val dir r.copies gs))) ∧
    (∀ (g : Fin 64) (inward : Bool) (w : Nat),
      s.m.lt.switch.find? (fun x => x.1 == p.val && x.2.1 == g.val && x.2.2.1 == if inward then 1 else 0) =
        some (p.val, g.val, (if inward then 1 else 0), w) →
      Gives (.spareSwitch p g inward) s (((({ s.m with lt := { s.m.lt with
        switch := s.m.lt.switch.filter (fun x => !(x.1 == p.val && x.2.1 == g.val && x.2.2.1 == if inward then 1 else 0)) } } : Mach).fset
          (if inward then Reg.HB_LT_GRP_SPARED_IN p.val g.val else Reg.HB_LT_GRP_SPARED_OUT p.val g.val) w).fadd
          (Reg.HB_LT_STATE_SPARES_USED p.val) 1).logE 0x08 0 p.val noJob g.val)) ∧
    (∀ h : Nat, s.m.lt.narrow.find? (fun x => x.1 == p.val) = some (p.val, h) →
      Gives (.narrowingResume p) s (((({ s.m with lt := { s.m.lt with
        narrow := s.m.lt.narrow.filter (fun x => x.1 != p.val) } } : Mach).fset (Reg.HB_LT_STATE_WIDTH p.val) 1).fset
          (Reg.HB_LT_STATE_HALF p.val) h).logE 0x08 0 p.val noJob 0))

/-- Breakwater (R227 to R233, R242): a request that the windows allow is performed while the rate allows, else it waits and is
released; an MSI-X message raises its source; the aperture reaches the partner; a window is written and its recall ends; the link
retrains and goes down. -/
def Obligations.BreakwaterRowsComplete : Prop :=
  ∀ (s : State) (a : Agent), On s →
    (∀ (pa : BitVec 52) (len : Nat) (w : WriteOp), s.m.bwUp = true → 0 < len → s.m.bwQuar = false →
      s.m.bwAllowed ⟨.read, pa.toNat, len, w, none, false, s.m.ns⟩ = true →
      (s.m.bwFill.bw.held = [] → s.m.bwFill.bwRoom .read = true →
        Gives (.partnerRequest .read pa len w) s
          ((s.m.bwFill.bwDraw .read len).bwPerform ⟨.read, pa.toNat, len, w, none, false, s.m.ns⟩)) ∧
      (s.m.bwFill.bwRoom .read = false →
        Gives (.partnerRequest .read pa len w) s (s.m.bwFill.setBw { s.m.bwFill.bw with
          held := s.m.bwFill.bw.held ++ [⟨.read, pa.toNat, len, w, none, false, s.m.ns⟩] }))) ∧
    (∀ (q : BwReq) (rest : List BwReq), s.m.bw.held = q :: rest → s.m.bwFill.bwRoom q.acc = true →
      Gives .rateAllowanceRelease s (((s.m.bwFill.setBw { s.m.bwFill.bw with
        held := rest.map (fun (r : BwReq) => { r with since := max r.since s.m.bwFill.ns }) }).fadd Reg.BW_CNT_THROTTLED
          ((s.m.bwFill.ns - q.since) / 1000)).bwRequest q true)) ∧
    (∀ v : BitVec 11, s.m.bwUp = true → s.m.bwQuar = false → v.toNat < s.m.fget Reg.BW_CFG_MSI_VECTORS →
      Gives (.partnerMsix v) s (s.m.raise (160 + v.toNat))) ∧
    (∀ (off : Fin 8388608) (size : Nat) (v : Word), Agent.reaches a (apertureBase + off.val) = true → s.m.bwUp = true →
      Gives (.apertureAccess a off size true v) s (s.m.emit (.link 5 [off.val, size, 1, v.toNat])) ∧
      Gives (.apertureAccess a off size false v) s
        (({ s.m.emit (.link 5 [off.val, size, 0, v.toNat]) with free := s.m.free + 1 } : Mach).emit
          (.regData (Config.openWord 6 s.m.free)))) ∧
    (∀ (n : Fin 16) (lim : Bool) (v : Word), s.m.flag Reg.BW_ID_FITTED = true →
      (4 ≤ n.val ∧ MayOwn s.m a) ∨ (n.val < 4 ∧ s.m.lh.booted = false) →
      Gives (.bwWindowWrite a n lim v) s (s.m.windowWrite n.val lim v)) ∧
    (∀ (n : Fin 16) (old : Nat × Nat), sget none n.val s.m.bw.leaving = some old → s.m.windowLines n.val old = [] →
      Gives (.windowRecallDone n) s ((s.m.setBw { s.m.bw with leaving := sset none n.val none s.m.bw.leaving }).windowSettle n.val)) ∧
    (∀ lanes : BitVec 7, MayOwn s.m a → s.m.flag Reg.BW_ID_FITTED = true →
      Gives (.retrain a true lanes) s (s.m.bwTrained lanes.toNat) ∧
      Gives (.retrain a false lanes) s s.m.bwLinkDown) ∧
    (s.m.flag Reg.BW_ID_LINK_UP = true → Gives .partnerLinkDown s s.m.bwLinkDown)

/-- Die isolation (R220, R234 to R238): a trigger fences a die; the lines homed in its stacks are recalled, and what waits for one
completes poisoned; a fenced die is restored with the wires and groups its training finds bad, and loads its firmware once restored, or
is out of service. -/
def Obligations.DieRowsComplete : Prop :=
  ∀ (s : State) (a : Agent), On s →
    (∀ d : Fin 4, s.m.fget (Reg.HB_DIE_STATE_STATE d.val) ≠ dieFenced → s.m.fget (Reg.HB_DIE_STATE_STATE d.val) ≠ dieOut →
      Gives (.clockLoss (d.castLE (by decide))) s (((s.m.dieTo d.val dieFenced 1 0).fenceReef d.val).dieMoves d.val).setClocks ∧
      Gives (.dieReset (d.castLE (by decide))) s (((s.m.dieTo d.val dieFenced 2 0).fenceReef d.val).dieMoves d.val).setClocks ∧
      (MayOwn s.m a → Gives (.hbDieFence a d) s (((s.m.dieTo d.val dieFenced 4 0).fenceReef d.val).dieMoves d.val).setClocks)) ∧
    (s.m.fget (Reg.HB_DIE_STATE_STATE 4) ≠ dieFenced → s.m.fget (Reg.HB_DIE_STATE_STATE 4) ≠ dieOut →
      Gives (.clockLoss 4) s (s.m.dieTo 4 dieFenced 1 0).fenceHeadland.setClocks ∧
      Gives (.dieReset 4) s (s.m.dieTo 4 dieFenced 2 0).fenceHeadland.setClocks) ∧
    (∀ d : Fin 5, s.m.fget (Reg.HB_DIE_STATE_STATE d.val) = dieFenced →
      (s.m.dir.txns.filter (fun p => onDie d.val (p.1 * 64)) = [] → s.m.dir.lru.length ≤ 16 →
        ∀ (line y : Nat), (s.m.dir.ents.map Prod.fst).filter (fun l => onDie d.val (l * 64)) = [line] → s.m.txn line = none →
          s.m.ent line = some (.o y) → s.m.absent y = false →
          Gives (.dieFenceInvalidate d) s ((s.m.snoops line true [y]).setTxn line
            (some ⟨.inval none, [y], none, false, false, []⟩))) ∧
      (∀ (line : Nat) (t : HomeTxn), s.m.dir.txns.filter (fun p => onDie d.val (p.1 * 64)) = [(line, some t)] →
        (s.m.dropTxn line t).dir.ents = [] → Gives (.dieFenceInvalidate d) s (s.m.dropTxn line t)) ∧
      (s.m.dir.txns.filter (fun p => onDie d.val (p.1 * 64)) = [] →
        (s.m.dir.ents.map Prod.fst).filter (fun l => onDie d.val (l * 64)) = [] → Gives (.dieFenceInvalidate d) s s.m)) ∧
    (∀ d : Fin 4, MayOwn s.m a → s.m.fget (Reg.HB_DIE_STATE_STATE d.val) = dieFenced →
      Gives (.readmit a d) s (s.m.dieTo d.val dieRestoring (s.m.fget (Reg.HB_DIE_STATE_CAUSE d.val)) 0)) ∧
    (∀ (d : Fin 4) (lost : List (Fin 64 × Bool)) (spared : List (Fin 64 × Bool × Fin 35)) (m : Mach),
      s.m.fget (Reg.HB_DIE_STATE_STATE d.val) = dieRestoring → s.m.lh.hot.contains d.val = false →
      m = lost.foldl (fun a x => a.trainGroup d.val x.1.val x.2)
        (spared.foldl (fun a x => a.trainSpare d.val x.1.val x.2.1 x.2.2.val) s.m) →
      (∀ w h : Nat, m.ltChoice d.val = some (w, h) →
        Gives (.restoringComplete d ⟨true, lost, spared⟩) s ((((((m.ltUp d.val w h).poisonStacks d.val).coresBack d.val).dieOn d.val).dieTo
          d.val dieLoading (m.fget (Reg.HB_DIE_STATE_CAUSE d.val)) 0).setClocks) ∧
        Gives (.restoringComplete d ⟨false, lost, spared⟩) s
          (m.dieTo d.val dieOut (m.fget (Reg.HB_DIE_STATE_CAUSE d.val)) 0x0F02)) ∧
      (m.ltChoice d.val = none → ∀ ok : Bool, Gives (.restoringComplete d ⟨ok, lost, spared⟩) s (m.dieTo d.val dieOut 3 0x0F02)))

/-- Headland (R246, R247, R253 to R261): a precise fault for poison, which the hart's machine mode handles where nothing delegates it; the
ordered reduction; a hart that waits and one that wakes; harts started in machine mode; the owner claimed and released; a source
delivered to its route, or landward while a port owns the module. -/
def Obligations.HeadlandRowsComplete : Prop :=
  ∀ (s : State) (a : Agent) (h : Fin 64), On s →
    (∀ (fetch : Bool) (addr : Word), s.m.hartRuns h.val = true →
      Completes (.poisonedLoad h fetch addr) s (fun m =>
        m = s.m.accessFault h.val (if fetch then 1 else 5) addr ∧
        sget none h.val m.hl.trap = some (if fetch then 1 else 5, addr.toNat) ∧ m.hl.vregs = s.m.hl.vregs ∧
        sget none h.val m.hl.resv = none ∧ m.regs = s.m.regs ∧ m.mem = s.m.mem ∧
        (s.m.hartPriv h.val = .machine → m.hartPriv h.val = .machine ∧ m.csr h.val 0x341 = sget 0 h.val s.m.hl.pc ∧
          m.csr h.val 0x342 = (if fetch then 1 else 5) ∧ m.csr h.val 0x343 = addr ∧
          sget 0 h.val m.hl.pc = trapVector (s.m.csr h.val 0x305) false (if fetch then 1 else 5)))) ∧
    (∀ (vd vs2 vs1 : Fin 32) (sew : Sew) (widen masked : Bool) (vl : Nat) (acc src : Fmt) (r : Nat × Nat), s.m.hartRuns h.val = true →
      bits (s.m.csr h.val 2) 0 3 ≤ 4 → s.m.csr h.val 8 = 0 → src = sewFmt sew →
      (if widen then sewWide sew else some src) = some acc →
      r = orderedSum acc src (bits (s.m.csr h.val 2) 0 3) (leNat (s.m.hartBytes h.val (vs1.val * 64) (acc.width / 8))) 0
        (s.m.hartElems h.val vs2.val (src.width / 8) vl masked) →
      (vl = 0 → Gives (.vfredusum h vd vs2 vs1 sew ⟨widen, masked⟩ vl) s (s.m.hartNext h.val)) ∧
      (0 < vl → Gives (.vfredusum h vd vs2 vs1 sew ⟨widen, masked⟩ vl) s
        (((s.m.hartPut h.val (vd.val * 64) (leBytes (acc.width / 8) r.1)).setCsr h.val 1
          (BitVec.ofNat 64 ((s.m.csr h.val 1).toNat ||| r.2))).hartNext h.val))) ∧
    (∀ line : BitVec 46, s.m.hartRuns h.val = true → s.m.clusterHolds h.val line.toNat = true →
      Completes (.wrsWake ⟨h, some line⟩) s (fun m => sget none h.val m.hl.resv = some line.toNat ∧
        sget false h.val m.hl.broken = false ∧ sget false h.val m.hl.waiting = true ∧ m.hl.pc = s.m.hl.pc ∧ m.regs = s.m.regs ∧
        m.mem = s.m.mem)) ∧
    (sget false h.val s.m.hl.waiting = true → sget false h.val s.m.hl.broken = true →
      Completes (.wrsWake ⟨h, none⟩) s (fun m => sget none h.val m.hl.resv = none ∧ sget false h.val m.hl.waiting = false ∧
        sget 0 h.val m.hl.pc = sget 0 h.val s.m.hl.pc + 4 ∧ m.hl.vregs = s.m.hl.vregs ∧ m.regs = s.m.regs ∧ m.mem = s.m.mem)) ∧
    (∀ mask : Word, Agent.reaches a Reg.HL_HART_START = true → s.m.dieUp 4 = true →
      Gives (.hartStart a mask) s ((s.m.hartsAt ((List.range 64).filter (fun i => mask.getLsbD i &&
        !(s.m.rget Reg.HL_HART_RUN).getLsbD i))).rset Reg.HL_HART_RUN (s.m.rget Reg.HL_HART_RUN ||| mask))) ∧
    (∀ as : List Agent, s.m.fget Reg.HL_DRV_OWNER_OWNER = 0 →
      ((∃ i, .headland i ∈ as) → Gives (.claim as) s (s.m.newOwner 1)) ∧
      ((∀ i, .headland i ∉ as) → .host 0 ∈ as → Gives (.claim as) s (s.m.newOwner 2)) ∧
      ((∀ i, .headland i ∉ as) → .host 0 ∉ as → .host 1 ∈ as → Gives (.claim as) s (s.m.newOwner 3))) ∧
    (Agent.reaches a Reg.HL_DRV_OWNER = true → a.ownerCode ≠ 0 → a.ownerCode = s.m.fget Reg.HL_DRV_OWNER_OWNER →
      Gives (.release a) s (s.m.newOwner 0)) ∧
    (∀ src : Fin 192, s.m.irq.contains src.val = true → (130 < src.val ∨ s.m.hubPending = false) →
      (s.m.fget Reg.HL_DRV_OWNER_OWNER < 2 ∨ 134 < src.val →
        Gives (.interruptDelivery src) s (({ s.m with irq := s.m.irq.erase src.val } : Mach).irqHeadland src.val)) ∧
      (2 ≤ s.m.fget Reg.HL_DRV_OWNER_OWNER → src.val ≤ 134 →
        Gives (.interruptDelivery src) s (({ s.m with irq := s.m.irq.erase src.val } : Mach).msixSend
          (s.m.fget Reg.HL_DRV_OWNER_OWNER - 2) src.val)))

/-! The landward link -/

/-- States and losses of a landward port (R275 to R277, R281): RECOVERY_ENTRY of a port in L0 puts it into Recovery and counts it;
RECOVERY_EXIT brings it back with the lanes and the rate it settled on, and what waited goes on; RECOVERY_LIMIT_EXPIRY, LINK_DOWN,
PERST_ASSERT, HOT_RESET and FUNCTION_LEVEL_RESET are losses with the cause of R281; LANDWARD_LINK_L0 brings a trained link to L0. Only
widths 4, 8 and 16 and rates 1 to 4 are settled on. -/
def Obligations.LandwardLinkRowsComplete : Prop :=
  ∀ (s : State) (p : Fin 2), On s →
    (s.m.fget (Reg.LW_LINK_LINK p.val) = linkL0 →
      Gives (.recoveryEntry p) s ((s.m.linkTo p.val linkRecovery).fadd (Reg.LW_CNT2_RETRAINS p.val) 1)) ∧
    (s.m.recovering p.val = true →
      (∀ (lanes : BitVec 5) (rate : BitVec 3), Gives (.recoveryExit p lanes rate) s
        (if lwLegal lanes.toNat rate.toNat then
          let m := ((s.m.linkTo p.val linkL0).fset (Reg.LW_LINK_LANES p.val) lanes.toNat).fset (Reg.LW_LINK_RATE p.val) rate.toNat
          (m.setLw { m.lw with stalled := m.lw.stalled.filter (fun x => x.1 != p.val) }).lwRetry.fenceGo
        else s.m)) ∧
      Gives (.recoveryLimitExpiry p) s (s.m.loss p.val 2)) ∧
    (s.m.linkAlive p.val = true → Gives (.linkDown p) s (s.m.loss p.val 1) ∧ Gives (.hotReset p) s (s.m.loss p.val 4) ∧
      Gives (.functionLevelReset p) s (s.m.loss p.val 5)) ∧
    Gives (.perstAssert p) s (s.m.loss p.val 3) ∧
    (∀ (lanes : BitVec 5) (rate : BitVec 3), s.m.lw.released = true → s.m.linkAlive p.val = false →
      Gives (.landwardLinkL0 p lanes rate) s
        (if lwLegal lanes.toNat rate.toNat then
          ((s.m.linkTo p.val linkL0).fset (Reg.LW_LINK_LANES p.val) lanes.toNat).fset (Reg.LW_LINK_RATE p.val) rate.toNat
        else s.m)) ∧
    (∀ lanes rate : Nat, lwLegal lanes rate = true ↔ (lanes = 4 ∨ lanes = 8 ∨ lanes = 16) ∧ 1 ≤ rate ∧ rate ≤ 4)

/-- Epochs, fences, routes and requests (R265 to R274, R278 to R280): each row as its rule has it. -/
def Obligations.LandwardAccessRowsComplete : Prop :=
  ∀ (s : State) (a : Agent) (p : Fin 2), On s →
    (∀ e : BitVec 32, s.m.armCheck p.val e.toNat = 0 →
      Gives (.epochArm (.host p) p e) s (((((s.m.fset (Reg.LW_EPOCH_STATUS p.val) 0).fset (Reg.LW_EPOCH_ARMED p.val) 1).fset
        (Reg.LW_EPOCH_LOST p.val) 0).fset (Reg.LW_EPOCH_EPOCH p.val) e.toNat).comeBack (13 + p.val))) ∧
    (Agent.reaches a Reg.LW_FENCE = true →
      Completes (.fenceRead a) s (fun m => m.regs = s.m.regs ∧ m.mem = s.m.mem ∧ m.lw.writes = s.m.lw.writes ∧
        ∃ (fs : List FenceRd) (f : FenceRd), m.lw.fence = fs ++ [f] ∧ fs.length = s.m.lw.fence.length ∧ f.lost = [] ∧
          (∀ q n, (q, n) ∈ f.left ↔ (q < 2 ∧ s.m.armed q = true ∧ s.m.flag (Reg.LW_FLINE_EN q) = true ∧
            n = (s.m.lw.writes.filter (fun w => w.port == q)).length ∧ (n ≠ 0 ∨ s.m.recovering q = true))) ∧
          (∀ q, q ∈ f.issued ↔ (q < 2 ∧ s.m.armed q = true ∧ s.m.flag (Reg.LW_FLINE_EN q) = true ∧
            (s.m.lw.writes.filter (fun w => w.port == q)).length = 0 ∧ s.m.recovering q = false)))) ∧
    (∀ (f : FenceRd) (rest : List FenceRd), s.m.lw.fence = f :: rest → f.left = [] → f.issued.any s.m.recovering = false →
      Completes .fenceReadDone s (fun m => m.lw.fence = rest ∧ m.mem = s.m.mem ∧ m.out = .regData (m.rget Reg.LW_FENCE) :: s.m.out ∧
        m.fget ⟨Reg.LW_FENCE, 0, 1⟩ = (if 0 ∈ f.issued then 1 else 0) ∧
        m.fget ⟨Reg.LW_FENCE, 1, 1⟩ = (if 1 ∈ f.issued then 1 else 0) ∧
        m.fget ⟨Reg.LW_FENCE, 2, 1⟩ = (if 0 ∈ f.lost ∨ s.m.flag (Reg.LW_EPOCH_LOST 0) = true then 1 else 0) ∧
        m.fget ⟨Reg.LW_FENCE, 3, 1⟩ = (if 1 ∈ f.lost ∨ s.m.flag (Reg.LW_EPOCH_LOST 1) = true then 1 else 0))) ∧
    (∀ mode : BitVec 2, MayOwn s.m a → mode ≠ 3#2 →
      (s.m.lw.hold = true ∨ s.m.lw.writes ≠ [] →
        Gives (.routeChange a mode) s ((s.m.fset Reg.LW_ROUTE_MODE mode.toNat).setLw { s.m.lw with hold := true })) ∧
      (s.m.lw.hold = false → s.m.lw.writes = [] →
        Gives (.routeChange a mode) s ((s.m.fset Reg.LW_ROUTE_MODE mode.toNat).setLw { s.m.lw with mode := mode.toNat }))) ∧
    (s.m.lw.hold = true → (∀ w ∈ s.m.lw.writes, w.msix.isSome = true) → s.m.lw.heldWrites = [] →
      Gives .routeChangeDone s ((s.m.setLw { s.m.lw with
        mode := s.m.fget Reg.LW_ROUTE_MODE
        hold := false }).fset Reg.LW_ROUTE_BUSY 0).lwRetry) ∧
    (∀ dpa : BitVec 41, s.m.fget (Reg.LW_LINK_LINK p.val) = linkL0 → s.m.armed p.val = true →
      Gives (.cxlMemRequest p dpa none) s (s.m.request (dpaToPa dpa.toNat / 64) (.rds (13 + p.val))) ∧
      ∀ bs : List Byte, Gives (.cxlMemRequest p dpa (some bs)) s
        (s.m.ncWrite (some (13 + p.val)) none (s.m.hostKey (dpaToPa dpa.toNat)) (dpaToPa dpa.toNat) bs)) ∧
    (s.m.lw.released = true →
      Gives (.configRequest p) s (s.m.emit (.landward p.val
        ([0, 0x1FD7, 0x4A51, 0x120000, 0x1FD7, if s.m.flag Reg.BW_ID_FITTED then 0x0C else 0x0B] ++
          [2 ^ 30, 131072, 0, 0, 0x10000, 192, 0x18000, 1, 1, 1, 1, 64 * 2 ^ 20] ++
          [0, 0x8000000000, 210, 0x8000000000, 0x18000000000, 250, 118]) []))) ∧
    (s.m.lw.released = false → Gives (.configRequest p) s (s.m.emit (.landward p.val [1] []))) ∧
    (∀ w : LwWrite, s.m.lw.writes.find? (fun w => w.port == p.val) = some w → s.m.fget (Reg.LW_LINK_LINK p.val) = linkL0 →
      s.m.armed p.val = true → w.epoch = s.m.fget (Reg.LW_EPOCH_EPOCH p.val) →
      (∀ v : Nat, w.msix = some v → Gives (.landwardWriteAck p) s ((s.m.lwHome p.val).fenceGo.emit (.msix p.val v))) ∧
      (w.msix = none → Gives (.landwardWriteAck p) s
        (((s.m.lwHome p.val).fenceGo.homeWrite w.pa 0 w.w).1.accessDone w.cmd
          ((s.m.lwHome p.val).fenceGo.homeWrite w.pa 0 w.w).2 0x0304).lwRetry)) ∧
    (∀ v : Fin 192, s.m.lw.msixPend = [] →
      Gives (.msixUnmask p (some v)) s
        (s.m.setLw { s.m.lw with msixOpen := sset false (p.val * 256 + v.val) true s.m.lw.msixOpen }))

/-! Intake -/

/-- An Intake command that starts (R287, R288, R301): it is the next of its stream, its kind is the row's, its checks pass, its
state conditions hold, and `m` and `k` are the machine after its reads and its record. -/
def Sys2Proof.ikStarts (m0 : Mach) (pixel : Bool) (c : Cmd) (m : Mach) (k : IkCmd) : Prop :=
  m0.fget Reg.PW_MODE_MODE ≠ 3 ∧ m0.compDown 1 = false ∧ m0.compHeld 1 = false ∧ m0.ikNext = some c ∧
  c.ikKind = (if pixel then 0 else 1) ∧ m0.ikBodyCheck c = none ∧
  ∃ (j : Job) (m1 m2 m3 : Mach) (xb : List Byte), m0.job? c.job = some j ∧
    (if pixel then m0.ikRead j c.job (c.bf 7 0 57) 128 else (m0, .ok [])) = (m1, .ok xb) ∧
    (pixel = true → xformCheck (leWords 16 xb) = none) ∧ m1.ikTier j c.job (c.ikWritten (leWords 16 xb)) = (m2, .ok ()) ∧
    pairMeets (c.ikRanges (leWords 16 xb)) = false ∧ m2.ikReplayed j c = (m3, .ok ()) ∧ m3.stateAux c false = none ∧
    m3.condSkips c = false ∧ m3.ikTables j c (leWords 16 xb) = (m, .ok k)

/-- Intake (R285 to R303): PIXEL and TOKENS start; a free unit takes the next sample, which it fits; a video or DEFLATE unit passes
a picture; a sample decodes, or is evicted late; a batch goes through the stages of its end. -/
def Obligations.IntakeRowsComplete : Prop :=
  ∀ (s : State), On s →
    (∀ (c : Cmd) (m : Mach) (k : IkCmd),
      (ikStarts s.m true c m k → Gives .pixel s (m.ikBegin c k)) ∧ (ikStarts s.m false c m k → Gives .tokens s (m.ikBegin c k))) ∧
    (∀ (u : UnitId) (k : IkCmd) (c : Cmd) (x : IkSample) (rr : Rr) (j : Job) (m1 : Mach) (hd : List Byte),
      s.m.ikRuns = true → s.m.flag ⟨Reg.IK_UNITS, unitBit u, 1⟩ = false →
      s.m.ikPick (unitKind u) = some ((k, c, x), rr) → s.m.job? c.job = some j → x.alloc = 0 → entryCheck c x.entry = none →
      s.m.ikRead j c.job (entSrc x.entry) (min (entLen x.entry) 65536) = (m1, .ok hd) →
      m1.headCheck c x.entry hd = none → allocBytes x.entry hd ≤ k.free c →
      Gives (.unitAssign u) s ((m1.setIk { m1.ik with rr := sset none (unitKind u) (some rr) m1.ik.rr }).ikAssign k { x with
        width := claim 2 (entCodec x.entry) hd
        height := claim 3 (entCodec x.entry) hd
        hides := !x.rsv && c.ikClass == 0 && sget false (c.job * 65536 + c.ikStream) s.m.ik.hides } (unitBit u) (allocBytes x.entry hd))) ∧
    (∀ (u : UnitId) (k : IkCmd) (c : Cmd) (x : IkSample), s.m.onUnit u = some (k, c, x) → s.m.ikRuns = true →
      (unitKind u ≠ 0 → x.hides = false →
        (s.m.ikWaiting (unitKind u)).any (fun y => decide (sampleClass y.2.1 y.2.2 < sampleClass c x)) = false →
        (unitKind u = 1 → x.pics < entFrames x.entry) → (unitKind u = 1 → x.rsv = false → c.ikClass ≠ 0) →
        ∀ rap : Bool, Gives (.pictureBoundary u false rap) s (s.m.ikPut (k.setSample { x with pics := x.pics + 1 }))) ∧
      (unitKind u = 1 → entFrames x.entry ≤ x.pics →
        ∀ miss rap : Bool, Gives (.pictureBoundary u miss rap) s (s.m.ikFail k c x 0x0803)) ∧
      (unitKind u = 1 → x.pics < entFrames x.entry → x.rsv = true ∨ c.ikClass ≠ 0 →
        ∀ rap : Bool, Gives (.pictureBoundary u true rap) s (s.m.ikFail k c x 0x0804)) ∧
      (∀ (us : Nat) (j : Job) (m1 : Mach) (src data : List Byte), s.m.ikBudget c x (unitKind u) = none →
        s.m.job? c.job = some j → s.m.ikRead j c.job (entSrc x.entry) (entLen x.entry) = (m1, .ok src) →
        sampleEnd x (if !x.rsv && c.ikClass == 0 then sget [] (c.job * 65536 + c.ikStream) s.m.ik.live else []) src = .ok data →
        (entCodec x.entry = 1 → entDlen x.entry % c.ikTok = 0) →
        Gives (.sampleDecodeEnd u us .complete) s (m1.ikDecoded k c x (unitKind u) us src data)) ∧
      (∀ (us : Nat) (b : Nat), s.m.ikBudget c x (unitKind u) = some b → b ≤ us →
        Gives (.lateEviction u us) s (s.m.ikFail k c x 0x0805))) ∧
    (∀ (job : Fin 64) (stream : BitVec 16) (k : IkCmd), s.m.ikNamed job.val stream.toNat = some k →
      Gives (.intakeBatchComplete job stream) s ((((s.m.ikSettle k.id).ikAdvance k.id).ikAdvance k.id).ikAdvance k.id))

/-! The seaward fabric -/

/-- Eye safety and the probe (R308, R309): an unplugged connector's lanes are dark, a dark lane probes, hears, and retrains. -/
def Obligations.EyeSafetyRowsComplete : Prop :=
  ∀ (s : State), On s →
    (∀ c : Fin 8, Gives (.connectorUnplug c) s ((s.m.fset (connBit c.val) 0).lanesOut 3 (portLanes c.val)) ∧
      Gives (.connectorPlug c) s (s.m.fset (connBit c.val) 1)) ∧
    (∀ l : Fin 64, s.m.flag (connBit (l.val / 8)) = true →
      Gives (.lossOfLight l) s (s.m.laneOut l.val 2) ∧
      (s.m.darkened l.val = true →
        Gives (.probePulse l true) s (s.m.setSw { s.m.sw with probed := sset false l.val true s.m.sw.probed }) ∧
        Gives (.probePulse l false) s (s.m.emit (.fabric (l.val / 8) [0, l.val] [])) ∧
        (sget false l.val s.m.sw.probed = true → Gives (.laneRelight l) s
          ((s.m.setSw { s.m.sw with probed := sset false l.val false s.m.sw.probed }).fset (Reg.SW_LANE_STATE l.val) 1))))

/-- Lanes and ports (R307, R310 to R313, R316): a capability message of version 1 and the same reach brings a port up; a flit in
sequence is accepted and acknowledged; a port runs on its remaining lanes; lanes retire, restore and retrain; a bay's fault. -/
def Obligations.LaneRowsComplete : Prop :=
  ∀ (s : State) (a : Agent), On s →
    (∀ (p : Fin 8) (lo hi : BitVec 4) (id : BitVec 48) (reach : BitVec 32) (key : ElectKey), s.m.ethPort p.val = false →
      s.m.lanesActive p.val ≠ 0 → lo.toNat ≤ 1 → 1 ≤ hi.toNat → reach.toNat = s.m.fget Reg.SW_CFG_REACH_ID →
      Gives (.fabricCapability p lo hi id reach key) s (((s.m.fset (Reg.SW_PEER_IDENTITY p.val) id.toNat).hearKey
        (ElectKey.num key)).fabricUp p.val (s.m.lanesActive p.val))) ∧
    (∀ (p : Fin 8) (seq : BitVec 12) (lane : Fin 64) (ok : Bool) (msg : Option FabMsg)
        (reply : Option (BitVec 12 × Bool)), s.m.portOpen p.val = true →
      lane.val / 8 = p.val → s.m.fget (Reg.SW_LANE_STATE lane.val) = 2 →
      (ok = true → seq.toNat = sget 0 p.val s.m.sw.next → msg = none → Gives (.fabricFlit p seq lane ok ⟨msg, reply⟩) s
        (((s.m.setSw { s.m.sw with next := sset 0 p.val ((seq.toNat + 1) % 4096) s.m.sw.next }).emit
          (.fabric p.val [2, 0, seq.toNat] [])).flitReply p.val reply)) ∧
      (∀ g : FabMsg, ok = true → seq.toNat = sget 0 p.val s.m.sw.next → msg = some g → Gives (.fabricFlit p seq lane ok ⟨msg, reply⟩) s
        ((((s.m.setSw { s.m.sw with next := sset 0 p.val ((seq.toNat + 1) % 4096) s.m.sw.next }).emit
          (.fabric p.val [2, 0, seq.toNat] [])).flitReply p.val reply).forward g)) ∧
      (ok = false → Gives (.fabricFlit p seq lane ok ⟨msg, reply⟩) s
        ((s.m.laneEvent lane.val).emit (.fabric p.val [2, 1, sget 0 p.val s.m.sw.next] [])))) ∧
    (∀ p : Fin 8, s.m.sw.stripe.contains p.val = true → s.m.lanesActive p.val ≠ 0 →
      Gives (.restripe p) s ((s.m.setSw { s.m.sw with stripe := s.m.sw.stripe.filter (fun q => q != p.val) }).fset
        (Reg.SW_PORT_LANES p.val) (s.m.lanesActive p.val)).txServe) ∧
    (∀ source lost : BitVec 48, Gives (.portDownNotice source lost) s ((s.m.portNotice source.toNat lost.toNat).holderLost lost.toNat)) ∧
    (∀ l : Fin 64,
      (MayOwn s.m a → s.m.flag Reg.SW_LANE_STATUS_BUSY = false →
        Gives (.laneRetire a l) s ((s.m.laneOut l.val 5).fset Reg.SW_LANE_STATUS_STATUS 0) ∧
        (s.m.fget (Reg.SW_LANE_STATE l.val) = 3 → Gives (.laneRestore a l) s
          (((s.m.setSw { s.m.sw with restoring := some l.val }).fset (Reg.SW_LANE_STATE l.val) 1).fset Reg.SW_LANE_STATUS_BUSY 1)) ∧
        (s.m.fget (Reg.SW_LANE_STATE l.val) ≠ 3 → Gives (.laneRestore a l) s (s.m.fset Reg.SW_LANE_STATUS_STATUS 0x0101))) ∧
      (s.m.fget (Reg.SW_LANE_STATE l.val) = 1 → s.m.sw.restoring ≠ some l.val →
        (∀ m1 : Mach, m1 = ((s.m.fset (Reg.SW_LANE_STATE l.val) 2).fset (Reg.SW_LANE_CAUSE l.val) 0).logE 0x0A 0 l.val noJob 0 →
          Gives (.laneRetrained l true) s (m1.fset (Reg.SW_PORT_LANES (l.val / 8)) (m1.lanesActive (l.val / 8)))) ∧
        Gives (.laneRetrained l false) s (s.m.laneOut l.val 6))) ∧
    (∀ b : Fin 4, Gives (.laserBayFault b) s (((s.m.lanesOut 4 ((List.range 16).map (fun i => 16 * b.val + i))).portDown
      (2 * b.val)).portDown (2 * b.val + 1)))

/-- Membership and connections (R314, R317 to R320): a table that passes is taken; a context is opened, closed and freed; a message
in its turn is written, and one outside the region refused; acknowledgements, resends and a connection's failure. -/
def Obligations.ConnectionRowsComplete : Prop :=
  ∀ (s : State) (a : Agent), On s →
    (MayOwn s.m a →
      (∀ (rank : BitVec 12) (size : BitVec 13) (x1 x2 : Mach) (t : List Word),
        x1 = ((s.m.fset Reg.SW_SELF_RANK rank.toNat).fset Reg.SW_SELF_SIZE size.toNat).fset Reg.SW_SELF_EN 1 →
        x1.membership rank.toNat size.toNat = (x2, some (.ok t)) →
        Gives (.membershipLoad a rank size) s ((x2.setSw { x2.sw with table := t }).fset Reg.SW_SELF_STATUS 0)) ∧
      (s.m.flag Reg.SW_CTX_STATUS_BUSY = false →
        (∀ (pa c : Nat) (v : SwCtx) (x1 : Mach) (d : List Word × Bool), pa = s.m.fget Reg.SW_CTX_ARG_ENTRY →
          pa % 64 = 0 → inStackOrShelf pa 64 = true → s.m.hubWords 26 pa 8 = (x1, some d) → x1.openCheck d.1 d.2 = .ok (c, v) →
          Gives (.openCtx a) s (((x1.setCtx c (some v)).fset Reg.SW_CTX_STATUS_CTX c).fset Reg.SW_CTX_STATUS_STATUS 0)) ∧
        (∀ (ctx : BitVec 14) (v : SwCtx), s.m.ctx ctx.toNat = some v → v.closing = false → Gives (.closeCtx a ctx) s
          ((s.m.setCtx ctx.toNat (some { v with closing := true })).fset Reg.SW_CTX_STATUS_BUSY 1)))) ∧
    (∀ (ctx : BitVec 14) (x : SwCtx), s.m.ctx ctx.toNat = some x →
      (x.closing = true → x.sends = [] → Gives (.closeComplete ctx) s
        (((s.m.setCtx ctx.toNat none).fset Reg.SW_CTX_STATUS_STATUS 0).fset Reg.SW_CTX_STATUS_BUSY 0)) ∧
      (∀ g : RwMsg, x.closing = false → x.peer = g.rank.toNat → x.peerCtx = g.ctx.toNat → x.rxNext = g.num →
        (g.off + g.data.length ≤ x.units * 65536 → Gives (.remoteWrite ctx g) s
          ((s.m.setCtx ctx.toNat (some { x with rxNext := x.rxNext + 1 })).rwTake ctx.toNat x g)) ∧
        (x.units * 65536 < g.off + g.data.length → Gives (.remoteWrite ctx g) s
          ((s.m.setCtx ctx.toNat (some { x with rxNext := x.rxNext + 1 })).rwRefuse g true))) ∧
      (x.failed = false →
        (∀ num : Nat, Gives (.remoteWriteAck ctx num none) s
          ((s.m.setCtx ctx.toNat (some { x with sends := x.sends.filter (fun k => decide (num < k.num)) })).sendsDone 0
            (x.sends.filter (fun k => decide (k.num ≤ num))))) ∧
        Gives (.resendTimeout ctx) s (x.sends.foldl (fun b (k : SwSend) => b.resend ctx.toNat x k) s.m) ∧
        (x.sends ≠ [] → Gives (.connectionFailure ctx) s
          ((s.m.connectionFails ctx.toNat).holderLost (s.m.rankIdent x.peer)))))

/-! The Tide count, and Ethernet -/

/-- The Tide's master and its followers (R321, R324 to R331): steering to the upstream port, a snapshot, keys flooded, a module
becoming master when none was heard or the master is lost, its announcements, following, holdover and its end, and rejoining. -/
def Obligations.TideMasterRowsComplete : Prop :=
  ∀ (s : State) (a : Agent), On s →
    (∀ (p : Fin 8) (offsetPs : Int) (hops : BitVec 6) (m : Mach), s.m.portUp p.val = true → m = s.m.timeHeard p.val hops.toNat →
      (m.fget Reg.TD_STATE_STATE = 1 → m.fget Reg.TD_STATE_UPSTREAM = p.val → m.flag Reg.TD_STATE_STILL = false →
        Gives (.timeMessage p offsetPs hops) s (m.setTd { m.td with slew := offsetPs * 1000 })) ∧
      (m.fget Reg.TD_STATE_UPSTREAM ≠ p.val → Gives (.timeMessage p offsetPs hops) s m)) ∧
    (Agent.reaches a Reg.TD_SNAP = true → Gives (.snap a) s
      ((s.m.rset Reg.TD_SNAP_TIDE (s.m.rget Reg.TD_NOW)).rset Reg.TD_SNAP_LOCAL (BitVec.ofNat 64 s.m.ns))) ∧
    (∀ k : ElectKey, Gives (.keyFlood (some k)) s ((s.m.hearKey (ElectKey.num k)).flood none [9, ElectKey.num k] [])) ∧
    (∀ k : Nat, s.m.ownKey = some k → Gives (.keyFlood none) s (s.m.flood none [9, k] [])) ∧
    (s.m.tideUnset = true → s.m.lowest none = true → s.m.flag Reg.TD_CFG_PTP_START = false →
      Gives .electWaitExpiry s ((s.m.rset Reg.TD_NOW (BitVec.ofNat 64 s.m.ns)).beMaster 1)) ∧
    (s.m.fget Reg.TD_STATE_STATE = 2 → Gives .announcement s
      ((s.m.setTd { s.m.td with seq := s.m.td.seq + 1 }).flood none (s.m.announceWords (s.m.td.seq + 1)) [])) ∧
    (∀ (p : Fin 8) (an : Announce) (h : TdHeard), s.m.portUp p.val = true → s.m.fget Reg.TD_STATE_STATE = 0 →
      h = ⟨if an.key.role = 0 then 2 else 1, an.key.id.toNat, an.gen.toNat, an.hops.toNat, an.slot.toNat, an.guard.toNat,
        an.time.toNat⟩ →
      Gives (.announcementReceive p an) s
        ((s.m.setTd { s.m.td with heard := sset none p.val (some h) s.m.td.heard }).takeMaster p.val h an.seq)) ∧
    (s.m.fget Reg.TD_STATE_STATE = 1 →
      (s.m.lowest (some s.m.masterKey) = true →
        Gives .lossTimeout s (s.m.beMaster (s.m.fget Reg.TD_STATE_GENERATION + 1))) ∧
      (s.m.lowest (some s.m.masterKey) = false →
        Gives .lossTimeout s (((s.m.fset Reg.TD_STATE_STATE 3).setTd { s.m.td with slew := 0 }).logE 0x0C 0 0 noJob 0))) ∧
    (s.m.fget Reg.TD_STATE_STATE = 3 →
      Gives .holdoverLimitExpiry s (((s.m.fset Reg.TD_STATE_STATE 4).noSlot).logE 0x0C 0 0 noJob 0)) ∧
    (Agent.reaches a Reg.TD_CTRL = true →
      (s.m.sw.ctxs ≠ [] → Gives (.rejoin a) s (s.m.fset Reg.TD_CTRL_STATUS_STATUS 0x0101)) ∧
      (∀ (p : Nat) (h : TdHeard), s.m.sw.ctxs = [] → s.m.fget Reg.TD_STATE_STATE = 2 → (List.range 8).find? (fun p =>
          s.m.portUp p && s.m.flag (Reg.SW_PORT_FOREIGN p) && (sget none p s.m.td.heard).isSome) = some p →
        sget none p s.m.td.heard = some h →
        Gives (.rejoin a) s (((s.m.fset Reg.TD_CTRL_STATUS_STATUS 0).fset Reg.TD_STATE_STATE 1).takeMaster p h 0)))

/-- Lane schedules and slots (R332 to R335): a table that passes is copied, the copy takes effect at its origin, and a slot shows
its number and its ports' tags. -/
def Obligations.TideSlotRowsComplete : Prop :=
  ∀ (s : State) (a : Agent), On s →
    (∀ (nslots : BitVec 11) (ws : List Word) (m : Mach), Agent.reaches a Reg.TD_SCHED_CFG = true → 0 < nslots.toNat → nslots.toNat ≤ 1024 →
      inStackOrShelf (s.m.fget Reg.TD_SCHED_BASE_BASE * 4096) (8 * nslots.toNat) = true →
      ((s.m.fset Reg.TD_SCHED_CFG_NSLOTS nslots.toNat).fset Reg.TD_SCHED_CFG_EN 1).hubWords 26
        (s.m.fget Reg.TD_SCHED_BASE_BASE * 4096) nslots.toNat = (m, some (ws, false)) → schedBad ws = none →
      Gives (.scheduleLoad a nslots) s ((m.fset Reg.TD_SCHED_CFG_STATUS 0).setTd { m.td with
        next := some ⟨ws, (s.m.rget Reg.TD_SCHED_ORIGIN).toNat⟩ })) ∧
    (∀ k : Nat, s.m.slotNow = some k →
      (∀ c : TdSched, s.m.td.next = some c → c.place k = 0 →
        Gives .scheduleActivate s (s.m.setTd { s.m.td with sched := some c, next := none })) ∧
      Gives .tideSlotStart s ((s.m.setTd { s.m.td with slot := some k, tags := s.m.tagsOf k }).setSw { s.m.sw with
        used := [] }).txServe) ∧
    (s.m.slotNow = none → Gives .tideSlotStart s (s.m.setTd { s.m.td with slot := none, tags := [] }).txServe)

/-- Ethernet and PTP (R336 to R339): the tail is taken; a transmit descriptor is sent and a frame received; a sync gives site time,
toward which a master steers; the link of a started port. -/
def Obligations.EthernetRowsComplete : Prop :=
  ∀ (s : State) (a : Agent) (e : Fin 2), On s →
    (∀ tail : BitVec 32, Agent.reaches a (Reg.SW_ETH_TX e.val) = true →
      Gives (.ethTxDoorbell a e tail) s (s.m.fset (Reg.SW_ETH_TX_TAIL e.val) tail.toNat)) ∧
    (∀ pa phase : Nat, s.m.ethRuns e.val = true →
      (s.m.fget (Reg.SW_ETH_TX_HEAD e.val) ≠ s.m.fget (Reg.SW_ETH_TX_TAIL e.val) →
        s.m.ethSlot (Reg.SW_ETH_TXQ_LOG2 e.val) (Reg.SW_ETH_TXQ_BASE e.val) (s.m.fget (Reg.SW_ETH_TX_HEAD e.val)) = some (pa, phase) →
        Gives (.frameTransmitted e) s (s.m.ethSend e.val (s.m.fget (Reg.SW_ETH_TX_HEAD e.val)) pa phase)) ∧
      (∀ f : EthFrame, 60 ≤ f.data.length → f.data.length ≤ 9212 → s.m.flag Reg.SW_CFG_PTP_EN = false → f.fcsOk = true →
        s.m.ethAccepts e.val f.dst.toNat = true → s.m.ethHolds e.val = false →
        s.m.fget (Reg.SW_ETH_RX_HEAD e.val) ≠ s.m.fget (Reg.SW_ETH_RX_TAIL e.val) →
        s.m.ethSlot (Reg.SW_ETH_RXQ_LOG2 e.val) (Reg.SW_ETH_RXQ_BASE e.val) (s.m.fget (Reg.SW_ETH_RX_HEAD e.val)) = some (pa, phase) →
        Gives (.frameReceived e f) s (s.m.ethTake e.val (s.m.fget (Reg.SW_ETH_RX_HEAD e.val)) pa phase f))) ∧
    (∀ siteTime : Word, s.m.flag Reg.SW_CFG_PORT7_ETH = true → s.m.flag Reg.SW_CFG_PTP_EN = true →
      s.m.fget Reg.SW_CFG_PTP_PORT = e.val → s.m.fget Reg.TD_STATE_STATE = 2 →
      Gives (.ptpMessage e siteTime true) s
        (((s.m.rset Reg.TD_SITE_OFFSET (siteTime - s.m.rget Reg.TD_NOW)).fset Reg.TD_SITE_STATE_LOCKED 1).setTd { s.m.td with
          site := some ((siteTime.toNat : Int) - (s.m.ns : Int))
          slew := (siteTime - s.m.rget Reg.TD_NOW).toInt * 1000000 })) ∧
    (s.m.flag Reg.SW_CFG_PORT7_ETH = true → s.m.flag (Reg.SW_ETH_CFG_EN e.val) = true →
      Gives (.ethernetLinkChange e true) s (s.m.fset (Reg.SW_ETH_CNT_LINK_UP e.val) 1)) ∧
    Gives (.ethernetLinkChange e false) s (s.m.fset (Reg.SW_ETH_CNT_LINK_UP e.val) 0)

/-! Collectives -/

/-- A collective command of operation `op` reaches its turn in machine `m0` and its checks pass (R344, R346): `m` is the machine
after their reads, and `map` its compression map. -/
def Sys2Proof.clReady (m0 : Mach) (op : Nat) (c : Cmd) (j : Job) (m : Mach) (map : List Byte) : Prop :=
  m0.fget Reg.PW_MODE_MODE ≠ 3 ∧ m0.compDown 0 = false ∧ m0.compHeld 0 = false ∧ m0.clNext = some c ∧ c.clOp = op ∧
  m0.job? c.job = some j ∧ c.clCheck1 = none ∧
  ∃ m1 m2 : Mach, m0.clRead j c.job c.clMap (if c.clComp = 3 then (c.clBuckets + 3) / 4 else 0) = (m1, .ok map) ∧
    ¬(c.clComp = 3 ∧ (c.clModes map).contains 3 = true) ∧ c.clCheck2 = none ∧
    m1.clTier j c.job false (c.clSources ++ c.clAside ++ (if c.clGrouped then [(c.clGroup, 64)] else [])) = (m2, .ok ()) ∧
    m2.clTier j c.job true c.clDests = (m, .ok ()) ∧ c.clOverlap = false ∧ m.stateAux c false = none ∧ m.condSkips c = false

/-- Its group's descriptor, entries and contexts pass, and its sources and residual are read (R342, R344, R353): `m` is the machine
after them. -/
def Sys2Proof.clJoined (m0 : Mach) (c : Cmd) (j : Job) (m : Mach) (g : Group) (srcs : List (List Byte)) (resid : List Byte) : Prop :=
  ∃ (m1 m2 m3 : Mach) (hb eb : List Byte) (g0 : Group), m0.clRead j c.job c.clGroup 64 = (m1, .ok hb) ∧
    groupHead (leWords 8 hb) = .ok g0 ∧ m1.clRead j c.job (c.clGroup + 64) (8 * g0.n) = (m2, .ok eb) ∧
    m2.groupCheck g0 (leWords g0.n eb) = .ok g ∧ ¬((c.clOp = 5 ∧ g.n ≤ c.clRoot) ∨ (c.clOp = 4 ∧ c.clCount % g.n ≠ 0)) ∧
    m2.clContexts c.job g (c.clNeeds g) = .ok none ∧
    m2.clReads j c.job (if c.clOp = 5 ∧ g.self ≠ c.clRoot then [] else c.clSources) = (m3, .ok srcs) ∧
    m3.clRead j c.job c.clResid (if c.clComp ≠ 0 then c.clCount * 4 else 0) = (m, .ok resid)

/-- Collectives (R319, R344 to R360): each grouped operation that passes its checks begins, a PUT is sent, a COMMIT moves the pending
residual; a message is acknowledged, recorded and delivered; the flag round. -/
def Obligations.CollectiveRowsComplete : Prop :=
  ∀ (s : State), On s →
    (∀ (c : Cmd) (j : Job) (m1 m : Mach) (map resid : List Byte) (g : Group) (srcs : List (List Byte)),
      clJoined m1 c j m g srcs resid →
      (clReady s.m 1 c j m1 map → Gives .allreduce s (m.clBegin c j g srcs map resid)) ∧
      (clReady s.m 2 c j m1 map → Gives .reducescatter s (m.clBegin c j g srcs map resid)) ∧
      (clReady s.m 3 c j m1 map → Gives .allgather s (m.clBegin c j g srcs map resid)) ∧
      (clReady s.m 4 c j m1 map → Gives .alltoall s (m.clBegin c j g srcs map resid)) ∧
      (clReady s.m 5 c j m1 map → Gives .broadcast s (m.clBegin c j g srcs map resid))) ∧
    (∀ (c : Cmd) (j : Job) (m1 m : Mach) (map bs : List Byte) (v : SwCtx), clReady s.m 6 c j m1 map →
      m1.ctx (c.bf 11 12 14) = some v → v.closing = false → v.job = c.job →
      m1.cl.runs.any (fun r => r.ctxs.contains (c.bf 11 12 14)) = false → m1.clRead j c.job (c.clSrc 0) c.clCount = (m, .ok bs) →
      Gives .put s (m.clPutSend c bs)) ∧
    (∀ (c : Cmd) (j : Job) (m1 m2 m : Mach) (map bs : List Byte), clReady s.m 7 c j m1 map →
      m1.clRead j c.job c.clPend (c.clCount * 4) = (m2, .ok bs) → m2.clWrite j c.job c.id c.clResid bs = (m, .ok ()) →
      Gives .commit s (((m.run c).clCount).clOver c.id)) ∧
    (∀ (ctx : BitVec 14) (w0 w1 : Word) (data : List Byte) (x : SwCtx), s.m.ctx ctx.toNat = some x → x.closing = false →
      bits w1 60 4 = 1 → reservedSet w0 [(0, 35), (40, 24)] = false → reservedSet w1 [(0, 56), (60, 4)] = false →
      (s.m.clRefuses ⟨ctx.toNat, w0, w1, data⟩ = true → Gives (.collectiveMessage ctx w0 w1 data) s
        ((s.m.headerRecord x.job (bits w0 0 32) (bits w0 32 1 == 1) (bits w1 0 32) (bits w0 48 16) (bits w0 40 8)).logD 0x19 0 0
          x.job (bits w0 0 32) [bits w1 0 32, bits w0 48 16, bits w0 40 8])) ∧
      (s.m.clRefuses ⟨ctx.toNat, w0, w1, data⟩ = false → Gives (.collectiveMessage ctx w0 w1 data) s
        ((((s.m.setCtx ctx.toNat (some { x with rxNext := x.rxNext + 1 })).sendTo x.peer [6, x.peer, x.peerCtx, x.rxNext] []).headerRecord
          x.job (bits w0 0 32) (bits w0 32 1 == 1) (bits w1 0 32) (bits w0 48 16) (bits w0 40 8)).clDeliver
            ⟨ctx.toNat, w0, w1, data⟩ x.job))) ∧
    (∀ (job : Fin 64) (r : ClRun),
      ((s.m.clEnds job.val).clDue job.val = some r → Gives (.flagRoundStart job) s ((s.m.clEnds job.val).flagBegin r.id)) ∧
      (∀ (pos : BitVec 12) (nf : Bool) (c : Cmd), s.m.clRound job.val = some r → s.m.cmdOf r.id = some c → c.status = none →
        Gives (.flagRoundMessage job pos true nf) s
          ((s.m.headerRecord job.val (c.step % 2 ^ 32) nf (r.cseq % 2 ^ 32) pos.toNat c.clAlg).flagDown c r nf) ∧
        Gives (.flagRoundMessage job pos false nf) s
          (((s.m.headerRecord job.val (c.step % 2 ^ 32) nf (r.cseq % 2 ^ 32) pos.toNat c.clAlg).clStore { r with
            ups := (pos.toNat, nf) :: r.ups }).flagUp c { r with ups := (pos.toNat, nf) :: r.ups })))

/-! Device firmware -/

/-- Device firmware (R361, R362, R365 to R368): a fault is counted and logged and its component restarts, or is held at the third
within 60 s; an image that is admitted loads, or waits for its jobs in a reload, and runs; an interface version is selected. -/
def Obligations.FirmwareRowsComplete : Prop :=
  ∀ (s : State) (a : Agent), On s →
    (∀ (c : Fin 195) (m2 : Mach), s.m.compHeld c.val = false → s.m.compDown c.val = false →
      m2 = ((((s.m.setFw { s.m.fw with faults := sset [] c.val ((s.m.ns ::
        (sget [] c.val s.m.fw.faults).filter (fun t => decide (s.m.ns ≤ t + 60000000000))).take 3) s.m.fw.faults }).fadd
          (Reg.HB_FW_FAULT_RESTARTS c.val) 1).logE 0x0F 0x0F01 (c.val % 256) noJob c.val).dropWork c.val) →
      (((sget [] c.val s.m.fw.faults).filter (fun t => decide (s.m.ns ≤ t + 60000000000))).length < 2 →
        Gives (.componentFault c) s (m2.setFw { m2.fw with down := c.val :: m2.fw.down }) ∧
        Gives (.heartbeatTimeout c) s (m2.setFw { m2.fw with down := c.val :: m2.fw.down })) ∧
      (2 ≤ ((sget [] c.val s.m.fw.faults).filter (fun t => decide (s.m.ns ≤ t + 60000000000))).length →
        Gives (.componentFault c) s
          (((m2.fset (Reg.HB_FW_FAULT_HELD c.val) 1).logE 0x0F 0x0F01 (c.val % 256) noJob c.val).alert Reg.LH_ALERT_HELD) ∧
        Gives (.heartbeatTimeout c) s
          (((m2.fset (Reg.HB_FW_FAULT_HELD c.val) 1).logE 0x0F 0x0F01 (c.val % 256) noJob c.val).alert Reg.LH_ALERT_HELD))) ∧
    (∀ c : Fin 195, Gives (.componentRestart c) s
      (s.m.setFw { s.m.fw with down := s.m.fw.down.filter (fun x => x != c.val) })) ∧
    (∀ (t : BitVec 3) (override : Bool) (m1 : Mach) (bs : List Byte) (op : FwOp), MayOwn s.m a → t.toNat ≤ 4 →
      s.m.flag Reg.HB_FW_STATUS_BUSY = false →
      s.m.fwCopy (s.m.fget Reg.HB_FW_ARG_ADDR) (s.m.fget Reg.HB_FW_LEN_LEN) = (m1, some (bs, false)) →
      (s.m.fwState false t.toNat override = none → m1.fwImage false t.toNat override bs = .ok op →
        Gives (.firmwareLoad a t override) s
          (((m1.setFw { m1.fw with op := some op }).fset Reg.HB_FW_STATUS_BUSY 1).fset Reg.HB_FW_STATUS_PHASE 4)) ∧
      (s.m.fwState true t.toNat override = none → m1.fwImage true t.toNat override bs = .ok op →
        Gives (.reload a t override) s
          ((((m1.setFw { m1.fw with op := some op }).fset Reg.HB_FW_STATUS_BUSY 1).fset Reg.HB_FW_STATUS_PHASE 3).holdIdle
            (2 + t.toNat) (fun j => j.usesDie t.toNat)).tryActions)) ∧
    (∀ o : FwOp, s.m.fw.op = some o → s.m.fget Reg.HB_FW_STATUS_PHASE = 4 →
      Gives .firmwareLoaded s ((s.m.fwLoaded o).fwEnd 0)) ∧
    (∀ o : FwOp, s.m.reloadWaits = some o → s.m.fget Reg.HB_FW_LEN_QLIMIT ≠ 0 →
      Gives .reloadQlimitExpiry s ((s.m.releaseAll (2 + o.target)).fwEnd 0x0101)) ∧
    (∀ sel : BitVec 4, Agent.reaches a Reg.HB_FW_IFACE = true → s.m.fget Reg.HB_FW_IFACE_IFMIN ≤ sel.toNat →
      sel.toNat ≤ s.m.fget Reg.HB_FW_IFACE_IFMAX →
      Gives (.interfaceSelect a sel) s ((s.m.fset Reg.HB_FW_IFACE_SELECT sel.toNat).fset Reg.HB_FW_IFACE_STATUS 0))

/-! Tidemarks -/

/-- Requests and the risk score (R371, R374 to R376, R387): a plan that passes is armed; a Tidemark is requested, by TAKE or by the
interval; a request and a REFUSE pass; a pending target is dropped; the score is made of its five parts. -/
def Obligations.TidemarkRequestRowsComplete : Prop :=
  ∀ (s : State) (a : Agent) (job : Fin 64), On s →
    (Agent.reaches a (Reg.HB_TM_CTRL job.val) = true →
      (∀ (j : Job) (m1 : Mach) (p : TmPlan), s.m.job? job.val = some j → (s.m.tmJob job.val).cur = none →
        s.m.planRead j job.val = (m1, .ok p) →
        Gives (.tidemarkArm a job) s ((m1.setTmJob job.val { s.m.tmJob job.val with plan := some p }).fset
          (Reg.HB_TM_STATE_STATUS job.val) 0)) ∧
      (s.m.tmReady job.val = true → Gives (.take a job) s (s.m.tmRequest job.val false)) ∧
      ((s.m.tmJob job.val).pending.isSome = true →
        Gives (.tidemarkCancel a job) s (s.m.setTmJob job.val { s.m.tmJob job.val with pending := none, asked := none }))) ∧
    (s.m.flag (Reg.HB_TM_CFG_INTERVAL_EN job.val) = true → s.m.tmReady job.val = true →
      Gives (.intervalExpiry job) s (s.m.tmRequest job.val false)) ∧
    (∀ (target : Word) (down : Bool) (p : TmPlan), (s.m.tmJob job.val).plan = some p →
      (s.m.live job.val = true → Gives (.tidemarkRequest job target down) s
        ((s.m.tmArrive job.val p target.toNat false).tmPass p 12 job.val target.toNat down)) ∧
      ((s.m.tmJob job.val).pending = some target.toNat → (s.m.tmJob job.val).asked ≠ some target.toNat →
        Gives (.refuse job target down) s
          ((s.m.setTmJob job.val { s.m.tmJob job.val with pending := none }).tmPass p 13 job.val target.toNat down))) ∧
    (∀ cm ct cl ch cp score : Nat, cm = s.m.riskMemory → ct = marginPoints 16 s.m.riskMargin →
      cl = marginPoints 10 s.m.riskHeadroom → ch = s.m.riskLanes → cp = s.m.riskPeers →
      score = min 1023 ((s.m.fget Reg.LH_RISK_W_W_M * cm + s.m.fget Reg.LH_RISK_W_W_T * ct + s.m.fget Reg.LH_RISK_W_W_L * cl +
        s.m.fget Reg.LH_RISK_W_W_H * ch + s.m.fget Reg.LH_RISK_W_W_P * cp) / 64) →
      Gives .riskUpdate s ((s.m.tm.jobs.map Prod.fst).foldl (fun b jn => b.riskJob score jn) (s.m.rset Reg.LH_RISK
        (BitVec.ofNat 64 (score + cm * 2 ^ 10 + ct * 2 ^ 18 + cl * 2 ^ 26 + ch * 2 ^ 34 + cp * 2 ^ 42)))))

/-- Placement and restore (R377 to R385): an image is written and its shards go out; an accepted offer is recorded and the walk goes
on; a seal is acknowledged; a shard of another module is stored or its Tidemark sealed; a restore begins and ends; a release. -/
def Obligations.TidemarkPlacementRowsComplete : Prop :=
  ∀ (s : State) (a : Agent) (job : Fin 64), On s →
    (∀ (k : TmMark) (p : TmPlan) (j : Job) (m1 m2 : Mach) (ds : List (List Byte)), (s.m.tmJob job.val).cur = some k →
      (s.m.tmJob job.val).plan = some p → s.m.job? job.val = some j → k.len = 0 →
      s.m.tmReads j job.val ((p.pick (fun x => !x.seals)).map (fun x => (x.2.va, x.2.len))) = (m1, .ok ds) →
      m1.tmWrite j job.val (p.half k.half) (m1.tmImage p j.seed k (p.pick (fun x => !x.seals)) ds) = (m2, .ok ()) →
      Gives (.captureDone job) s (m2.captured job.val (s.m.tmJob job.val) k p)) ∧
    (∀ (k : TmMark) (r i : Nat) (rest : List Nat) (id : BitVec 48) (feed : BitVec 16), (s.m.tmJob job.val).cur = some k →
      k.offer = some r → k.todo = i :: rest →
      (k.holds.any (fun h => h.shard == i && h.id != ownShingle && h.feed == feed.toNat) = false →
        Gives (.offerAnswer job true id feed) s ((s.m.setTmJob job.val { s.m.tmJob job.val with
          feeds := sset 0 r feed.toNat (s.m.tmJob job.val).feeds
          cur := some { k with
            holds := k.holds ++ [⟨i, id.toNat, feed.toNat⟩]
            todo := rest
            next := 0
            offer := none } }).tmOn job.val false)) ∧
      Gives (.offerAnswer job false id feed) s ((s.m.setTmJob job.val { s.m.tmJob job.val with
        feeds := sset 0 r feed.toNat (s.m.tmJob job.val).feeds
        cur := some { k with offer := none } }).tmOn job.val false)) ∧
    (∀ (k : TmMark) (holder : BitVec 48), (s.m.tmJob job.val).cur = some k → k.sealData.isSome = true →
      k.partners.contains holder.toNat = true → k.acks.contains holder.toNat = false →
      Gives (.sealAck job holder) s ((s.m.setTmJob job.val { s.m.tmJob job.val with
        cur := some { k with acks := holder.toNat :: k.acks } }).trySeal job.val)) ∧
    (∀ (o : ShardOffer) (off : Nat) (m0 m1 : Mach), o.sealing = false →
      m0 = s.m.setArea (s.m.tm.area.filter (fun c =>
        !((c.source == o.source.toNat && c.rtag == o.rtag && c.gstep == o.gstep.toNat) && c.shard == o.shard))) →
      (m0.areaPlace o = none → Gives (.shardOffer o) s (s.m.sendIdent o.source.toNat
        [17, o.source.toNat, 0, s.m.ident, s.m.fget Reg.LH_GROUP_FEED, o.gstep.toNat, o.shard] [])) ∧
      (m0.areaPlace o = some off →
        m1 = m0.ncWrite none none (m0.keyId (m0.fget Reg.HB_TM_AREA_KEY)) (m0.areaBase + off * 0x200000) o.data →
        Completes (.shardOffer o) s (fun m => ∃ m2 : Mach, m2 = m1.setArea (areaKeep (m1.tm.area ++
            [⟨o.source.toNat, o.rtag, o.gstep.toNat, o.shard, off, o.data.length, none⟩]) o.source.toNat o.rtag) ∧
          m = m2.sendIdent o.source.toNat
            [17, o.source.toNat, 1, m2.ident, m2.fget Reg.LH_GROUP_FEED, o.gstep.toNat, o.shard] []))) ∧
    (MayOwn s.m a → s.m.flag Reg.HB_TM_RST_STATUS_BUSY = false →
      ∀ (j : Job) (m1 : Mach) (w : List Word), s.m.job? job.val = some j → s.m.rstRead j job.val = (m1, .ok w) →
        (∀ (p : TmPlan) (h : List Byte), (m1.tmJob job.val).plan = some p → (m1.tmJob job.val).code = 1 → j.fetched = false →
          bits (wd w 0) 0 2 ≠ 1 → m1.rstPresent (bits (wd w 0) 0 2) (bits (wd w 1) 0 48) (wd w 2).toNat (wd w 3)
            (shardsOf (imageLen p.segs)) = true →
          m1.rstHeader (bits (wd w 0) 0 2) (bits (wd w 1) 0 48) (wd w 2).toNat (wd w 3) = some h →
          tmHeadBad h = none → headerFits p h (wd w 2).toNat (bits (wd w 4) 0 48) = true →
          Gives (.restore a job) s (m1.rstBegin ⟨job.val, bits (wd w 0) 0 2, bits (wd w 1) 0 48, (wd w 2).toNat, wd w 3,
            bits (wd w 4) 0 48, shardsOf (imageLen p.segs)⟩ [])) ∧
        (m1.tm.area.any (fun c => c.source == bits (wd w 1) 0 48 && c.rtag == wd w 3 &&
            (wd w 2 == 0 || c.gstep == (wd w 2).toNat)) = true →
          Gives (.tidemarkRelease a job) s ((m1.setArea (m1.tm.area.filter (fun c =>
            !(c.source == bits (wd w 1) 0 48 && c.rtag == wd w 3 && (wd w 2 == 0 || c.gstep == (wd w 2).toNat))))).rstStatus 0))) ∧
    (∀ (shards : List (List Byte)) (r : TmRestore) (p : TmPlan) (j : Job) (m1 m2 : Mach) (img sealed : List Byte),
      s.m.tm.restore = some r → (s.m.tmJob r.job).plan = some p → s.m.job? r.job = some j →
      s.m.rstImage j p r shards = (m1, .ok (img, sealed)) → tmHeadBad sealed = none → headerFits p sealed r.gstep r.replay = true →
      (List.range p.segs.length).any (fun k => crc64 ((segBytes img (sealed.drop 4096) p.segs 4096 0).getD k []) !=
        wd (cutWords sealed 0 512) (34 + 4 * k)) = false →
      m1.tmWrites j r.job (restoreOuts p r.replay (segBytes img (sealed.drop 4096) p.segs 4096 0)) = (m2, .ok ()) →
      Gives (.restoreDone shards) s (m2.restored r ⟨r.replay, lossOf p (segBytes img (sealed.drop 4096) p.segs 4096 0),
        bits (wd (cutWords sealed 0 512) 3) 1 1 == 1⟩))

/-! Lighthouse -/

/-- Attestation and the log (R405 to R408, R413): a report that can be made waits, and is written signed with its index taken; the
certificate; a tree prepared; a log copy; a record's way to the flash ring. -/
def Obligations.AttestationRowsComplete : Prop :=
  ∀ (s : State) (a : Agent), On s →
    (Agent.reaches a Reg.LH_ATT_CMD = true → s.m.flag Reg.LH_ATT_STATUS_BUSY = false →
      (s.m.lh.regionBad = false → s.m.lh.q < 2 ^ 40 → inStackOrShelf s.m.attBuf 10240 = true →
        Gives (.report a) s (({ s.m with lh := { s.m.lh with att := true } } : Mach).fset Reg.LH_ATT_STATUS_BUSY 1)) ∧
      (inStackOrShelf s.m.attBuf s.m.nv.cert.length = true →
        Gives (.idcert a) s ((s.m.hubWrite s.m.attBuf s.m.nv.cert).attEnd 0))) ∧
    (∀ m1 m2 : Mach, s.m.lh.att = true → s.m.flag Reg.LH_LMS_READY = true → m1 = s.m.takeIndex →
      m2 = m1.hubWrite m1.attBuf (m1.reportBody ++
        (Config.attest m1.lh.q m1.reportBody ++ List.replicate sigLen 0).take sigLen) →
      Gives .reportComplete s (({ m2 with lh := { m2.lh with q := m2.lh.q + 1 } } : Mach).showNext.attEnd 0)) ∧
    Gives .treePrepared s ({ s.m with nv := { s.m.nv with
      trees := if s.m.nv.trees ≤ s.m.lh.q / 2 ^ 20 then s.m.lh.q / 2 ^ 20 + 1 else s.m.lh.q / 2 ^ 20 + 2 } } : Mach).showNext ∧
    (∀ (start : BitVec 40) (count : BitVec 17), Agent.reaches a Reg.LH_LOG_CMD = true → s.m.flag Reg.LH_LOG_STATUS_BUSY = false →
      count.toNat ≤ 65536 → inStackOrShelf (s.m.fget Reg.LH_LOG_ARG_BUF * 64) (64 * count.toNat) = true →
      Gives (.logCopy a start count) s
        (({ s.m with lh := { s.m.lh with copy := some (start.toNat, count.toNat) } } : Mach).fset Reg.LH_LOG_STATUS_BUSY 1)) ∧
    (∀ (start n : Nat) (rs : List LogEnt) (m2 : Mach), s.m.lh.copy = some (start, n) →
      rs = (s.m.nv.log ++ s.m.log.buf).filter (fun e => decide (start ≤ e.seq) && decide (e.seq < start + n)) →
      m2 = (((s.m.hubWrite (s.m.fget Reg.LH_LOG_ARG_BUF * 64) (rs.flatMap LogEnt.bytes)).fset Reg.LH_LOG_STATUS_DONE rs.length).fset
        Reg.LH_LOG_STATUS_STATUS 0).fset Reg.LH_LOG_STATUS_BUSY 0 →
      Gives .logCopyDone s { m2 with lh := { m2.lh with copy := none } }) ∧
    (∀ (e : LogEnt) (rest : List LogEnt), s.m.log.buf = e :: rest → s.m.log.lost = 0 → s.m.nv.log.length < 1048576 →
      Gives .logFlashWrite s { s.m with
        log := { s.m.log with buf := rest }
        nv := { s.m.nv with
          log := s.m.nv.log ++ [e]
          logSeq := e.seq + 1 } })

/-- A/B updates, security versions, lifecycle and ownership (R400, R403, R417 to R421): an image that passes is staged, and its slot is
pending once written; a trial is confirmed, a pending slot cancelled; MIN_SVN rises; the module retires; the owner changes. -/
def Obligations.UpdateRowsComplete : Prop :=
  ∀ (s : State) (a : Agent), On s → MayOwn s.m a → s.m.flag Reg.LH_UPD_STATUS_BUSY = false →
    (∀ (t : BitVec 2) (m1 m2 : Mach) (bs : List Byte), t.toNat ≠ 3 → (s.m.pair t.toNat).other ≠ 3 →
      s.m.fget Reg.LH_UPD_LEN_LEN ≤ slotLimit t.toNat →
      inStackOrShelf (s.m.fget Reg.LH_UPD_ARG_ADDR) (s.m.fget Reg.LH_UPD_LEN_LEN) = true →
      s.m.current 25 (s.m.fget Reg.LH_UPD_ARG_ADDR) (s.m.fget Reg.LH_UPD_LEN_LEN) = (m1, true) →
      m1.load 0 (s.m.fget Reg.LH_UPD_ARG_ADDR) (s.m.fget Reg.LH_UPD_LEN_LEN) = (bs, false) → m1.stageBad t.toNat bs = none →
      m2 = m1.setPair t.toNat ((m1.pair t.toNat).putSpare [] 0) →
      Gives (.updateStage a t) s (({ m2 with lh := { m2.lh with upd := some (t.toNat, bs) } } : Mach).fset Reg.LH_UPD_STATUS_BUSY 1)) ∧
    (∀ (t : Nat) (bs : List Byte) (m1 : Mach), s.m.lh.upd = some (t, bs) →
      m1 = (s.m.setPair t ((s.m.pair t).putSpare bs 2)).logE 0x14 0 t noJob 0 →
      Gives .updateSlotWritten s (({ m1 with lh := { m1.lh with upd := none } } : Mach).updEnd 0 t)) ∧
    ((s.m.pair 2).other = 3 →
      Gives (.updateConfirm a 2) s (((s.m.setPair 2 (s.m.pair 2).swap).logE 0x14 0 2 noJob 0).updEnd 0 2)) ∧
    (∀ t : BitVec 2, t.toNat ≠ 3 → (s.m.pair t.toNat).other = 2 →
      Gives (.updateCancel a t) s ((s.m.setPair t.toNat { s.m.pair t.toNat with other := 1 }).updEnd 0 t.toNat)) ∧
    (∀ (k : BitVec 3) (v : Nat), k.toNat ≤ 4 → s.m.lh.regionBad = false → (k.toNat < 3 → (s.m.pair k.toNat).other ≠ 3) →
      s.m.svnUneven = false → s.m.runningSvn k.toNat = some v →
      Gives (.svnCommit a k) s ((((s.m.regionWrite (fun nv => { nv with
        minSvn := sset 0 k.toNat (max v (sget 0 k.toNat nv.minSvn)) nv.minSvn })).showSvn).logE 0x14 0 k.toNat noJob 0).updEnd 0 k.toNat)) ∧
    (∀ m1 m2 : Mach, s.m.fget Reg.LH_LIFE_STATE = 1 → m1 = s.m.regionWrite (fun nv => { nv with
        minSvn := []
        reserved := 0
        owner := ([], [])
        media := false }) → m2 = { m1 with nv := { m1.nv with life := 3 } } →
      Gives (.lifecycleRetire a 0x52455449) s (((m2.sgErase.fset Reg.LH_LIFE_STATE 3).showSvn).updEnd 0 0)) ∧
    (∀ record : List Byte, record.length = 104 + sigLen → s.m.lh.regionBad = false →
      s.m.verifies 2 (record.drop 104) (record.take 104) = true → leNat (cut record 96 8) = s.m.fget Reg.SW_ID_IDENTITY →
      Gives (.transfer a record) s ((s.m.regionWrite (fun nv => { nv with owner := (cut record 0 48, cut record 48 48) })).updEnd 0 0))

/-- SPDM (R409): each request of a connection that has come far enough is answered; the sessions. -/
def Obligations.SpdmRowsComplete : Prop :=
  ∀ (s : State) (p : Fin 2), On s → s.m.linkAlive p.val = true →
    Gives (.getVersion p) s ((s.m.setSpdm p.val ⟨1, none, false⟩).emit (.landward p.val [0x04, 0x12] [])) ∧
    (1 ≤ (s.m.spdmOf p.val).stage → Gives (.getCapabilities p) s
      ((s.m.setSpdm p.val { s.m.spdmOf p.val with stage := max 2 (s.m.spdmOf p.val).stage }).emit (.landward p.val [0x61] []))) ∧
    (2 ≤ (s.m.spdmOf p.val).stage → Gives (.negotiateAlgorithms p true) s
      ((s.m.setSpdm p.val { s.m.spdmOf p.val with stage := 3 }).emit (.landward p.val [0x63] []))) ∧
    (3 ≤ (s.m.spdmOf p.val).stage →
      Gives (.getDigests p) s (s.m.emit (.landward p.val [0x01] (sha384 s.m.nv.chain))) ∧
      (∀ off len : Nat, off ≤ s.m.nv.chain.length → Gives (.getCertificate p off len) s (s.m.emit (.landward p.val
        [0x02, (cut s.m.nv.chain off len).length, s.m.nv.chain.length - off - (cut s.m.nv.chain off len).length]
        (cut s.m.nv.chain off len)))) ∧
      (∀ nonce : BitVec 256, Gives (.challenge p nonce) s
        (s.m.spdmSigned p.val 0x03 [] (sha384 s.m.nv.chain ++ leBytes 32 nonce.toNat))) ∧
      (∀ (index : Fin 8) (nonce : BitVec 256), Gives (.getMeasurements p index nonce) s
        (s.m.spdmSigned p.val 0x60 [index.val] (wordBytes ((s.m.measWords index.val).drop 2) ++ leBytes 32 nonce.toNat))) ∧
      (∀ session : BitVec 16, Gives (.keyExchange p session) s ((s.m.fresh.2.setSpdm p.val { s.m.spdmOf p.val with
        session := some (session.toNat + (Config.random s.m.fresh.1).toNat % 2 ^ 16 * 2 ^ 16)
        secured := false }).spdmSigned p.val 0x64 [(Config.random s.m.fresh.1).toNat % 2 ^ 16] [])) ∧
      (∀ session : BitVec 32, (s.m.spdmOf p.val).session = some session.toNat →
        Gives (.finish p session true false) s
          ((s.m.setSpdm p.val { s.m.spdmOf p.val with secured := true }).emit (.landward p.val [0x65] [])) ∧
        Gives (.finish p session true true) s
          (((s.m.setSpdm p.val { s.m.spdmOf p.val with secured := true }).emit (.landward p.val [0x65] [])).fset
            (Reg.LW_LINK_IDE p.val) 1) ∧
        Gives (.endSession p session) s ((s.m.setSpdm p.val { s.m.spdmOf p.val with session := none, secured := false }).emit
          (.landward p.val [0x6C] []))))

/-- Power-on, recovery, sensors, ageing and the sideband (R389, R391, R412, R415, R416, R437, R438, R446): a module without its input
boots; the ROM takes bytes, and an image that passes starts the boot again; readings are taken and trips follow; the answers. -/
def Obligations.LighthouseRowsComplete : Prop :=
  ∀ (s : State),
    (∀ b : BootInfo, s.m.lh.power = .off → Gives (.powerOn b) s (s.m.boot b)) ∧
    (s.m.lh.power = .rom →
      (∀ data : List Byte, data.length ≤ 255 → s.m.lh.staged.length + data.length ≤ 64 * 2 ^ 20 →
        Gives (.recoveryData data) s { s.m with lh := { s.m.lh with staged := s.m.lh.staged ++ data } }) ∧
      (∀ c : Mach, s.m.lhImageBad true s.m.lh.staged = none →
        c = (s.m.setPair 0 { s.m.nv.fwSlots with
          a := s.m.lh.staged
          active := 0
          other := if s.m.nv.fwSlots.active = 1 then 1 else s.m.nv.fwSlots.other }).coldStart →
        Gives .recoveryCommit s (({ c with lh := { c.lh with power := .on } } : Mach).emit (.sideband 0x11 [0] [])))) ∧
    (s.m.lh.power ≠ .off →
      Gives .ident s (s.m.emit (.sideband 0x01 [s.m.fget Reg.SW_ID_IDENTITY, s.m.fget Reg.LH_LIFE_STATE]
        (leBytes 8 (s.m.rget (Reg.LH_SERIAL 0)).toNat ++ leBytes 8 (s.m.rget (Reg.LH_SERIAL 1)).toNat ++
          [0x57, 0x58, 0x45, 0x2D, 0x34, 0x41, 0x35, 0x31, 0x32, if s.m.flag Reg.BW_ID_FITTED then 0x43 else 0x42]))) ∧
      Gives .sidebandStatus s (({ s.m with free := s.m.free + 12 } : Mach).emit (.sideband 0x02
        ([s.m.fget Reg.PW_MODE_MODE, s.m.fget Reg.LH_RISK_SCORE, (s.m.rget Reg.LH_FRONT_STATE).toNat, s.m.nv.cause] ++
          s.m.lightBar) []))) ∧
    (On s →
      (∀ (temps : List (Fin 412 × BitVec 16)) (rails : List (Fin 164 × BitVec 16 × BitVec 20)) (m0 m1 : Mach),
        m0 = rails.foldl (fun b e => b.takeRail e.1.val e.2.1 e.2.2) s.m →
        m1 = (temps.foldl (fun b e => b.takeTemp e.1.val e.2) m0).takeSteps →
        Gives (.sensorSample ⟨temps, rails⟩) s (((temps.map (fun e => e.1.val)).filter (fun n => decide (tripOf n * 16 ≤ m1.temp16 n) &&
          (decide (n < 380 ∨ 383 < n) || decide (m0.temp16 n < tripOf n * 16)))).foldl (fun b n => b.trip n) m1.coolDies)) ∧
      (∀ f : AgeFit, f.moduleHours = [] → Gives (.ageingFit f) s ((List.range 4).foldl (fun b i => b.ageLaser f i) s.m)) ∧
      (∀ (f : AgeFit) (h : Nat) (hs : List Nat), f.moduleHours = h :: hs → 2160 ≤ hs.foldl min h →
        Gives (.ageingFit f) s ((List.range 4).foldl (fun b i => b.ageLaser f i)
          ((s.m.fset Reg.LH_EOL_REMAIN_H (cap24 (hs.foldl min h))).fset Reg.LH_EOL_DATE (ageDate f.siteHours (hs.foldl min h))))))

/-! Power -/

/-- The input, the domains and the reference (R423, R424, R426, R428, R436, R440): an excursion that has lasted is a power loss, but not
one that has not; a domain's failure and the reference's. -/
def Obligations.InputRowsComplete : Prop :=
  ∀ (s : State) (x us : Nat),
    (x < 45000 → 2000 ≤ us → Gives (.underVoltage x us) s (s.m.powerLoss us)) ∧
    (45000 ≤ x ∨ us < 2000 → Gives (.underVoltage x us) s s.m) ∧
    (57000 < x → 100 ≤ us → Gives (.overVoltage x us) s (s.m.powerLoss us)) ∧
    (x ≤ 57000 ∨ us < 100 → Gives (.overVoltage x us) s s.m) ∧
    (90000 ≤ x → 100 ≤ us → Gives (.overCurrent x us) s (s.m.powerLoss us)) ∧
    (x < 90000 ∨ us < 100 → Gives (.overCurrent x us) s s.m) ∧
    (On s → (∀ n : Fin 164, Gives (.domainFail n) s
      (((s.m.setDoms 3 [n.val]).logE 0x16 0 n.val noJob 0).domainOutcome n.val)) ∧
      Gives .referenceFail s (s.m.shutdown 1023))

/-- The power modes and the cap (R431 to R434): a request is taken, waits for its jobs, takes effect, or is abandoned at its limit;
Slack is entered when its conditions hold, and left; the throttle factor follows the input power. -/
def Obligations.ModeRowsComplete : Prop :=
  ∀ (s : State) (a : Agent), On s →
    (MayOwn s.m a → s.m.pw.phase = .idle → s.m.flag Reg.PW_MODE_BUSY = false →
      (∀ req : BitVec 2, req.toNat = s.m.fget Reg.PW_MODE_MODE → Gives (.modeRequest a req) s (s.m.fset Reg.PW_MODE_STATUS 0)) ∧
      (∀ req : BitVec 2, req.toNat ≠ 3 → s.m.fget Reg.PW_MODE_MODE = 3 →
        Gives (.modeRequest a req) s (s.m.slackWake req.toNat)) ∧
      (∀ req : BitVec 2, req.toNat ≠ s.m.fget Reg.PW_MODE_MODE → s.m.fget Reg.PW_MODE_MODE ≠ 3 → req.toNat ≠ 3 →
        Gives (.modeRequest a req) s
          ((((s.m.fset Reg.PW_MODE_BUSY 1).setMode (.waiting req.toNat)).holdIdle 0 (fun _ => true)).tryActions)) ∧
      (s.m.fget Reg.PW_MODE_MODE ≠ 3 → Gives (.modeRequest a 3) s (s.m.fset Reg.PW_MODE_BUSY 1).slackBegin)) ∧
    (∀ r : Nat, s.m.pw.phase = .changing r → Gives .modeChangeDone s ((s.m.enterMode r).releaseAll 0)) ∧
    (∀ r : Nat, s.m.fget Reg.PW_CFG_MODE_QLIMIT ≠ 0 → s.m.pw.phase = .waiting r ∨ s.m.pw.phase = .entering →
      Gives .modeQlimitExpiry s s.m.abandonMode) ∧
    (s.m.fget Reg.PW_CFG_IDLE_SLACK ≠ 0 → s.m.pw.phase = .idle → s.m.fget Reg.PW_MODE_MODE ≠ 3 → s.m.liveJobs = [] →
      Gives .idleSlackExpiry s { s.m.fset Reg.PW_MODE_BUSY 1 with pw := { s.m.pw with
        phase := .entering
        due := [] } }) ∧
    (s.m.pw.phase = .entering → s.m.slackReady = true → Gives .slackEntry s
      ((List.range 4).foldl (fun b d => if b.dieUp d then b.setDoms 0 (arrayDoms d) else b) (s.m.enterMode 3))) ∧
    (∀ r : Nat, s.m.pw.phase = .leaving r → Gives .slackExitDone s
      ((List.range 4).foldl (fun b d => if b.dieUp d then b.setDoms 2 (arrayDoms d) else b) (s.m.enterMode r))) ∧
    (∀ (watts us : Nat) (m : Mach), m = s.m.fset Reg.PW_INPUT_WATTS watts →
      (m.fget Reg.PW_CAP_CAP_W < watts → Gives (.capControl watts us) s (m.capOver us).setClocks) ∧
      (watts ≤ m.fget Reg.PW_CAP_CAP_W → watts * 100 < m.fget Reg.PW_CAP_CAP_W * 97 →
        Gives (.capControl watts us) s (m.capUnder us).setClocks) ∧
      (watts ≤ m.fget Reg.PW_CAP_CAP_W → m.fget Reg.PW_CAP_CAP_W * 97 ≤ watts * 100 →
        Gives (.capControl watts us) s (m.capBetween us).setClocks))

/-! Shingle, and prefetch schedules -/

/-- The descriptor at the head of Shingle's queue is taken (R166): read from its home, whole, and past its checks; `m` is the machine
after the read. -/
def Sys2Proof.sgTaken (m0 m : Mach) (ws : List Word) : Prop :=
  m0.sg.resetTo = none ∧ m0.sgReady = true ∧ m0.hubWords 24 m0.sgHeadAddr 4 = (m, some (ws, false)) ∧ sgCheck ws = none ∧
  m.lh.locked = false ∧ m.compHeld 2 = false

/-- Shingle (R166 to R171, R179, R258): a WRITE is taken and commits unit by unit, a TRIM empties its units; the doorbell, QRESET and
SANITIZE; wear levelling, read-disturb refresh and a retired block. -/
def Obligations.ShingleRowsComplete : Prop :=
  ∀ (s : State) (a : Agent), On s →
    (∀ (ws : List Word) (m1 m : Mach), sgTaken s.m m1 ws → m = m1.fset Reg.SG_WQ_HEAD_HEAD (s.m.fget Reg.SG_WQ_HEAD_HEAD + 1) →
      (sgOp ws = 0 → m.flag Reg.SG_STATE_WRITE_LOCK = false →
        Gives .write s { m with sg := { m.sg with cur := some (ws, 0) } }) ∧
      (sgOp ws = 0 → m.flag Reg.SG_STATE_WRITE_LOCK = true → Gives .write s (m.sgRecord ws 0x0705 0)) ∧
      (sgOp ws = 1 → ∀ f : Mach, f = m.freeUnits (sgDst ws / 65536) (sgUnits ws) → Gives .trim s (({ f with sg := { f.sg with
        data := serase (fun k => decide (sgDst ws ≤ k) && decide (k < sgDst ws + sgUnits ws * 65536)) f.sg.data
        bad := serase (fun u => decide (sgDst ws / 65536 ≤ u) && decide (u < sgDst ws / 65536 + sgUnits ws)) f.sg.bad
        pages := f.sg.pages.filter (fun q => !(decide (sgDst ws / 65536 ≤ q / 4) && decide (q / 4 < sgDst ws / 65536 + sgUnits ws))) } } :
          Mach).sgRecord ws 0 (sgUnits ws)))) ∧
    (∀ (ws : List Word) (done : Nat) (bs : List Byte) (m1 : Mach), s.m.sg.cur = some (ws, done) → s.m.sgHot = false →
      (s.m.current 24 (sgSrc ws + done * 65536) 65536).2 = true →
      s.m.load (s.m.keyId (bits (wd ws 0) 8 6)) (sgSrc ws + done * 65536) 65536 = (bs, false) →
      m1 = s.m.commitUnit (sgDst ws / 65536 + done) bs →
      (done + 1 ≠ sgUnits ws → Gives .unitCommit s { m1 with sg := { m1.sg with cur := some (ws, done + 1) } }) ∧
      (done + 1 = sgUnits ws → Gives .unitCommit s
        (({ m1 with sg := { m1.sg with cur := none } } : Mach).sgRecord ws 0 (done + 1)))) ∧
    (MayOwn s.m a →
      (∀ tail : BitVec 32, Gives (.shingleDoorbell a tail) s (s.m.fset Reg.SG_WQ_TAIL_TAIL tail.toNat)) ∧
      Gives (.qreset a) s (({ s.m with sg := { s.m.sg with resetTo := some (s.m.fget Reg.SG_WQ_TAIL_TAIL) } } : Mach).sgCancel
        (2 ^ s.m.fget Reg.SG_WQ_BASE_LOG2 + 1)) ∧
      Gives (.sanitize a) s { s.m with sg := { s.m.sg with sanitize := true } }) ∧
    (s.m.sg.sanitize = true → s.m.sg.cur = none → s.m.fget Reg.SG_WQ_HEAD_HEAD = s.m.fget Reg.SG_WQ_TAIL_TAIL →
      Gives .sanitizeDone s s.m.sgErase) ∧
    (∀ b : Nat, (s.m.block b).retired = false →
      ((s.m.block b).erases + 500 < s.m.meanErases → Gives (.wearLevelling b) s (s.m.relocate b)) ∧
      (60000 ≤ (s.m.block b).reads → Gives (.readDisturbRefresh b) s (s.m.relocate b)) ∧
      (∀ (m : Mach) (left : Nat), b < 20000000000000 / 65536 → m = (s.m.setBlock b { s.m.block b with retired := true }).relocate b →
        left = 3000000000000 - ((m.sg.blocks.filter (fun p => p.2.retired)).length + m.sg.spareBad) * 65536 →
        (500000000000 < left → Gives (.blockRetire b) s (m.fset Reg.SG_STATE_SPARE_GB (left / 1000000000))) ∧
        (left ≤ 500000000000 → Gives (.blockRetire b) s
          ((m.fset Reg.SG_STATE_SPARE_GB (left / 1000000000)).fset Reg.SG_STATE_WRITE_LOCK 1))))

/-- The next entry of a schedule may start (R173): it is read, passes, and its WAIT is met. -/
def Sys2Proof.pfReady (m0 : Mach) (jn kind : Nat) (m : Mach) (j : Job) (e : PfEnt) : Prop :=
  m0.pfNext jn = (m, some (.ok e)) ∧ m0.job? jn = some j ∧ e.kind = kind ∧ e.check = none ∧
  m.pfValue e 1 ≤ m.eventVal jn 192 (bits (wd e.words 0) 4 8)

/-- Prefetch schedules (R172 to R175, R258). PREFETCH_START of an open job that does not run clears its state and sets RUNNING,
PREFETCH_STOP clears it, PREFETCH_RESUME clears the failure and sets it. The entry that may start is copied by PREFETCH_COPY, becomes a
command of the data mover by PREFETCH_STAGE (on a die in service, else it ends with 0x0304), or ends with 0x0000 by MARK; and
PREFETCH_ENTRY_DONE takes the oldest entry that ended well out and signals its event where it asks for that. -/
def Obligations.PrefetchRowsComplete : Prop :=
  ∀ (s : State) (a : Agent) (job : Fin 64), On s →
    (MayOwn s.m a →
      (s.m.live job.val = true → s.m.flag (Reg.HB_PF_STATE_RUNNING job.val) = false →
        Gives (.prefetchStart a job) s ((s.m.rset (Reg.HB_PF_STATE job.val) 0).fset (Reg.HB_PF_STATE_RUNNING job.val) 1)) ∧
      Gives (.prefetchStop a job) s (s.m.fset (Reg.HB_PF_STATE_RUNNING job.val) 0) ∧
      (s.m.live job.val = true → Gives (.prefetchResume a job) s (((s.m.fset (Reg.HB_PF_STATE_FAILED job.val) 0).fset
        (Reg.HB_PF_STATE_STATUS job.val) 0).fset (Reg.HB_PF_STATE_RUNNING job.val) 1))) ∧
    (∀ (m : Mach) (j : Job) (e : PfEnt),
      (pfReady s.m job.val 1 m j e → s.m.pfOf job.val = [] →
        Gives (.prefetchCopy job) s ((m.pfTake e).pfCopy j e (e.len / 65536 + 2))) ∧
      (∀ (m1 : Mach) (bs : List Byte) (c : Cmd), pfReady s.m job.val 2 m j e → (m.pfTake e).agentRead 20 j e.src 128 = (m1, .ok bs) →
        c = { id := e.id, job := e.job, ring := 8, slot := 0, tgt := e.tgt, eng := 4, hdr := pfHeader e.job (e.tgt % 48) j.step,
              body := leWords 16 bs, phase := .pending, qn := 0, prog := 0, rep := 0, row := 0, nf := 0, status := none, va := 0,
              skipped := false, fault := none, vregs := [], saved := [], run := [], aux := 0, task := m1.taskNow e.job e.tgt,
              stored := false, held := [] } →
        c.dmKind = 1 →
        (s.m.fget (Reg.HB_DIE_STATE_STATE (e.tgt / 48)) = dieInService →
          Gives (.prefetchStage job) s (m1.setCmds (m1.js.cmds ++ [c]))) ∧
        (s.m.fget (Reg.HB_DIE_STATE_STATE (e.tgt / 48)) ≠ dieInService →
          Gives (.prefetchStage job) s (m1.pfPut { e with status := some 0x0304 }))) ∧
      (pfReady s.m job.val 3 m j e → Gives (.mark job) s ((m.pfTake e).pfPut { e with status := some 0 }))) ∧
    (∀ (e : PfEnt) (rest : List PfEnt), s.m.pfOf job.val = e :: rest → s.m.pfStatus e = some 0 →
      (bits (wd e.words 0) 20 1 = 1 → Gives (.prefetchEntryDone job) s
        ((s.m.pfDrop [e.id]).signal job.val 192 (bits (wd e.words 0) 12 8) (s.m.pfValue e 2 % 2 ^ 48))) ∧
      (bits (wd e.words 0) 20 1 ≠ 1 → Gives (.prefetchEntryDone job) s (s.m.pfDrop [e.id])))

/-! The front edge -/

/-- The front edge (R446 to R453, R456): the button selects, asks for removal and cancels; a bay is quiesced, safe, opened and fitted;
the owner's commands; powering down; the lever. -/
def Obligations.FrontEdgeRowsComplete : Prop :=
  ∀ (s : State) (a : Agent),
    (On s →
      (s.m.front = 0 → Gives .shortPress s (s.m.selectBay 0) ∧
        Gives .longPress s ((s.m.fset Reg.LH_FRONT_STATE_REMOVE_REQ 1).setFront 5)) ∧
      (s.m.front = 1 → Gives .shortPress s (s.m.selectBay (s.m.frontBay + 1)) ∧ Gives .longPress s (s.m.setFront 0) ∧
        Gives .selectTimeout s (s.m.quiesce s.m.frontBay)) ∧
      (s.m.front = 2 → s.m.lanesActive (2 * s.m.frontBay) = 0 → s.m.lanesActive (2 * s.m.frontBay + 1) = 0 →
        Gives .baySafe s (s.m.setFront 3)) ∧
      (s.m.front = 3 → Gives .shortPress s s.m.bayBack ∧ Gives .swapWindowExpiry s s.m.bayBack) ∧
      (s.m.front = 5 → Gives .longPress s s.m.cancelRemove ∧ Gives .graceExpiry s s.m.powerDown) ∧
      (s.m.front = 6 → Gives .powerDownDone s ((s.m.lighthouseOnly .removed).setFront 7)) ∧
      (∀ (b : Fin 4) (m1 : Mach), m1 = (s.m.fset (latchBit b.val) 0).bayFault b.val →
        (s.m.front = 3 → s.m.frontBay = b.val → Gives (.bayLatchOpen b) s (m1.setFront 4)) ∧
        (s.m.front ≠ 3 → Gives (.bayLatchOpen b) s m1)) ∧
      (∀ (b : Fin 4) (r : BayRecord) (m2 : Mach), s.m.flag (latchBit b.val) = false →
        s.m.front ≠ 4 → m2 = s.m.fset (latchBit b.val) 1 →
        (m2.verifies 1 r.sig (BayRecord.covered r) = true → Gives (.bayFitted b r) s
          (((({ m2 with lh := { m2.lh with bays := (List.range 4).map (fun i =>
            if i = b.val then (r.bias, r.eol) else m2.lh.bays.getD i (0, 0)) } } : Mach).rclear (Reg.LH_LASER b.val)).showHeadroom
              b.val).retrainBay b.val)) ∧
        (m2.verifies 1 r.sig (BayRecord.covered r) = false →
          Gives (.bayFitted b r) s ((m2.logE 0x15 0x0601 b.val noJob 0).bayFault b.val))) ∧
      (MayOwn s.m a → s.m.flag Reg.LH_FRONT_STATE_BUSY = false →
        (∀ b : Fin 4, s.m.front = 0 → Gives (.quiesceBay a b) s ((s.m.quiesce b.val).frontEnd 0)) ∧
        (s.m.front = 3 → Gives (.frontCancel a) s (s.m.bayBack.frontEnd 0)) ∧
        (s.m.front = 5 → Gives (.frontCancel a) s (s.m.cancelRemove.frontEnd 0) ∧
          Gives (.removeAck a) s (s.m.powerDown.frontEnd 0)) ∧
        (s.m.front = 0 → Gives (.frontCancel a) s (s.m.frontEnd 0x0101) ∧ Gives (.removeAck a) s (s.m.frontEnd 0x0101)))) ∧
    (∀ m1 : Mach, s.m.lhRuns = true →
      (m1 = s.m.fset Reg.LH_FRONT_STATE_LEVER 0 →
        (s.m.front = 7 → Gives .leverOpen s m1) ∧
        (s.m.front ≠ 7 → Gives .leverOpen s (({ m1 with lh := { m1.lh with lever := true } } : Mach).logE 0x16 0 0 noJob 0))) ∧
      (m1 = s.m.fset Reg.LH_FRONT_STATE_LEVER 1 → Gives .leverClose s { m1 with lh := { m1.lh with lever := false } }))

/-! The machine as a whole -/

/-- A step takes the command at the front of the queue and runs it with the rest of the queue. -/
def Obligations.StepRunsFront : Prop :=
  ∀ (s : State) (c : Instr) (rest : List Instr), step { s with pending := c :: rest } = exec c { s with pending := rest }

/-- The model's own choice (log entry 4): on an empty queue a module that is on tries again what waits for its home (log entry 16), and
lets one nanosecond pass; one that is down stands. -/
def Obligations.IdleStep : Prop :=
  ∀ s : State, s.pending = [] →
    (On s → s.goOn.pending = [] ∧ (On s.goOn → step s = .next { s.goOn with m := s.goOn.m.tick })) ∧
    (On s → s.m.dir.again = [] → s.m.sg.resetTo = none → s.m.sw.ethHeld = [] → s.m.xl.recs = [] →
      step s = .next { s with m := s.m.tick }) ∧
    (s.m.down = true → step s = .next s)

/-- Every command, in every state and with every operand, answers a next state with the queue as it was: none ends in a fault, none is
refused. -/
def Obligations.EveryCommandAnswers : Prop := ∀ (c : Instr) (s : State), ∃ m : Mach, Gives c s m

/-- Right after reset the queue holds no ill-formed command. -/
def Obligations.QueueOkAtReset : Prop := QueueOk State.reset

/-- From every state whose waiting commands are well-formed a step leaves only well-formed ones. -/
def Obligations.QueueOkKept : Prop := ∀ s t : State, QueueOk s → step s = .next t → QueueOk t

/-- The two words of R92 carry every field of a vector instruction: decoding what is encoded gives it back, whatever its fields, and
two instructions with one encoding are one. -/
def Obligations.VectorEncoding : Prop :=
  ∀ (op : Nat) (i : VInst), op < 256 →
    decodeVInst (encodeVInst op i).1 (encodeVInst op i).2 = some (op, i) ∧
    ∀ (op' : Nat) (i' : VInst), op' < 256 → encodeVInst op i = encodeVInst op' i' → op = op' ∧ i = i'

/-- R7: the widths and alignments that are performed, the half a 32-bit access reaches, and what any other access does: a read
answers all ones, a write changes nothing but the event log and its registers, and the log takes one record of it. -/
def Obligations.RegisterWidths : Prop :=
  (∀ addr size : Nat, accessOk addr size = true ↔ (size = 8 ∧ 8 ∣ addr) ∨ (size = 4 ∧ 4 ∣ addr)) ∧
  (∀ (addr : Nat) (v : Word), (regWriteOf addr 8 v).reg = addr ∧ (regWriteOf addr 8 v).mask = BitVec.allOnes 64) ∧
  (∀ (addr : Nat) (v : Word), 8 ∣ addr →
    (regWriteOf addr 4 v).reg = addr ∧ (regWriteOf addr 4 v).mask = 0x00000000FFFFFFFF#64 ∧
    (regWriteOf (addr + 4) 4 v).reg = addr ∧ (regWriteOf (addr + 4) 4 v).mask = 0xFFFFFFFF00000000#64) ∧
  (∀ (s : State) (a : Agent) (addr : BitVec 52) (size : Nat), On s →
    tierOf addr.toNat = .registers → accessOk addr.toNat size = false →
    (∀ wr : Bool, Completes (.accessNotPerformed a addr size wr) s (fun m =>
      m.mem = s.m.mem ∧ m.dir = s.m.dir ∧ m.js = s.m.js ∧ m.xl = s.m.xl ∧ m.nv = s.m.nv ∧
      (∀ r : Nat, r ≠ Reg.LH_LOG_HEAD → r ≠ Reg.LH_LOG_LOST → r ≠ Reg.LH_ALERT → m.rget r = s.m.rget r) ∧
      m.out = (if wr then s.m.out else .regData (BitVec.allOnes 64) :: s.m.out) ∧
      (s.m.log.buf.length < 4096 → ∃ e : LogEnt, m.log.buf = s.m.log.buf ++ [e] ∧ e.addr = addr.toNat))))

/-- R8: a write leaves every bit that no RW, W1C or RWL field holds, and once Lighthouse has locked the block every RWL bit too; an
RW bit takes the value written, and a W1C bit clears where a 1 is written. -/
def Obligations.AccessCodes : Prop :=
  ∀ (m : Mach) (d : RegDef) (w : RegWrite) (i : Nat), i < 64 →
    ((accMask d .rw).getLsbD i = false → (accMask d .w1c).getLsbD i = false →
      ((accMask d .rwl).getLsbD i = false ∨ m.lh.booted = true) → (m.written d w).getLsbD i = (m.rget w.reg).getLsbD i) ∧
    (w.mask.getLsbD i = false → (m.written d w).getLsbD i = (m.rget w.reg).getLsbD i) ∧
    ((accMask d .rw).getLsbD i = true → (accMask d .w1c).getLsbD i = false → w.mask.getLsbD i = true →
      (m.written d w).getLsbD i = w.val.getLsbD i) ∧
    ((accMask d .w1c).getLsbD i = true → (accMask d .rw).getLsbD i = false → (accMask d .rwl).getLsbD i = false →
      w.mask.getLsbD i = true → (m.written d w).getLsbD i = ((m.rget w.reg).getLsbD i && !w.val.getLsbD i))

/-- R258 and the rules that extend it: a command, or a write to a register, that belongs to the owner has no effect from any other
agent but Lighthouse, and is logged. -/
def Obligations.OwnerOnlyWrites : Prop :=
  ∀ (s : State) (a : Agent), On s → ¬MayOwn s.m a →
    (∀ (job sel : Fin 64) (d b : Fin 4) (t : BitVec 32) (v : Word) (x : Bool) (bs : List Byte),
      ∀ p ∈ ([
        (.create a job, Reg.HB_JOB_CMD), (.destroy a job, Reg.HB_JOB_CMD), (.generate a sel, Reg.SK_KEY_CMD), (.erase a sel, Reg.SK_KEY_CMD),
        (.frHeadWrite a t, Reg.HB_FR_HEAD), (.frBaseWrite a v, Reg.HB_FR_BASE),
        (.hbFltResolve a (v.setWidth 8) (t.setWidth 16), Reg.HB_FLT_RESOLVE), (.tlbi a (t.setWidth 16) x (v.getLsbD 0), Reg.HB_TLBI_CMD),
        (.mpTailWrite a t, Reg.HB_MP_TAIL), (.evict a (t.setWidth 16) x, Reg.HB_EV_CMD), (.hbDieFence a d, Reg.HB_DIE_CMD),
        (.readmit a d, Reg.HB_DIE_CMD), (.routeChange a (t.setWidth 2), Reg.LW_ROUTE),
        (.membershipLoad a (t.setWidth 12) (v.setWidth 13), Reg.SW_SELF), (.openCtx a, Reg.SW_CTX_CMD),
        (.closeCtx a (t.setWidth 14), Reg.SW_CTX_CMD), (.laneRetire a sel, Reg.SW_LANE_CMD), (.laneRestore a sel, Reg.SW_LANE_CMD),
        (.firmwareLoad a (t.setWidth 3) x, Reg.HB_FW_CMD), (.reload a (t.setWidth 3) x, Reg.HB_FW_CMD), (.restore a job, Reg.HB_TM_RST_CMD),
        (.tidemarkRelease a job, Reg.HB_TM_RST_CMD), (.updateStage a (t.setWidth 2), Reg.LH_UPD_CMD),
        (.updateConfirm a (t.setWidth 2), Reg.LH_UPD_CMD), (.updateCancel a (t.setWidth 2), Reg.LH_UPD_CMD),
        (.svnCommit a (t.setWidth 3), Reg.LH_SVN_CMD), (.lifecycleRetire a t, Reg.LH_LIFE_CMD), (.transfer a bs, Reg.LH_LIFE_CMD),
        (.modeRequest a (t.setWidth 2), Reg.PW_MODE), (.shingleDoorbell a t, Reg.SG_WQ_TAIL), (.qreset a, Reg.SG_CTRL),
        (.sanitize a, Reg.SG_CTRL), (.prefetchStart a job, Reg.HB_PF_CTRL job.val), (.prefetchStop a job, Reg.HB_PF_CTRL job.val),
        (.prefetchResume a job, Reg.HB_PF_CTRL job.val), (.quiesceBay a b, Reg.LH_FRONT_CMD), (.frontCancel a, Reg.LH_FRONT_CMD),
        (.removeAck a, Reg.LH_FRONT_CMD)] : List (Instr × Nat)), Gives p.1 s (s.m.logE 0x01 0 0 noJob p.2)) ∧
    (∀ (n : Fin 16) (x : Bool) (v : Word) (lanes : BitVec 7), s.m.flag Reg.BW_ID_FITTED = true →
      (4 ≤ n.val → Gives (.bwWindowWrite a n x v) s
        (s.m.logE 0x01 0 0 noJob (if x then Reg.BW_WIN_LIM n.val else Reg.BW_WIN_BASE n.val))) ∧
      Gives (.retrain a x lanes) s (s.m.logE 0x01 0 0 noJob Reg.BW_CTRL)) ∧
    (∀ (addr : BitVec 52) (size : Nat) (v : Word) (d : RegDef), tierOf addr.toNat = .registers → accessOk addr.toNat size = true →
      Reg.rowAt (regWriteOf addr.toNat size v).reg = some d → s.m.rowFor a (regWriteOf addr.toNat size v) = none →
      triggers a (.registerWrite a addr size v) (regWriteOf addr.toNat size v) = [] →
      s.m.lostWindow (regWriteOf addr.toNat size v).reg = false → ownerOnly (regWriteOf addr.toNat size v).reg = true →
      (s.m.flag Reg.BW_ID_FITTED = true ∨ (regWriteOf addr.toNat size v).reg ≤ Reg.BW_ID ∨ Reg.HL_ID ≤ (regWriteOf addr.toNat size v).reg) →
      ¬(Reg.HB_DB_SQ_TAIL 0 0 ≤ (regWriteOf addr.toNat size v).reg ∧
        (regWriteOf addr.toNat size v).reg < Reg.HB_DB_SQ_TAIL 64 0) →
      Gives (.registerWrite a addr size v) s (s.m.logE 0x01 0 0 noJob (regWriteOf addr.toNat size v).reg))

/-- R259: CLAIM takes effect only while OWNER is 00 and makes its writer the owner, Headland before landward port 0 before landward
port 1; a RELEASE from the owner sets OWNER to 00 and one from another agent changes nothing; jobs, rings and schedules run on
through either. -/
def Obligations.ClaimRules : Prop :=
  ∀ s : State, On s →
    (∀ as : List Agent,
      (s.m.fget Reg.HL_DRV_OWNER_OWNER ≠ 0 → Gives (.claim as) s s.m) ∧
      (s.m.fget Reg.HL_DRV_OWNER_OWNER = 0 → Completes (.claim as) s (fun m =>
        m.fget Reg.HL_DRV_OWNER_OWNER = (if ∃ h, .headland h ∈ as then 1 else if .host 0 ∈ as then 2 else if .host 1 ∈ as then 3 else 0) ∧
        m.js = s.m.js ∧ m.td = s.m.td ∧ m.sw = s.m.sw ∧ ∀ r : Nat, r ≠ Reg.HL_DRV_OWNER → m.rget r = s.m.rget r))) ∧
    (∀ a : Agent, Agent.reaches a Reg.HL_DRV_OWNER = true →
      (a.ownerCode ≠ 0 → a.ownerCode = s.m.fget Reg.HL_DRV_OWNER_OWNER → Completes (.release a) s (fun m =>
        m.fget Reg.HL_DRV_OWNER_OWNER = 0 ∧ m.js = s.m.js ∧ m.td = s.m.td ∧ m.sw = s.m.sw ∧
        ∀ r : Nat, r ≠ Reg.HL_DRV_OWNER → m.rget r = s.m.rget r)) ∧
      (a.ownerCode ≠ s.m.fget Reg.HL_DRV_OWNER_OWNER → Gives (.release a) s s.m))

/-- Memory (R160, R162): a write under a key leaves every byte outside it as a read under that key returned it, and every byte outside
the 16-byte cipher blocks it touches as a read under any key did; a write of which no part fails is read back under its key; and what the
commands of the memory tiers do keeps the canonical form of memory. -/
def Obligations.MemoryWrites : Prop :=
  (∀ (m : Mach) (key pa : Nat) (bs : List Byte),
    (∀ x k : Nat, x < pa ∨ pa + bs.length ≤ x → k = key ∨ x / 16 < pa / 16 ∨ (pa + bs.length - 1) / 16 < x / 16 →
      (m.memWrite key pa bs).1.peek k x = m.peek k x) ∧
    ((m.memWrite key pa bs).2 = false → (m.memWrite key pa bs).1.peeks key pa bs.length = bs)) ∧
  (∀ (s : State) (a : Agent) (pa : BitVec 52) (key sel : Fin 64) (errs : List (Fin 36 × Byte)) (data : List Byte),
    Memory.wf s.m.mem = true →
    ∀ c ∈ ([.demandRead pa key errs, .codewordWrite pa key data, .scrub pa errs, .generate a sel, .erase a sel, .keyCommandDone] :
      List Instr), Completes c s (fun m => Memory.wf m.mem = true))

/-- R413: a record takes the next number and joins the buffer while it holds fewer than 4,096; a full buffer drops and counts it.
Nothing else of the machine than the log and its registers changes, but that LH_ALERT's rise raises source 132 where it is enabled or a landward
port owns the module. -/
def Obligations.LogRecords : Prop :=
  ∀ (m : Mach) (event status unit job addr : Nat) (data : List Nat),
    (m.log.buf.length < 4096 →
      (m.logD event status unit job addr data).log.buf = m.log.buf ++
        [⟨m.fget Reg.LH_LOG_HEAD_SEQ, m.now, m.tideUnset, event, status, unit, job, addr, data⟩] ∧
      (m.logD event status unit job addr data).fget Reg.LH_LOG_HEAD_SEQ = min (m.fget Reg.LH_LOG_HEAD_SEQ + 1) (2 ^ 40 - 1) ∧
      (m.logD event status unit job addr data).irq = m.irq) ∧
    (4096 ≤ m.log.buf.length →
      (m.logD event status unit job addr data).log.buf = m.log.buf ∧
      (m.logD event status unit job addr data).log.lost = m.log.lost + 1 ∧
      (m.logD event status unit job addr data).fget Reg.LH_ALERT_LOG = 1 ∧
      (m.logD event status unit job addr data).irq = 
        (if m.fget Reg.LH_ALERT_LOG = 0 ∧ (2 ≤ m.fget Reg.HL_DRV_OWNER_OWNER ∨ m.flag (Reg.HL_IRQ_ROUTE_EN 132) = true) then m.irq ++ [132]
          else m.irq)) ∧
    (m.logD event status unit job addr data).mem = m.mem ∧ (m.logD event status unit job addr data).dir = m.dir ∧
    (m.logD event status unit job addr data).js = m.js ∧ (m.logD event status unit job addr data).nv = m.nv ∧
    ∀ r : Nat, r ≠ Reg.LH_LOG_HEAD → r ≠ Reg.LH_LOG_LOST → r ≠ Reg.LH_ALERT →
      (m.logD event status unit job addr data).rget r = m.rget r

/-- The all-finite flag (R45, R47): the LAST collective's end makes it final with FINITE the inverse of the reduced bit; a counted
result of the open step sets LOCAL_NF and leaves FINITE; one of the step after is kept for its step; the boundary copies the flag to
HB_FIN_PREV and opens the next step, finite, with the counts kept for it. -/
def Obligations.FlagRules : Prop :=
  ∀ (m : Mach) (jn : Nat) (j : Job), jn < 64 → m.job? jn = some j →
    (∀ nf : Bool, (m.flagFinal jn nf).fget (Reg.HB_FIN_STATE_FINAL jn) = 1 ∧
      (m.flagFinal jn nf).fget (Reg.HB_FIN_STATE_FINITE jn) = (if nf then 0 else 1) ∧
      ∀ r : Nat, r ≠ Reg.HB_FIN_STATE jn → (m.flagFinal jn nf).rget r = m.rget r) ∧
    (∀ cls n : Nat, n ≠ 0 → cls = 1 ∨ cls = 2 → j.lastSent = false → m.flag (Reg.HB_FIN_STATE_FINAL jn) = false →
      (m.addStepNf jn j.step cls n).fget (Reg.HB_FIN_STATE_LOCAL_NF jn) = 1 ∧
      (m.addStepNf jn j.step cls n).fget (Reg.HB_FIN_STATE_FINITE jn) = m.fget (Reg.HB_FIN_STATE_FINITE jn) ∧
      (m.addStepNf jn j.step cls n).fget (Reg.HB_FIN_STATE_LATE_NF jn) = m.fget (Reg.HB_FIN_STATE_LATE_NF jn) ∧
      (m.addStepNf jn j.step cls n).fget (if cls = 1 then Reg.HB_FIN_COUNT_GRAD_NF jn else Reg.HB_FIN_COUNT_LOSS_NF jn) =
        min (m.fget (if cls = 1 then Reg.HB_FIN_COUNT_GRAD_NF jn else Reg.HB_FIN_COUNT_LOSS_NF jn) + n) (2 ^ 32 - 1) ∧
      (m.addStepNf jn j.step cls n).log = m.log) ∧
    (∀ cls n : Nat, n ≠ 0 → cls = 1 ∨ cls = 2 →
      (m.addStepNf jn (j.step + 1) cls n).regs = m.regs ∧
      (m.addStepNf jn (j.step + 1) cls n).job? jn = some { j with nextNf :=
        if cls = 1 then { j.nextNf with grad := min (j.nextNf.grad + n) (2 ^ 32 - 1) }
        else { j.nextNf with loss := min (j.nextNf.loss + n) (2 ^ 32 - 1) } }) ∧
    (j.nextNf.grad < 2 ^ 32 → j.nextNf.loss < 2 ^ 32 →
      (m.flagBoundary jn j).fget (Reg.HB_FIN_PREV_STEP jn) = m.fget (Reg.HB_FIN_STATE_STEP jn) ∧
      (m.flagBoundary jn j).fget (Reg.HB_FIN_PREV_VALID jn) = 1 ∧
      (m.flagBoundary jn j).fget (Reg.HB_FIN_PREV_DECIDED jn) = m.fget (Reg.HB_FIN_STATE_FINAL jn) ∧
      (m.flagBoundary jn j).fget (Reg.HB_FIN_PREV_FINITE jn) =
        (if m.flag (Reg.HB_FIN_STATE_FINAL jn) then m.fget (Reg.HB_FIN_STATE_FINITE jn) else 0) ∧
      (m.flagBoundary jn j).fget (Reg.HB_FIN_STATE_STEP jn) = (j.step + 1) % 2 ^ 32 ∧
      (m.flagBoundary jn j).fget (Reg.HB_FIN_STATE_FINAL jn) = 0 ∧ (m.flagBoundary jn j).fget (Reg.HB_FIN_STATE_FINITE jn) = 1 ∧
      (m.flagBoundary jn j).fget (Reg.HB_FIN_STATE_LATE_NF jn) = 0 ∧
      (m.flagBoundary jn j).fget (Reg.HB_FIN_STATE_LOCAL_NF jn) = (if j.nextNf.grad + j.nextNf.loss = 0 then 0 else 1) ∧
      (m.flagBoundary jn j).fget (Reg.HB_FIN_COUNT_GRAD_NF jn) = j.nextNf.grad ∧
      (m.flagBoundary jn j).fget (Reg.HB_FIN_COUNT_LOSS_NF jn) = j.nextNf.loss)

/-- The integer operations of R93 at width `w`: opcode and meaning on bit vectors. -/
def Sys2Proof.intLaneOps (w : Nat) : List (Nat × (BitVec w → BitVec w → BitVec w)) := [
  (0x20, fun a b => a + b), (0x21, fun a b => a - b), (0x22, fun a b => a * b), (0x23, fun a b => a &&& b),
  (0x24, fun a b => a ||| b), (0x25, fun a b => a ^^^ b), (0x26, fun a b => a <<< (b.toNat % w)),
  (0x27, fun a b => a >>> (b.toNat % w)), (0x28, fun a b => a.sshiftRight (b.toNat % w)),
  (0x29, fun a b => if a.slt b then a else b), (0x2A, fun a b => if a.slt b then b else a)]

/-- Integer lanes (R93): sum, difference and the low half of the product wrap; the bitwise operations; shifts by the second operand mod
the width, left, logical and arithmetic; the signed minimum and maximum. In I32 and in I16, for every pair of values. -/
def Obligations.IntegerLanes : Prop :=
  (∀ p ∈ intLaneOps 32, ∀ (a b : BitVec 32) (c : Nat), laneOp p.1 2 a.toNat b.toNat c = (p.2 a b).toNat) ∧
  (∀ p ∈ intLaneOps 16, ∀ (a b : BitVec 16) (c : Nat), laneOp p.1 3 a.toNat b.toNat c = (p.2 a b).toNat)

/-- The registers of a core that a vector instruction moves: its counters of non-finite results, its state and its lane operations. -/
def Sys2Proof.vxRegs (c : CoreId) : List Nat := [
  Reg.RF_NF_GRAD c.die.val c.core.val, Reg.RF_NF_LOSS c.die.val c.core.val, Reg.RF_NF_MON c.die.val c.core.val,
  Reg.RF_NF_SRC c.die.val c.core.val, Reg.RF_NF_LAST c.die.val c.core.val, Reg.RF_VX_STATE c.die.val c.core.val,
  Reg.RF_VX_LANEOPS c.die.val c.core.val]

/-- The frame of a vector instruction that writes lanes (R80, R81, R93), in every state: memory, the directory, translation, the
interrupts, the log, what Lighthouse keeps and every register but those of its core stay; of the jobs' state only the running
command of its core moves. -/
def Obligations.VectorFrame : Prop :=
  ∀ (s : State) (c : CoreId) (i : VInst), On s →
    ∀ x ∈ elementwiseRows.map (fun p => p.2 c i) ++ [.viota c i, .vcvt c i, .vrsum c i, .vrmax c i, .vmov c i, .vbcast c i, .vperm c i],
      Completes x s (fun m => m.mem = s.m.mem ∧ m.dir = s.m.dir ∧ m.xl = s.m.xl ∧ m.nv = s.m.nv ∧ m.log = s.m.log ∧ m.irq = s.m.irq ∧
        m.out = s.m.out ∧ m.ns = s.m.ns ∧ (∀ r : Nat, r ∉ vxRegs c → m.rget r = s.m.rget r) ∧
        m.js.jobs = s.m.js.jobs ∧
        (∀ k ∈ s.m.js.cmds, (∀ q : Cmd, s.m.running c.flat 3 = some q → k.id ≠ q.id) → k ∈ m.js.cmds))

/-- The Tide count (R323): unset it reads what it read; standing still it stands; otherwise a nanosecond moves it by none, one or two,
never backward; the local counter moves by one; and beyond the Reef dies' windows no other register moves. -/
def Obligations.TideForward : Prop :=
  ∀ m : Mach, m.tick.ns = m.ns + 1 ∧
    (m.tideUnset = true → m.tick.rget Reg.TD_NOW = m.rget Reg.TD_NOW) ∧
    (m.flag Reg.TD_STATE_STILL = true → m.tick.rget Reg.TD_NOW = m.rget Reg.TD_NOW) ∧
    ((m.rget Reg.TD_NOW).toNat + 2 < 2 ^ 64 → (m.rget Reg.TD_NOW).toNat ≤ (m.tick.rget Reg.TD_NOW).toNat ∧
      (m.tick.rget Reg.TD_NOW).toNat ≤ (m.rget Reg.TD_NOW).toNat + 2) ∧
    (∀ r : Nat, 0xF00010000000 ≤ r → r ≠ Reg.TD_NOW → r ≠ Reg.TD_STATE → m.tick.rget r = m.rget r)

/-- A module right after reset: no command waits, no context is live, no engine holds a command, the directory is empty, no one owns
the module, the Tide count is unset, key slot 1 holds no key, no landward port is armed, no job command runs, and every register reads
the reset value of its table, but the registers of a partner site that is not fitted read 0 (R232); where a table gives none, the value of log entry 2, which is the model's choice. -/
def Obligations.ResetValues : Prop :=
  State.reset.pending = [] ∧ State.reset.m.js.jobs = [] ∧ State.reset.m.js.cmds = [] ∧ State.reset.m.dir.ents = [] ∧
  State.reset.m.fget Reg.HL_DRV_OWNER_OWNER = 0 ∧ State.reset.m.fget Reg.TD_STATE_STATE = 0 ∧
  State.reset.m.fget ⟨Reg.SK_KEY_LOADED, 1, 1⟩ = 0 ∧ State.reset.m.fget (Reg.LW_EPOCH_ARMED 0) = 0 ∧
  State.reset.m.fget (Reg.LW_EPOCH_ARMED 1) = 0 ∧ State.reset.m.fget Reg.HB_JOB_STATUS_BUSY = 0 ∧
  (∀ r : Nat, State.reset.m.rget r = if r ∈ [Reg.BW_CFG, Reg.BW_RATE] then 0 else BitVec.ofNat 64 (Reg.resetOf r)) ∧
  State.reset.m.flag Reg.BW_ID_FITTED = false

end
end

