-- ==== Sys2Proof/Laws/Exec.lean ====
section
/-!
SUPPORT. Which meaning each command has: one equation for each constructor, so that no proof unfolds the dispatcher.
-/

namespace Sys2Proof.Machine

theorem exec_registerWrite (s : State) {a} {addr} {size} {v} : exec (.registerWrite a addr size v) s = execRegisterWrite a addr size v s := rfl
theorem exec_accessNotPerformed (s : State) {a} {addr} {size} {wr} : exec (.accessNotPerformed a addr size wr) s = execAccessNotPerformed a addr size wr s := rfl
theorem exec_unassignedAccess (s : State) {a} {addr} {size} {wr} : exec (.unassignedAccess a addr size wr) s = execUnassignedAccess a addr size wr s := rfl
theorem exec_reservedRangeAccess (s : State) {a} {pa} {wr} : exec (.reservedRangeAccess a pa wr) s = execReservedRangeAccess a pa wr s := rfl
theorem exec_shingleWriteDiscard (s : State) {a} {pa} : exec (.shingleWriteDiscard a pa) s = execShingleWriteDiscard a pa s := rfl
theorem exec_rds (s : State) {x} {line} : exec (.rds x line) s = execRds x line s := rfl
theorem exec_rdo (s : State) {x} {line} : exec (.rdo x line) s = execRdo x line s := rfl
theorem exec_upg (s : State) {x} {line} : exec (.upg x line) s = execUpg x line s := rfl
theorem exec_wb (s : State) {y} {line} {data} : exec (.wb y line data) s = execWb y line data s := rfl
theorem exec_evictionNotice (s : State) {x} {line} {toLlc} : exec (.evictionNotice x line toLlc) s = execEvictionNotice x line toLlc s := rfl
theorem exec_nonCachingWrite (s : State) {r} {pa} {key} {w} : exec (.nonCachingWrite r pa key w) s = execNonCachingWrite r pa key w s := rfl
theorem exec_engineRead (s : State) {c} {job} {pa} {key} : exec (.engineRead c job pa key) s = execEngineRead c job pa key s := rfl
theorem exec_snoopResponse (s : State) {y} {line} {ans} : exec (.snoopResponse y line ans) s = execSnoopResponse y line ans s := rfl
theorem exec_completionAck (s : State) {line} : exec (.completionAck line) s = execCompletionAck line s := rfl
theorem exec_snoopTimeout (s : State) {y} {line} : exec (.snoopTimeout y line) s = execSnoopTimeout y line s := rfl
theorem exec_demandRead (s : State) {pa} {key} {errs} : exec (.demandRead pa key errs) s = execDemandRead pa key errs s := rfl
theorem exec_codewordWrite (s : State) {pa} {key} {data} : exec (.codewordWrite pa key data) s = execCodewordWrite pa key data s := rfl
theorem exec_scrub (s : State) {pa} {errs} : exec (.scrub pa errs) s = execScrub pa errs s := rfl
theorem exec_shingleRead (s : State) {pa} {uncorrectable} : exec (.shingleRead pa uncorrectable) s = execShingleRead pa uncorrectable s := rfl
theorem exec_generate (s : State) {a} {sel} : exec (.generate a sel) s = execGenerate a sel s := rfl
theorem exec_erase (s : State) {a} {sel} : exec (.erase a sel) s = execErase a sel s := rfl
theorem exec_keyCommandDone (s : State)  : exec (.keyCommandDone) s = execKeyCommandDone s := rfl
theorem exec_create (s : State) {a} {job} : exec (.create a job) s = execCreate a job s := rfl
theorem exec_destroy (s : State) {a} {job} : exec (.destroy a job) s = execDestroy a job s := rfl
theorem exec_destroyComplete (s : State) {job} : exec (.destroyComplete job) s = execDestroyComplete job s := rfl
theorem exec_sqDoorbell (s : State) {a} {job} {ring} {tail} : exec (.sqDoorbell a job ring tail) s = execSqDoorbell a job ring tail s := rfl
theorem exec_hbDbEvent (s : State) {a} {job} {event} {value} : exec (.hbDbEvent a job event value) s = execHbDbEvent a job event value s := rfl
theorem exec_ringResume (s : State) {a} {job} {ring} : exec (.ringResume a job ring) s = execRingResume a job ring s := rfl
theorem exec_ringReset (s : State) {a} {job} {ring} : exec (.ringReset a job ring) s = execRingReset a job ring s := rfl
theorem exec_cqHeadWrite (s : State) {a} {job} {head} : exec (.cqHeadWrite a job head) s = execCqHeadWrite a job head s := rfl
theorem exec_eqHeadWrite (s : State) {a} {job} {head} : exec (.eqHeadWrite a job head) s = execEqHeadWrite a job head s := rfl
theorem exec_cqBatchTimeout (s : State) {job} : exec (.cqBatchTimeout job) s = execCqBatchTimeout job s := rfl
theorem exec_commandFetch (s : State) {job} {ring} : exec (.commandFetch job ring) s = execCommandFetch job ring s := rfl
theorem exec_commandDispatch (s : State) {t} {e} : exec (.commandDispatch t e) s = execCommandDispatch t e s := rfl
theorem exec_commandComplete (s : State) {t} {e} : exec (.commandComplete t e) s = execCommandComplete t e s := rfl
theorem exec_switchOut (s : State) {c} {e} : exec (.switchOut c e) s = execSwitchOut c e s := rfl
theorem exec_faultLimitExpiry (s : State) {t} {w} : exec (.faultLimitExpiry t w) s = execFaultLimitExpiry t w s := rfl
theorem exec_watchdogExpiry (s : State) {t} {w} : exec (.watchdogExpiry t w) s = execWatchdogExpiry t w s := rfl
theorem exec_stepBoundary (s : State) {job} : exec (.stepBoundary job) s = execStepBoundary job s := rfl
theorem exec_nop (s : State) {t} : exec (.nop t) s = execNop t s := rfl
theorem exec_fence (s : State) {t} : exec (.fence t) s = execFence t s := rfl
theorem exec_flush (s : State) {t} : exec (.flush t) s = execFlush t s := rfl
theorem exec_stepend (s : State) {t} : exec (.stepend t) s = execStepend t s := rfl
theorem exec_selftest (s : State) {c} {pass} : exec (.selftest c pass) s = execSelftest c pass s := rfl
theorem exec_poolclear (s : State) {c} : exec (.poolclear c) s = execPoolclear c s := rfl
theorem exec_copy (s : State) {c} : exec (.copy c) s = execCopy c s := rfl
theorem exec_stage (s : State) {c} : exec (.stage c) s = execStage c s := rfl
theorem exec_fill (s : State) {c} : exec (.fill c) s = execFill c s := rfl
theorem exec_gemm (s : State) {c} : exec (.gemm c) s = execGemm c s := rfl
theorem exec_conv (s : State) {c} : exec (.conv c) s = execConv c s := rfl
theorem exec_mv (s : State) {c} : exec (.mv c) s = execMv c s := rfl
theorem exec_matrixPass (s : State) {c} : exec (.matrixPass c) s = execMatrixPass c s := rfl
theorem exec_mxCntClr (s : State) {a} {c} : exec (.mxCntClr a c) s = execMxCntClr a c s := rfl
theorem exec_planFlush (s : State) {a} {c} : exec (.planFlush a c) s = execPlanFlush a c s := rfl
theorem exec_chain (s : State) {c} : exec (.chain c) s = execChain c s := rfl
theorem exec_chainChunk (s : State) {c} : exec (.chainChunk c) s = execChainChunk c s := rfl
theorem exec_program (s : State) {c} : exec (.program c) s = execProgram c s := rfl
theorem exec_vxCntClr (s : State) {a} {c} : exec (.vxCntClr a c) s = execVxCntClr a c s := rfl
theorem exec_nfClr (s : State) {a} {c} : exec (.nfClr a c) s = execNfClr a c s := rfl
theorem exec_vadd (s : State) {c} {x} : exec (.vadd c x) s = execVadd c x s := rfl
theorem exec_vsub (s : State) {c} {x} : exec (.vsub c x) s = execVsub c x s := rfl
theorem exec_vmul (s : State) {c} {x} : exec (.vmul c x) s = execVmul c x s := rfl
theorem exec_vfma (s : State) {c} {x} : exec (.vfma c x) s = execVfma c x s := rfl
theorem exec_vfnma (s : State) {c} {x} : exec (.vfnma c x) s = execVfnma c x s := rfl
theorem exec_vdiv (s : State) {c} {x} : exec (.vdiv c x) s = execVdiv c x s := rfl
theorem exec_vsqrt (s : State) {c} {x} : exec (.vsqrt c x) s = execVsqrt c x s := rfl
theorem exec_vrcp (s : State) {c} {x} : exec (.vrcp c x) s = execVrcp c x s := rfl
theorem exec_vrsq (s : State) {c} {x} : exec (.vrsq c x) s = execVrsq c x s := rfl
theorem exec_vexp2 (s : State) {c} {x} : exec (.vexp2 c x) s = execVexp2 c x s := rfl
theorem exec_vlog2 (s : State) {c} {x} : exec (.vlog2 c x) s = execVlog2 c x s := rfl
theorem exec_vexp (s : State) {c} {x} : exec (.vexp c x) s = execVexp c x s := rfl
theorem exec_vlog (s : State) {c} {x} : exec (.vlog c x) s = execVlog c x s := rfl
theorem exec_vtanh (s : State) {c} {x} : exec (.vtanh c x) s = execVtanh c x s := rfl
theorem exec_vsigm (s : State) {c} {x} : exec (.vsigm c x) s = execVsigm c x s := rfl
theorem exec_verf (s : State) {c} {x} : exec (.verf c x) s = execVerf c x s := rfl
theorem exec_vmin (s : State) {c} {x} : exec (.vmin c x) s = execVmin c x s := rfl
theorem exec_vmax (s : State) {c} {x} : exec (.vmax c x) s = execVmax c x s := rfl
theorem exec_vabs (s : State) {c} {x} : exec (.vabs c x) s = execVabs c x s := rfl
theorem exec_vneg (s : State) {c} {x} : exec (.vneg c x) s = execVneg c x s := rfl
theorem exec_vcmpeq (s : State) {c} {x} : exec (.vcmpeq c x) s = execVcmpeq c x s := rfl
theorem exec_vcmplt (s : State) {c} {x} : exec (.vcmplt c x) s = execVcmplt c x s := rfl
theorem exec_vcmple (s : State) {c} {x} : exec (.vcmple c x) s = execVcmple c x s := rfl
theorem exec_visnf (s : State) {c} {x} : exec (.visnf c x) s = execVisnf c x s := rfl
theorem exec_vsel (s : State) {c} {x} : exec (.vsel c x) s = execVsel c x s := rfl
theorem exec_viadd (s : State) {c} {x} : exec (.viadd c x) s = execViadd c x s := rfl
theorem exec_visub (s : State) {c} {x} : exec (.visub c x) s = execVisub c x s := rfl
theorem exec_vimul (s : State) {c} {x} : exec (.vimul c x) s = execVimul c x s := rfl
theorem exec_vand (s : State) {c} {x} : exec (.vand c x) s = execVand c x s := rfl
theorem exec_vor (s : State) {c} {x} : exec (.vor c x) s = execVor c x s := rfl
theorem exec_vxor (s : State) {c} {x} : exec (.vxor c x) s = execVxor c x s := rfl
theorem exec_vshl (s : State) {c} {x} : exec (.vshl c x) s = execVshl c x s := rfl
theorem exec_vshr (s : State) {c} {x} : exec (.vshr c x) s = execVshr c x s := rfl
theorem exec_vsra (s : State) {c} {x} : exec (.vsra c x) s = execVsra c x s := rfl
theorem exec_vimin (s : State) {c} {x} : exec (.vimin c x) s = execVimin c x s := rfl
theorem exec_vimax (s : State) {c} {x} : exec (.vimax c x) s = execVimax c x s := rfl
theorem exec_viota (s : State) {c} {x} : exec (.viota c x) s = execViota c x s := rfl
theorem exec_vcvt (s : State) {c} {x} : exec (.vcvt c x) s = execVcvt c x s := rfl
theorem exec_vrsum (s : State) {c} {x} : exec (.vrsum c x) s = execVrsum c x s := rfl
theorem exec_vrmax (s : State) {c} {x} : exec (.vrmax c x) s = execVrmax c x s := rfl
theorem exec_vmov (s : State) {c} {x} : exec (.vmov c x) s = execVmov c x s := rfl
theorem exec_vbcast (s : State) {c} {x} : exec (.vbcast c x) s = execVbcast c x s := rfl
theorem exec_vperm (s : State) {c} {x} : exec (.vperm c x) s = execVperm c x s := rfl
theorem exec_vld (s : State) {c} {x} : exec (.vld c x) s = execVld c x s := rfl
theorem exec_vst (s : State) {c} {x} : exec (.vst c x) s = execVst c x s := rfl
theorem exec_vgather (s : State) {c} {x} : exec (.vgather c x) s = execVgather c x s := rfl
theorem exec_vscatter (s : State) {c} {x} : exec (.vscatter c x) s = execVscatter c x s := rfl
theorem exec_vscadd (s : State) {c} {x} : exec (.vscadd c x) s = execVscadd c x s := rfl
theorem exec_pageWalk (s : State) {w} {job} {va} {acc} : exec (.pageWalk w job va acc) s = execPageWalk w job va acc s := rfl
theorem exec_faultRetry (s : State) {w} : exec (.faultRetry w) s = execFaultRetry w s := rfl
theorem exec_frHeadWrite (s : State) {a} {head} : exec (.frHeadWrite a head) s = execFrHeadWrite a head s := rfl
theorem exec_hbFltResolve (s : State) {a} {record} {status} : exec (.hbFltResolve a record status) s = execHbFltResolve a record status s := rfl
theorem exec_tlbi (s : State) {a} {asid} {allAsid} {discard} : exec (.tlbi a asid allAsid discard) s = execTlbi a asid allAsid discard s := rfl
theorem exec_tlbiComplete (s : State)  : exec (.tlbiComplete) s = execTlbiComplete s := rfl
theorem exec_mpTailWrite (s : State) {a} {tail} : exec (.mpTailWrite a tail) s = execMpTailWrite a tail s := rfl
theorem exec_migrationComplete (s : State) {record} {poisoned} : exec (.migrationComplete record poisoned) s = execMigrationComplete record poisoned s := rfl
theorem exec_evict (s : State) {a} {asid} {migrate} : exec (.evict a asid migrate) s = execEvict a asid migrate s := rfl
theorem exec_evictionComplete (s : State)  : exec (.evictionComplete) s = execEvictionComplete s := rfl
theorem exec_limtosCapability (s : State) {p} {lo} {hi} {groups} {width} : exec (.limtosCapability p lo hi groups width) s = execLimtosCapability p lo hi groups width s := rfl
theorem exec_limtosFlit (s : State) {p} {inward} {seq} {groups} : exec (.limtosFlit p inward seq groups) s = execLimtosFlit p inward seq groups s := rfl
theorem exec_spareSwitch (s : State) {p} {g} {inward} : exec (.spareSwitch p g inward) s = execSpareSwitch p g inward s := rfl
theorem exec_narrowingResume (s : State) {p} : exec (.narrowingResume p) s = execNarrowingResume p s := rfl
theorem exec_partnerRequest (s : State) {acc} {pa} {len} {w} : exec (.partnerRequest acc pa len w) s = execPartnerRequest acc pa len w s := rfl
theorem exec_rateAllowanceRelease (s : State)  : exec (.rateAllowanceRelease) s = execRateAllowanceRelease s := rfl
theorem exec_partnerMsix (s : State) {vector} : exec (.partnerMsix vector) s = execPartnerMsix vector s := rfl
theorem exec_apertureAccess (s : State) {a} {off} {size} {wr} {v} : exec (.apertureAccess a off size wr v) s = execApertureAccess a off size wr v s := rfl
theorem exec_bwWindowWrite (s : State) {a} {n} {lim} {v} : exec (.bwWindowWrite a n lim v) s = execBwWindowWrite a n lim v s := rfl
theorem exec_windowRecallDone (s : State) {n} : exec (.windowRecallDone n) s = execWindowRecallDone n s := rfl
theorem exec_retrain (s : State) {a} {ok} {lanes} : exec (.retrain a ok lanes) s = execRetrain a ok lanes s := rfl
theorem exec_partnerLinkDown (s : State)  : exec (.partnerLinkDown) s = execPartnerLinkDown s := rfl
theorem exec_clockLoss (s : State) {d} : exec (.clockLoss d) s = execClockLoss d s := rfl
theorem exec_dieReset (s : State) {d} : exec (.dieReset d) s = execDieReset d s := rfl
theorem exec_hbDieFence (s : State) {a} {d} : exec (.hbDieFence a d) s = execHbDieFence a d s := rfl
theorem exec_dieFenceInvalidate (s : State) {d} : exec (.dieFenceInvalidate d) s = execDieFenceInvalidate d s := rfl
theorem exec_readmit (s : State) {a} {d} : exec (.readmit a d) s = execReadmit a d s := rfl
theorem exec_restoringComplete (s : State) {d} {r} : exec (.restoringComplete d r) s = execRestoringComplete d r s := rfl
theorem exec_poisonedLoad (s : State) {h} {fetch} {addr} : exec (.poisonedLoad h fetch addr) s = execPoisonedLoad h fetch addr s := rfl
theorem exec_vfredusum (s : State) {h} {vd} {vs2} {vs1} {sew} {form} {vl} : exec (.vfredusum h vd vs2 vs1 sew form vl) s = execVfredusum h vd vs2 vs1 sew form vl s := rfl
theorem exec_wrsWake (s : State) {w} : exec (.wrsWake w) s = execWrsWake w s := rfl
theorem exec_hartStart (s : State) {a} {mask} : exec (.hartStart a mask) s = execHartStart a mask s := rfl
theorem exec_claim (s : State) {as} : exec (.claim as) s = execClaim as s := rfl
theorem exec_release (s : State) {a} : exec (.release a) s = execRelease a s := rfl
theorem exec_interruptDelivery (s : State) {src} : exec (.interruptDelivery src) s = execInterruptDelivery src s := rfl
theorem exec_recoveryEntry (s : State) {p} : exec (.recoveryEntry p) s = execRecoveryEntry p s := rfl
theorem exec_recoveryExit (s : State) {p} {lanes} {rate} : exec (.recoveryExit p lanes rate) s = execRecoveryExit p lanes rate s := rfl
theorem exec_recoveryLimitExpiry (s : State) {p} : exec (.recoveryLimitExpiry p) s = execRecoveryLimitExpiry p s := rfl
theorem exec_linkDown (s : State) {p} : exec (.linkDown p) s = execLinkDown p s := rfl
theorem exec_perstAssert (s : State) {p} : exec (.perstAssert p) s = execPerstAssert p s := rfl
theorem exec_hotReset (s : State) {p} : exec (.hotReset p) s = execHotReset p s := rfl
theorem exec_functionLevelReset (s : State) {p} : exec (.functionLevelReset p) s = execFunctionLevelReset p s := rfl
theorem exec_epochArm (s : State) {a} {p} {epoch} : exec (.epochArm a p epoch) s = execEpochArm a p epoch s := rfl
theorem exec_fenceRead (s : State) {a} : exec (.fenceRead a) s = execFenceRead a s := rfl
theorem exec_fenceReadDone (s : State)  : exec (.fenceReadDone) s = execFenceReadDone s := rfl
theorem exec_routeChange (s : State) {a} {mode} : exec (.routeChange a mode) s = execRouteChange a mode s := rfl
theorem exec_routeChangeDone (s : State)  : exec (.routeChangeDone) s = execRouteChangeDone s := rfl
theorem exec_cxlMemRequest (s : State) {p} {dpa} {w} : exec (.cxlMemRequest p dpa w) s = execCxlMemRequest p dpa w s := rfl
theorem exec_configRequest (s : State) {p} : exec (.configRequest p) s = execConfigRequest p s := rfl
theorem exec_landwardWriteAck (s : State) {p} : exec (.landwardWriteAck p) s = execLandwardWriteAck p s := rfl
theorem exec_pixel (s : State)  : exec (.pixel) s = execPixel s := rfl
theorem exec_tokens (s : State)  : exec (.tokens) s = execTokens s := rfl
theorem exec_unitAssign (s : State) {u} : exec (.unitAssign u) s = execUnitAssign u s := rfl
theorem exec_pictureBoundary (s : State) {u} {missingRef} {rap} : exec (.pictureBoundary u missingRef rap) s = execPictureBoundary u missingRef rap s := rfl
theorem exec_sampleDecodeEnd (s : State) {u} {us} {e} : exec (.sampleDecodeEnd u us e) s = execSampleDecodeEnd u us e s := rfl
theorem exec_lateEviction (s : State) {u} {us} : exec (.lateEviction u us) s = execLateEviction u us s := rfl
theorem exec_intakeBatchComplete (s : State) {job} {stream} : exec (.intakeBatchComplete job stream) s = execIntakeBatchComplete job stream s := rfl
theorem exec_connectorUnplug (s : State) {c} : exec (.connectorUnplug c) s = execConnectorUnplug c s := rfl
theorem exec_connectorPlug (s : State) {c} : exec (.connectorPlug c) s = execConnectorPlug c s := rfl
theorem exec_lossOfLight (s : State) {l} : exec (.lossOfLight l) s = execLossOfLight l s := rfl
theorem exec_probePulse (s : State) {l} {heard} : exec (.probePulse l heard) s = execProbePulse l heard s := rfl
theorem exec_laneRelight (s : State) {l} : exec (.laneRelight l) s = execLaneRelight l s := rfl
theorem exec_fabricCapability (s : State) {p} {lo} {hi} {id} {reach} {key} : exec (.fabricCapability p lo hi id reach key) s = execFabricCapability p lo hi id reach key s := rfl
theorem exec_fabricFlit (s : State) {p} {seq} {lane} {ok} {load} : exec (.fabricFlit p seq lane ok load) s = execFabricFlit p seq lane ok load s := rfl
theorem exec_restripe (s : State) {p} : exec (.restripe p) s = execRestripe p s := rfl
theorem exec_portDownNotice (s : State) {source} {lost} : exec (.portDownNotice source lost) s = execPortDownNotice source lost s := rfl
theorem exec_laneRetire (s : State) {a} {l} : exec (.laneRetire a l) s = execLaneRetire a l s := rfl
theorem exec_laneRestore (s : State) {a} {l} : exec (.laneRestore a l) s = execLaneRestore a l s := rfl
theorem exec_laneRetrained (s : State) {l} {ok} : exec (.laneRetrained l ok) s = execLaneRetrained l ok s := rfl
theorem exec_laserBayFault (s : State) {b} : exec (.laserBayFault b) s = execLaserBayFault b s := rfl
theorem exec_membershipLoad (s : State) {a} {rank} {size} : exec (.membershipLoad a rank size) s = execMembershipLoad a rank size s := rfl
theorem exec_openCtx (s : State) {a} : exec (.openCtx a) s = execOpenCtx a s := rfl
theorem exec_closeCtx (s : State) {a} {ctx} : exec (.closeCtx a ctx) s = execCloseCtx a ctx s := rfl
theorem exec_closeComplete (s : State) {ctx} : exec (.closeComplete ctx) s = execCloseComplete ctx s := rfl
theorem exec_remoteWrite (s : State) {ctx} {msg} : exec (.remoteWrite ctx msg) s = execRemoteWrite ctx msg s := rfl
theorem exec_remoteWriteAck (s : State) {ctx} {num} {refused} : exec (.remoteWriteAck ctx num refused) s = execRemoteWriteAck ctx num refused s := rfl
theorem exec_resendTimeout (s : State) {ctx} : exec (.resendTimeout ctx) s = execResendTimeout ctx s := rfl
theorem exec_connectionFailure (s : State) {ctx} : exec (.connectionFailure ctx) s = execConnectionFailure ctx s := rfl
theorem exec_timeMessage (s : State) {p} {offsetPs} {hops} : exec (.timeMessage p offsetPs hops) s = execTimeMessage p offsetPs hops s := rfl
theorem exec_snap (s : State) {a} : exec (.snap a) s = execSnap a s := rfl
theorem exec_keyFlood (s : State) {heard} : exec (.keyFlood heard) s = execKeyFlood heard s := rfl
theorem exec_electWaitExpiry (s : State)  : exec (.electWaitExpiry) s = execElectWaitExpiry s := rfl
theorem exec_announcement (s : State)  : exec (.announcement) s = execAnnouncement s := rfl
theorem exec_announcementReceive (s : State) {p} {an} : exec (.announcementReceive p an) s = execAnnouncementReceive p an s := rfl
theorem exec_lossTimeout (s : State)  : exec (.lossTimeout) s = execLossTimeout s := rfl
theorem exec_holdoverLimitExpiry (s : State)  : exec (.holdoverLimitExpiry) s = execHoldoverLimitExpiry s := rfl
theorem exec_rejoin (s : State) {a} : exec (.rejoin a) s = execRejoin a s := rfl
theorem exec_scheduleLoad (s : State) {a} {nslots} : exec (.scheduleLoad a nslots) s = execScheduleLoad a nslots s := rfl
theorem exec_scheduleActivate (s : State)  : exec (.scheduleActivate) s = execScheduleActivate s := rfl
theorem exec_ethTxDoorbell (s : State) {a} {e} {tail} : exec (.ethTxDoorbell a e tail) s = execEthTxDoorbell a e tail s := rfl
theorem exec_frameTransmitted (s : State) {e} : exec (.frameTransmitted e) s = execFrameTransmitted e s := rfl
theorem exec_frameReceived (s : State) {e} {f} : exec (.frameReceived e f) s = execFrameReceived e f s := rfl
theorem exec_ptpMessage (s : State) {e} {siteTime} {locked} : exec (.ptpMessage e siteTime locked) s = execPtpMessage e siteTime locked s := rfl
theorem exec_allreduce (s : State)  : exec (.allreduce) s = execAllreduce s := rfl
theorem exec_reducescatter (s : State)  : exec (.reducescatter) s = execReducescatter s := rfl
theorem exec_allgather (s : State)  : exec (.allgather) s = execAllgather s := rfl
theorem exec_alltoall (s : State)  : exec (.alltoall) s = execAlltoall s := rfl
theorem exec_broadcast (s : State)  : exec (.broadcast) s = execBroadcast s := rfl
theorem exec_put (s : State)  : exec (.put) s = execPut s := rfl
theorem exec_commit (s : State)  : exec (.commit) s = execCommit s := rfl
theorem exec_collectiveMessage (s : State) {ctx} {w0} {w1} {data} : exec (.collectiveMessage ctx w0 w1 data) s = execCollectiveMessage ctx w0 w1 data s := rfl
theorem exec_flagRoundStart (s : State) {job} : exec (.flagRoundStart job) s = execFlagRoundStart job s := rfl
theorem exec_flagRoundMessage (s : State) {job} {pos} {down} {nf} : exec (.flagRoundMessage job pos down nf) s = execFlagRoundMessage job pos down nf s := rfl
theorem exec_componentFault (s : State) {c} : exec (.componentFault c) s = execComponentFault c s := rfl
theorem exec_heartbeatTimeout (s : State) {c} : exec (.heartbeatTimeout c) s = execHeartbeatTimeout c s := rfl
theorem exec_componentRestart (s : State) {c} : exec (.componentRestart c) s = execComponentRestart c s := rfl
theorem exec_firmwareLoad (s : State) {a} {target} {override} : exec (.firmwareLoad a target override) s = execFirmwareLoad a target override s := rfl
theorem exec_reload (s : State) {a} {target} {override} : exec (.reload a target override) s = execReload a target override s := rfl
theorem exec_firmwareLoaded (s : State)  : exec (.firmwareLoaded) s = execFirmwareLoaded s := rfl
theorem exec_reloadQlimitExpiry (s : State)  : exec (.reloadQlimitExpiry) s = execReloadQlimitExpiry s := rfl
theorem exec_interfaceSelect (s : State) {a} {sel} : exec (.interfaceSelect a sel) s = execInterfaceSelect a sel s := rfl
theorem exec_riskUpdate (s : State)  : exec (.riskUpdate) s = execRiskUpdate s := rfl
theorem exec_tidemarkArm (s : State) {a} {job} : exec (.tidemarkArm a job) s = execTidemarkArm a job s := rfl
theorem exec_take (s : State) {a} {job} : exec (.take a job) s = execTake a job s := rfl
theorem exec_tidemarkCancel (s : State) {a} {job} : exec (.tidemarkCancel a job) s = execTidemarkCancel a job s := rfl
theorem exec_intervalExpiry (s : State) {job} : exec (.intervalExpiry job) s = execIntervalExpiry job s := rfl
theorem exec_tidemarkRequest (s : State) {job} {target} {down} : exec (.tidemarkRequest job target down) s = execTidemarkRequest job target down s := rfl
theorem exec_refuse (s : State) {job} {target} {down} : exec (.refuse job target down) s = execRefuse job target down s := rfl
theorem exec_captureDone (s : State) {job} : exec (.captureDone job) s = execCaptureDone job s := rfl
theorem exec_shardOffer (s : State) {o} : exec (.shardOffer o) s = execShardOffer o s := rfl
theorem exec_offerAnswer (s : State) {job} {accept} {id} {feed} : exec (.offerAnswer job accept id feed) s = execOfferAnswer job accept id feed s := rfl
theorem exec_sealAck (s : State) {job} {holder} : exec (.sealAck job holder) s = execSealAck job holder s := rfl
theorem exec_restore (s : State) {a} {job} : exec (.restore a job) s = execRestore a job s := rfl
theorem exec_tidemarkRelease (s : State) {a} {job} : exec (.tidemarkRelease a job) s = execTidemarkRelease a job s := rfl
theorem exec_restoreDone (s : State) {shards} : exec (.restoreDone shards) s = execRestoreDone shards s := rfl
theorem exec_powerOn (s : State) {b} : exec (.powerOn b) s = execPowerOn b s := rfl
theorem exec_report (s : State) {a} : exec (.report a) s = execReport a s := rfl
theorem exec_reportComplete (s : State)  : exec (.reportComplete) s = execReportComplete s := rfl
theorem exec_idcert (s : State) {a} : exec (.idcert a) s = execIdcert a s := rfl
theorem exec_treePrepared (s : State)  : exec (.treePrepared) s = execTreePrepared s := rfl
theorem exec_updateStage (s : State) {a} {target} : exec (.updateStage a target) s = execUpdateStage a target s := rfl
theorem exec_updateConfirm (s : State) {a} {target} : exec (.updateConfirm a target) s = execUpdateConfirm a target s := rfl
theorem exec_updateCancel (s : State) {a} {target} : exec (.updateCancel a target) s = execUpdateCancel a target s := rfl
theorem exec_svnCommit (s : State) {a} {kind} : exec (.svnCommit a kind) s = execSvnCommit a kind s := rfl
theorem exec_lifecycleRetire (s : State) {a} {confirm} : exec (.lifecycleRetire a confirm) s = execLifecycleRetire a confirm s := rfl
theorem exec_transfer (s : State) {a} {record} : exec (.transfer a record) s = execTransfer a record s := rfl
theorem exec_logCopy (s : State) {a} {start} {count} : exec (.logCopy a start count) s = execLogCopy a start count s := rfl
theorem exec_logFlashWrite (s : State)  : exec (.logFlashWrite) s = execLogFlashWrite s := rfl
theorem exec_sensorSample (s : State) {r} : exec (.sensorSample r) s = execSensorSample r s := rfl
theorem exec_ageingFit (s : State) {f} : exec (.ageingFit f) s = execAgeingFit f s := rfl
theorem exec_ident (s : State)  : exec (.ident) s = execIdent s := rfl
theorem exec_sidebandStatus (s : State)  : exec (.sidebandStatus) s = execSidebandStatus s := rfl
theorem exec_recoveryData (s : State) {data} : exec (.recoveryData data) s = execRecoveryData data s := rfl
theorem exec_recoveryCommit (s : State)  : exec (.recoveryCommit) s = execRecoveryCommit s := rfl
theorem exec_getVersion (s : State) {p} : exec (.getVersion p) s = execGetVersion p s := rfl
theorem exec_getCapabilities (s : State) {p} : exec (.getCapabilities p) s = execGetCapabilities p s := rfl
theorem exec_negotiateAlgorithms (s : State) {p} {ok} : exec (.negotiateAlgorithms p ok) s = execNegotiateAlgorithms p ok s := rfl
theorem exec_getDigests (s : State) {p} : exec (.getDigests p) s = execGetDigests p s := rfl
theorem exec_getCertificate (s : State) {p} {off} {len} : exec (.getCertificate p off len) s = execGetCertificate p off len s := rfl
theorem exec_challenge (s : State) {p} {nonce} : exec (.challenge p nonce) s = execChallenge p nonce s := rfl
theorem exec_getMeasurements (s : State) {p} {index} {nonce} : exec (.getMeasurements p index nonce) s = execGetMeasurements p index nonce s := rfl
theorem exec_keyExchange (s : State) {p} {session} : exec (.keyExchange p session) s = execKeyExchange p session s := rfl
theorem exec_finish (s : State) {p} {session} {ok} {ide} : exec (.finish p session ok ide) s = execFinish p session ok ide s := rfl
theorem exec_endSession (s : State) {p} {session} : exec (.endSession p session) s = execEndSession p session s := rfl
theorem exec_underVoltage (s : State) {mv} {us} : exec (.underVoltage mv us) s = execUnderVoltage mv us s := rfl
theorem exec_overVoltage (s : State) {mv} {us} : exec (.overVoltage mv us) s = execOverVoltage mv us s := rfl
theorem exec_overCurrent (s : State) {ma} {us} : exec (.overCurrent ma us) s = execOverCurrent ma us s := rfl
theorem exec_domainFail (s : State) {n} : exec (.domainFail n) s = execDomainFail n s := rfl
theorem exec_modeRequest (s : State) {a} {req} : exec (.modeRequest a req) s = execModeRequest a req s := rfl
theorem exec_modeChangeDone (s : State)  : exec (.modeChangeDone) s = execModeChangeDone s := rfl
theorem exec_modeQlimitExpiry (s : State)  : exec (.modeQlimitExpiry) s = execModeQlimitExpiry s := rfl
theorem exec_idleSlackExpiry (s : State)  : exec (.idleSlackExpiry) s = execIdleSlackExpiry s := rfl
theorem exec_slackEntry (s : State)  : exec (.slackEntry) s = execSlackEntry s := rfl
theorem exec_slackExitDone (s : State)  : exec (.slackExitDone) s = execSlackExitDone s := rfl
theorem exec_capControl (s : State) {watts} {us} : exec (.capControl watts us) s = execCapControl watts us s := rfl
theorem exec_referenceFail (s : State)  : exec (.referenceFail) s = execReferenceFail s := rfl
theorem exec_write (s : State)  : exec (.write) s = execWrite s := rfl
theorem exec_unitCommit (s : State)  : exec (.unitCommit) s = execUnitCommit s := rfl
theorem exec_trim (s : State)  : exec (.trim) s = execTrim s := rfl
theorem exec_shingleDoorbell (s : State) {a} {tail} : exec (.shingleDoorbell a tail) s = execShingleDoorbell a tail s := rfl
theorem exec_qreset (s : State) {a} : exec (.qreset a) s = execQreset a s := rfl
theorem exec_sanitize (s : State) {a} : exec (.sanitize a) s = execSanitize a s := rfl
theorem exec_wearLevelling (s : State) {block} : exec (.wearLevelling block) s = execWearLevelling block s := rfl
theorem exec_readDisturbRefresh (s : State) {block} : exec (.readDisturbRefresh block) s = execReadDisturbRefresh block s := rfl
theorem exec_blockRetire (s : State) {block} : exec (.blockRetire block) s = execBlockRetire block s := rfl
theorem exec_prefetchStart (s : State) {a} {job} : exec (.prefetchStart a job) s = execPrefetchStart a job s := rfl
theorem exec_prefetchStop (s : State) {a} {job} : exec (.prefetchStop a job) s = execPrefetchStop a job s := rfl
theorem exec_prefetchResume (s : State) {a} {job} : exec (.prefetchResume a job) s = execPrefetchResume a job s := rfl
theorem exec_prefetchCopy (s : State) {job} : exec (.prefetchCopy job) s = execPrefetchCopy job s := rfl
theorem exec_prefetchStage (s : State) {job} : exec (.prefetchStage job) s = execPrefetchStage job s := rfl
theorem exec_mark (s : State) {job} : exec (.mark job) s = execMark job s := rfl
theorem exec_prefetchEntryDone (s : State) {job} : exec (.prefetchEntryDone job) s = execPrefetchEntryDone job s := rfl
theorem exec_shortPress (s : State)  : exec (.shortPress) s = execShortPress s := rfl
theorem exec_longPress (s : State)  : exec (.longPress) s = execLongPress s := rfl
theorem exec_selectTimeout (s : State)  : exec (.selectTimeout) s = execSelectTimeout s := rfl
theorem exec_baySafe (s : State)  : exec (.baySafe) s = execBaySafe s := rfl
theorem exec_swapWindowExpiry (s : State)  : exec (.swapWindowExpiry) s = execSwapWindowExpiry s := rfl
theorem exec_bayLatchOpen (s : State) {b} : exec (.bayLatchOpen b) s = execBayLatchOpen b s := rfl
theorem exec_bayFitted (s : State) {b} {r} : exec (.bayFitted b r) s = execBayFitted b r s := rfl
theorem exec_quiesceBay (s : State) {a} {b} : exec (.quiesceBay a b) s = execQuiesceBay a b s := rfl
theorem exec_frontCancel (s : State) {a} : exec (.frontCancel a) s = execFrontCancel a s := rfl
theorem exec_removeAck (s : State) {a} : exec (.removeAck a) s = execRemoveAck a s := rfl
theorem exec_graceExpiry (s : State)  : exec (.graceExpiry) s = execGraceExpiry s := rfl
theorem exec_powerDownDone (s : State)  : exec (.powerDownDone) s = execPowerDownDone s := rfl
theorem exec_leverOpen (s : State)  : exec (.leverOpen) s = execLeverOpen s := rfl
theorem exec_leverClose (s : State)  : exec (.leverClose) s = execLeverClose s := rfl
theorem exec_landwardLinkL0 (s : State) {p} {lanes} {rate} : exec (.landwardLinkL0 p lanes rate) s = execLandwardLinkL0 p lanes rate s := rfl
theorem exec_tideSlotStart (s : State)  : exec (.tideSlotStart) s = execTideSlotStart s := rfl
theorem exec_updateSlotWritten (s : State)  : exec (.updateSlotWritten) s = execUpdateSlotWritten s := rfl
theorem exec_sanitizeDone (s : State)  : exec (.sanitizeDone) s = execSanitizeDone s := rfl
theorem exec_logCopyDone (s : State)  : exec (.logCopyDone) s = execLogCopyDone s := rfl
theorem exec_msixUnmask (s : State) {p} {vector} : exec (.msixUnmask p vector) s = execMsixUnmask p vector s := rfl
theorem exec_ethernetLinkChange (s : State) {e} {up} : exec (.ethernetLinkChange e up) s = execEthernetLinkChange e up s := rfl
theorem exec_frBaseWrite (s : State) {a} {v} : exec (.frBaseWrite a v) s = execFrBaseWrite a v s := rfl

end Sys2Proof.Machine
end

