-- ==== Sys2Proof/Laws/Maps.lean ====
section
/-!
SUPPORT. Laws of sparse maps: what a set map reads, and that every operation keeps the canonical form.
-/

namespace Sys2Proof.Machine

variable {α : Type}

/-- What a dropped run of entries hides was not read anyway. -/
theorem sget_sdrop_gt (d : α) (k j : Nat) (h : k < j) (m : SMap α) : sget d j (sdrop k m) = sget d j m := by
  induction m with
  | nil => rfl
  | cons e t ih =>
    obtain ⟨k', v⟩ := e
    simp only [sdrop]
    split
    · rw [ih]; simp only [sget]; rw [if_neg (by omega), if_neg (by omega)]
    · rfl

theorem sget_sdrop_self (d : α) (k : Nat) (m : SMap α) : sget d k (sdrop k m) = d := by
  induction m with
  | nil => rfl
  | cons e t ih =>
    obtain ⟨k', v⟩ := e
    simp only [sdrop]
    split
    · exact ih
    · simp only [sget]; rw [if_pos (by omega)]

/-- A key reads the value set. -/
@[simp] theorem sget_sset_same [DecidableEq α] (d : α) (k : Nat) (v : α) (m : SMap α) : sget d k (sset d k v m) = v := by
  induction m with
  | nil => simp only [sset]; split <;> simp_all [sget]
  | cons e t ih =>
    obtain ⟨k', v'⟩ := e
    simp only [sset]
    split
    · split <;> simp_all [sget]
    · split
      · split
        · rename_i hk hv; subst hk; rw [hv]; exact sget_sdrop_self d k t
        · simp [sget]
      · simp only [sget]; rw [if_neg (by omega), if_neg (by omega)]; exact ih

theorem sget_sdrop_lt (d : α) (k j : Nat) (h : j < k) (m : SMap α) : sget d j (sdrop k m) = d := by
  induction m with
  | nil => rfl
  | cons e t ih =>
    obtain ⟨k', v⟩ := e
    simp only [sdrop]
    split
    · exact ih
    · simp only [sget]; rw [if_pos (by omega)]

/-- Every other key reads as before. -/
theorem sget_sset_ne [DecidableEq α] (d : α) (k j : Nat) (h : j ≠ k) (v : α) (m : SMap α) :
    sget d j (sset d k v m) = sget d j m := by
  induction m with
  | nil =>
    simp only [sset]
    split
    · rfl
    · simp only [sget]; rw [if_neg h]; split <;> rfl
  | cons e t ih =>
    obtain ⟨k', v'⟩ := e
    simp only [sset]
    split
    · split
      · rfl
      · simp only [sget]
        by_cases hj : j < k
        · rw [if_pos hj, if_pos (by omega)]
        · rw [if_neg hj, if_neg h]
    · split
      · rename_i hk
        subst hk
        by_cases hj : j < k
        · split <;> simp only [sget] <;> simp only [if_pos hj, sget_sdrop_lt d k j hj]
        · have hk : k < j := by omega
          split <;> simp only [sget] <;> simp only [if_neg hj, if_neg h, sget_sdrop_gt d k j hk]
      · simp only [sget]; rw [ih]

theorem wf_iff [DecidableEq α] (d : α) (m : SMap α) :
    SMap.wf d m = true ↔ m.Pairwise (fun a b => a.1 < b.1) ∧ ∀ e ∈ m, e.2 ≠ d := by
  simp [SMap.wf]

theorem sdrop_sublist (k : Nat) (m : SMap α) : (sdrop k m).Sublist m := by
  induction m with
  | nil => exact List.Sublist.refl _
  | cons e t ih =>
    obtain ⟨k', v⟩ := e
    simp only [sdrop]
    split
    · exact ih.trans (List.sublist_cons_self _ _)
    · exact List.Sublist.refl _

theorem wf_sublist [DecidableEq α] (d : α) (m n : SMap α) (h : n.Sublist m) (w : SMap.wf d m = true) : SMap.wf d n = true := by
  rw [wf_iff] at *
  exact ⟨w.1.sublist h, fun e he => w.2 e (h.subset he)⟩

/-- Erasing keeps the canonical form. -/
theorem wf_serase [DecidableEq α] (d : α) (p : Nat → Bool) (m : SMap α) (w : SMap.wf d m = true) : SMap.wf d (serase p m) = true :=
  wf_sublist d m _ List.filter_sublist w

theorem mem_sset [DecidableEq α] (d : α) (k : Nat) (v : α) (m : SMap α) (e : Nat × α) (h : e ∈ sset d k v m) :
    (e = (k, v) ∧ v ≠ d) ∨ e ∈ m := by
  induction m with
  | nil =>
    simp only [sset] at h
    split at h <;> simp_all
  | cons e' t ih =>
    obtain ⟨k', v'⟩ := e'
    simp only [sset] at h
    split at h
    · split at h
      · exact .inr h
      · rcases List.mem_cons.1 h with h | h
        · exact .inl ⟨h, by assumption⟩
        · exact .inr h
    · split at h
      · split at h
        · exact .inr (List.mem_cons_of_mem _ ((sdrop_sublist k t).subset h))
        · rcases List.mem_cons.1 h with h | h
          · exact .inl ⟨h, by assumption⟩
          · exact .inr (List.mem_cons_of_mem _ ((sdrop_sublist k t).subset h))
      · rcases List.mem_cons.1 h with h | h
        · exact .inr (h ▸ List.mem_cons_self)
        · rcases ih h with h | h
          · exact .inl h
          · exact .inr (List.mem_cons_of_mem _ h)

/-- Setting keeps the canonical form. -/
theorem wf_sset [DecidableEq α] (d : α) (k : Nat) (v : α) (m : SMap α) (w : SMap.wf d m = true) : SMap.wf d (sset d k v m) = true := by
  rw [wf_iff] at *
  refine ⟨?_, ?_⟩
  · obtain ⟨w, -⟩ := w
    induction m with
    | nil => simp only [sset]; split <;> simp
    | cons e t ih =>
      obtain ⟨k', v'⟩ := e
      have hw := List.pairwise_cons.1 w
      simp only [sset]
      split
      · split
        · exact w
        · refine List.pairwise_cons.2 ⟨fun e he => ?_, w⟩
          rcases List.mem_cons.1 he with rfl | he
          · assumption
          · have := hw.1 e he; simp at this; simp; omega
      · split
        · rename_i hk
          subst hk
          split
          · exact hw.2.sublist (sdrop_sublist k t)
          · exact List.pairwise_cons.2 ⟨fun e he => hw.1 e ((sdrop_sublist k t).subset he), hw.2.sublist (sdrop_sublist k t)⟩
        · refine List.pairwise_cons.2 ⟨fun e he => ?_, ih hw.2⟩
          rcases mem_sset d k v t e he with ⟨rfl, -⟩ | he
          · simp; omega
          · exact hw.1 e he
  · intro e he
    rcases mem_sset d k v m e he with ⟨rfl, h⟩ | he
    · exact h
    · exact w.2 e he

end Sys2Proof.Machine
end

