-- ==== Sys2Proof/Laws/Fields.lean ====
section
/-!
SUPPORT. Laws of registers and their fields: what a write of one field leaves of it, of the fields beside it and of every other
register.
-/

namespace Sys2Proof.Machine

theorem fld_put_toNat (f : Fld) (v : Word) (x : Nat) (h : f.lo + f.w ≤ 64) :
    (Fld.put f v x).toNat =
      v.toNat / 2 ^ (f.lo + f.w) * 2 ^ (f.lo + f.w) + x % 2 ^ f.w * 2 ^ f.lo + v.toNat % 2 ^ f.lo := by
  have hv := v.isLt
  have h1 : x % 2 ^ f.w < 2 ^ f.w := Nat.mod_lt _ (by positivity)
  have h2 : v.toNat % 2 ^ f.lo < 2 ^ f.lo := Nat.mod_lt _ (by positivity)
  have hp : 2 ^ (f.lo + f.w) = 2 ^ f.lo * 2 ^ f.w := pow_add _ _ _
  have hq : (2 : Nat) ^ 64 = 2 ^ (f.lo + f.w) * 2 ^ (64 - (f.lo + f.w)) := by rw [← pow_add]; congr 1; omega
  have hd : v.toNat / 2 ^ (f.lo + f.w) < 2 ^ (64 - (f.lo + f.w)) := by
    apply Nat.div_lt_of_lt_mul; rw [← hq]; exact hv
  simp only [Fld.put, BitVec.toNat_ofNat]
  apply Nat.mod_eq_of_lt
  have h3 : x % 2 ^ f.w * 2 ^ f.lo + v.toNat % 2 ^ f.lo < 2 ^ (f.lo + f.w) := by
    rw [hp]; nlinarith [Nat.pos_of_ne_zero (pow_ne_zero f.lo (two_ne_zero (α := Nat)))]
  rw [hq]
  have h4 := Nat.mul_le_mul_right (2 ^ (f.lo + f.w)) (Nat.succ_le_of_lt hd)
  rw [Nat.succ_mul, Nat.mul_comm (2 ^ (64 - (f.lo + f.w)))] at h4
  omega

/-- The field written reads the value, wrapped at its width. -/
theorem fld_of_put (f : Fld) (v : Word) (x : Nat) (h : f.lo + f.w ≤ 64) : Fld.of f (Fld.put f v x) = x % 2 ^ f.w := by
  rw [Fld.of, fld_put_toNat f v x h]
  have h2 : v.toNat % 2 ^ f.lo < 2 ^ f.lo := Nat.mod_lt _ (by positivity)
  have hp : 2 ^ (f.lo + f.w) = 2 ^ f.lo * 2 ^ f.w := pow_add _ _ _
  have e : v.toNat / 2 ^ (f.lo + f.w) * 2 ^ (f.lo + f.w) + x % 2 ^ f.w * 2 ^ f.lo + v.toNat % 2 ^ f.lo =
      v.toNat % 2 ^ f.lo + 2 ^ f.lo * (x % 2 ^ f.w + 2 ^ f.w * (v.toNat / 2 ^ (f.lo + f.w))) := by rw [hp]; ring
  rw [e, Nat.add_mul_div_left _ _ (by positivity), Nat.div_eq_of_lt h2, Nat.zero_add, Nat.add_mul_mod_self_left]
  exact Nat.mod_mod _ _

/-- A field above the one written reads as before. -/
theorem fld_of_put_above (f g : Fld) (v : Word) (x : Nat) (h : f.lo + f.w ≤ g.lo) (h64 : f.lo + f.w ≤ 64) :
    Fld.of g (Fld.put f v x) = Fld.of g v := by
  rw [Fld.of, Fld.of, fld_put_toNat f v x h64]
  have h1 : x % 2 ^ f.w < 2 ^ f.w := Nat.mod_lt _ (by positivity)
  have h2 : v.toNat % 2 ^ f.lo < 2 ^ f.lo := Nat.mod_lt _ (by positivity)
  have hp : 2 ^ (f.lo + f.w) = 2 ^ f.lo * 2 ^ f.w := pow_add _ _ _
  have hg : 2 ^ g.lo = 2 ^ (f.lo + f.w) * 2 ^ (g.lo - (f.lo + f.w)) := by rw [← pow_add]; congr 1; omega
  have hl : x % 2 ^ f.w * 2 ^ f.lo + v.toNat % 2 ^ f.lo < 2 ^ (f.lo + f.w) := by
    rw [hp]; nlinarith [Nat.pos_of_ne_zero (pow_ne_zero f.lo (two_ne_zero (α := Nat)))]
  have e : (v.toNat / 2 ^ (f.lo + f.w) * 2 ^ (f.lo + f.w) + x % 2 ^ f.w * 2 ^ f.lo + v.toNat % 2 ^ f.lo) / 2 ^ g.lo =
      v.toNat / 2 ^ g.lo := by
    rw [hg, ← Nat.div_div_eq_div_mul, ← Nat.div_div_eq_div_mul]
    congr 1
    rw [Nat.add_assoc, Nat.mul_comm, Nat.mul_add_div (by positivity), Nat.div_eq_of_lt hl, Nat.add_zero]
  rw [e]

/-- A field below the one written reads as before. -/
theorem fld_of_put_below (f g : Fld) (v : Word) (x : Nat) (h : g.lo + g.w ≤ f.lo) (h64 : f.lo + f.w ≤ 64) :
    Fld.of g (Fld.put f v x) = Fld.of g v := by
  rw [Fld.of, Fld.of, fld_put_toNat f v x h64]
  have hp : 2 ^ (f.lo + f.w) = 2 ^ f.lo * 2 ^ f.w := pow_add _ _ _
  have e1 : v.toNat / 2 ^ (f.lo + f.w) * 2 ^ (f.lo + f.w) + x % 2 ^ f.w * 2 ^ f.lo + v.toNat % 2 ^ f.lo =
      v.toNat % 2 ^ f.lo + 2 ^ f.lo * (x % 2 ^ f.w + 2 ^ f.w * (v.toNat / 2 ^ (f.lo + f.w))) := by rw [hp]; ring
  have low : ∀ y : Nat, y / 2 ^ g.lo % 2 ^ g.w = y % 2 ^ f.lo / 2 ^ g.lo % 2 ^ g.w := by
    intro y
    have hf : 2 ^ f.lo = 2 ^ g.lo * (2 ^ g.w * 2 ^ (f.lo - (g.lo + g.w))) := by
      rw [← pow_add, ← pow_add]; congr 1; omega
    rw [hf, Nat.mod_mul_right_div_self, Nat.mod_mul_right_mod]
  rw [low, low v.toNat, e1, Nat.add_mul_mod_self_left, Nat.mod_mod]

/-! Registers of the machine -/

@[simp] theorem rget_rset (m : Mach) (a : Nat) (v : Word) : (m.rset a v).rget a = v := by
  simp [Mach.rget, Mach.rset]

theorem rget_rset_ne (m : Mach) (a b : Nat) (v : Word) (h : b ≠ a) : (m.rset a v).rget b = m.rget b := by
  simp only [Mach.rget, Mach.rset]
  have e : sget (BitVec.ofNat 64 (Reg.resetOf b)) b (sset (BitVec.ofNat 64 (Reg.resetOf a)) a v m.regs) =
      sget (BitVec.ofNat 64 (Reg.resetOf b)) b m.regs := by
    generalize BitVec.ofNat 64 (Reg.resetOf a) = d
    generalize BitVec.ofNat 64 (Reg.resetOf b) = d2
    generalize m.regs = r
    induction r with
    | nil =>
      simp only [sset]
      split
      · rfl
      · simp only [sget]; rw [if_neg h]; split <;> rfl
    | cons e t ih =>
      obtain ⟨k', v'⟩ := e
      simp only [sset]
      split
      · split
        · rfl
        · simp only [sget]
          by_cases hj : b < a
          · rw [if_pos hj, if_pos (by omega)]
          · rw [if_neg hj, if_neg h]
      · split
        · rename_i hk
          subst hk
          by_cases hj : b < a
          · split <;> simp only [sget] <;> simp only [if_pos hj, sget_sdrop_lt d2 a b hj]
          · have hk : a < b := by omega
            split <;> simp only [sget] <;> simp only [if_neg hj, if_neg h, sget_sdrop_gt d2 a b hk]
        · simp only [sget]; rw [ih]
  exact e

/-- The field written reads the value, wrapped at its width. -/
theorem fget_fset (m : Mach) (f : Fld) (x : Nat) (h : f.lo + f.w ≤ 64) : (m.fset f x).fget f = x % 2 ^ f.w := by
  simp only [Mach.fget, Mach.fset, rget_rset]; exact fld_of_put f _ x h

/-- A field of another register reads as before. -/
theorem fget_fset_ne (m : Mach) (f g : Fld) (x : Nat) (h : g.reg ≠ f.reg) : (m.fset f x).fget g = m.fget g := by
  simp only [Mach.fget, Mach.fset]; rw [rget_rset_ne _ _ _ _ h]

/-- A disjoint field of the same register reads as before. -/
theorem fget_fset_beside (m : Mach) (f g : Fld) (x : Nat) (hr : g.reg = f.reg) (h64 : f.lo + f.w ≤ 64)
    (h : f.lo + f.w ≤ g.lo ∨ g.lo + g.w ≤ f.lo) : (m.fset f x).fget g = m.fget g := by
  simp only [Mach.fget, Mach.fset]; rw [hr, rget_rset]
  rcases h with h | h
  · exact fld_of_put_above f g _ x h h64
  · exact fld_of_put_below f g _ x h h64

/-- A field that meets no bit of the one written reads as before, in whichever register it lies. -/
theorem fget_fset_other (m : Mach) (f g : Fld) (x : Nat) (h64 : f.lo + f.w ≤ 64)
    (h : g.reg ≠ f.reg ∨ f.lo + f.w ≤ g.lo ∨ g.lo + g.w ≤ f.lo) : (m.fset f x).fget g = m.fget g := by
  by_cases hr : g.reg = f.reg
  · exact fget_fset_beside m f g x hr h64 (h.resolve_left (fun h => h hr))
  · exact fget_fset_ne m f g x hr

theorem rget_fset_ne (m : Mach) (f : Fld) (x b : Nat) (h : b ≠ f.reg) : (m.fset f x).rget b = m.rget b :=
  rget_rset_ne _ _ _ _ h

end Sys2Proof.Machine
end

