-- ==== Sys2Proof/Laws/State.lean ====
section
/-!
SUPPORT. What each update leaves of each field of the machine, and what a command leaves of the queue.
-/

namespace Sys2Proof.Machine

@[simp] theorem rset_down (m : Mach) (a : Nat) (v : Word) : (m.rset a v).down = m.down := rfl
@[simp] theorem rset_ns (m : Mach) (a : Nat) (v : Word) : (m.rset a v).ns = m.ns := rfl
@[simp] theorem rset_free (m : Mach) (a : Nat) (v : Word) : (m.rset a v).free = m.free := rfl
@[simp] theorem rset_mem (m : Mach) (a : Nat) (v : Word) : (m.rset a v).mem = m.mem := rfl
@[simp] theorem rset_dir (m : Mach) (a : Nat) (v : Word) : (m.rset a v).dir = m.dir := rfl
@[simp] theorem rset_js (m : Mach) (a : Nat) (v : Word) : (m.rset a v).js = m.js := rfl
@[simp] theorem rset_xl (m : Mach) (a : Nat) (v : Word) : (m.rset a v).xl = m.xl := rfl
@[simp] theorem rset_lw (m : Mach) (a : Nat) (v : Word) : (m.rset a v).lw = m.lw := rfl
@[simp] theorem rset_hl (m : Mach) (a : Nat) (v : Word) : (m.rset a v).hl = m.hl := rfl
@[simp] theorem rset_sg (m : Mach) (a : Nat) (v : Word) : (m.rset a v).sg = m.sg := rfl
@[simp] theorem rset_lt (m : Mach) (a : Nat) (v : Word) : (m.rset a v).lt = m.lt := rfl
@[simp] theorem rset_bw (m : Mach) (a : Nat) (v : Word) : (m.rset a v).bw = m.bw := rfl
@[simp] theorem rset_ik (m : Mach) (a : Nat) (v : Word) : (m.rset a v).ik = m.ik := rfl
@[simp] theorem rset_sw (m : Mach) (a : Nat) (v : Word) : (m.rset a v).sw = m.sw := rfl
@[simp] theorem rset_td (m : Mach) (a : Nat) (v : Word) : (m.rset a v).td = m.td := rfl
@[simp] theorem rset_cl (m : Mach) (a : Nat) (v : Word) : (m.rset a v).cl = m.cl := rfl
@[simp] theorem rset_pw (m : Mach) (a : Nat) (v : Word) : (m.rset a v).pw = m.pw := rfl
@[simp] theorem rset_fw (m : Mach) (a : Nat) (v : Word) : (m.rset a v).fw = m.fw := rfl
@[simp] theorem rset_tm (m : Mach) (a : Nat) (v : Word) : (m.rset a v).tm = m.tm := rfl
@[simp] theorem rset_nv (m : Mach) (a : Nat) (v : Word) : (m.rset a v).nv = m.nv := rfl
@[simp] theorem rset_lh (m : Mach) (a : Nat) (v : Word) : (m.rset a v).lh = m.lh := rfl
@[simp] theorem rset_log (m : Mach) (a : Nat) (v : Word) : (m.rset a v).log = m.log := rfl
@[simp] theorem rset_irq (m : Mach) (a : Nat) (v : Word) : (m.rset a v).irq = m.irq := rfl
@[simp] theorem rset_out (m : Mach) (a : Nat) (v : Word) : (m.rset a v).out = m.out := rfl

@[simp] theorem fset_down (m : Mach) (f : Fld) (x : Nat) : (m.fset f x).down = m.down := rfl
@[simp] theorem fset_ns (m : Mach) (f : Fld) (x : Nat) : (m.fset f x).ns = m.ns := rfl
@[simp] theorem fset_free (m : Mach) (f : Fld) (x : Nat) : (m.fset f x).free = m.free := rfl
@[simp] theorem fset_mem (m : Mach) (f : Fld) (x : Nat) : (m.fset f x).mem = m.mem := rfl
@[simp] theorem fset_dir (m : Mach) (f : Fld) (x : Nat) : (m.fset f x).dir = m.dir := rfl
@[simp] theorem fset_js (m : Mach) (f : Fld) (x : Nat) : (m.fset f x).js = m.js := rfl
@[simp] theorem fset_xl (m : Mach) (f : Fld) (x : Nat) : (m.fset f x).xl = m.xl := rfl
@[simp] theorem fset_lw (m : Mach) (f : Fld) (x : Nat) : (m.fset f x).lw = m.lw := rfl
@[simp] theorem fset_hl (m : Mach) (f : Fld) (x : Nat) : (m.fset f x).hl = m.hl := rfl
@[simp] theorem fset_sg (m : Mach) (f : Fld) (x : Nat) : (m.fset f x).sg = m.sg := rfl
@[simp] theorem fset_lt (m : Mach) (f : Fld) (x : Nat) : (m.fset f x).lt = m.lt := rfl
@[simp] theorem fset_bw (m : Mach) (f : Fld) (x : Nat) : (m.fset f x).bw = m.bw := rfl
@[simp] theorem fset_ik (m : Mach) (f : Fld) (x : Nat) : (m.fset f x).ik = m.ik := rfl
@[simp] theorem fset_sw (m : Mach) (f : Fld) (x : Nat) : (m.fset f x).sw = m.sw := rfl
@[simp] theorem fset_td (m : Mach) (f : Fld) (x : Nat) : (m.fset f x).td = m.td := rfl
@[simp] theorem fset_cl (m : Mach) (f : Fld) (x : Nat) : (m.fset f x).cl = m.cl := rfl
@[simp] theorem fset_pw (m : Mach) (f : Fld) (x : Nat) : (m.fset f x).pw = m.pw := rfl
@[simp] theorem fset_fw (m : Mach) (f : Fld) (x : Nat) : (m.fset f x).fw = m.fw := rfl
@[simp] theorem fset_tm (m : Mach) (f : Fld) (x : Nat) : (m.fset f x).tm = m.tm := rfl
@[simp] theorem fset_nv (m : Mach) (f : Fld) (x : Nat) : (m.fset f x).nv = m.nv := rfl
@[simp] theorem fset_lh (m : Mach) (f : Fld) (x : Nat) : (m.fset f x).lh = m.lh := rfl
@[simp] theorem fset_log (m : Mach) (f : Fld) (x : Nat) : (m.fset f x).log = m.log := rfl
@[simp] theorem fset_irq (m : Mach) (f : Fld) (x : Nat) : (m.fset f x).irq = m.irq := rfl
@[simp] theorem fset_out (m : Mach) (f : Fld) (x : Nat) : (m.fset f x).out = m.out := rfl

@[simp] theorem emit_down (m : Mach) (o : Out) : (m.emit o).down = m.down := rfl
@[simp] theorem emit_ns (m : Mach) (o : Out) : (m.emit o).ns = m.ns := rfl
@[simp] theorem emit_free (m : Mach) (o : Out) : (m.emit o).free = m.free := rfl
@[simp] theorem emit_regs (m : Mach) (o : Out) : (m.emit o).regs = m.regs := rfl
@[simp] theorem emit_mem (m : Mach) (o : Out) : (m.emit o).mem = m.mem := rfl
@[simp] theorem emit_dir (m : Mach) (o : Out) : (m.emit o).dir = m.dir := rfl
@[simp] theorem emit_js (m : Mach) (o : Out) : (m.emit o).js = m.js := rfl
@[simp] theorem emit_xl (m : Mach) (o : Out) : (m.emit o).xl = m.xl := rfl
@[simp] theorem emit_lw (m : Mach) (o : Out) : (m.emit o).lw = m.lw := rfl
@[simp] theorem emit_hl (m : Mach) (o : Out) : (m.emit o).hl = m.hl := rfl
@[simp] theorem emit_sg (m : Mach) (o : Out) : (m.emit o).sg = m.sg := rfl
@[simp] theorem emit_lt (m : Mach) (o : Out) : (m.emit o).lt = m.lt := rfl
@[simp] theorem emit_bw (m : Mach) (o : Out) : (m.emit o).bw = m.bw := rfl
@[simp] theorem emit_ik (m : Mach) (o : Out) : (m.emit o).ik = m.ik := rfl
@[simp] theorem emit_sw (m : Mach) (o : Out) : (m.emit o).sw = m.sw := rfl
@[simp] theorem emit_td (m : Mach) (o : Out) : (m.emit o).td = m.td := rfl
@[simp] theorem emit_cl (m : Mach) (o : Out) : (m.emit o).cl = m.cl := rfl
@[simp] theorem emit_pw (m : Mach) (o : Out) : (m.emit o).pw = m.pw := rfl
@[simp] theorem emit_fw (m : Mach) (o : Out) : (m.emit o).fw = m.fw := rfl
@[simp] theorem emit_tm (m : Mach) (o : Out) : (m.emit o).tm = m.tm := rfl
@[simp] theorem emit_nv (m : Mach) (o : Out) : (m.emit o).nv = m.nv := rfl
@[simp] theorem emit_lh (m : Mach) (o : Out) : (m.emit o).lh = m.lh := rfl
@[simp] theorem emit_log (m : Mach) (o : Out) : (m.emit o).log = m.log := rfl
@[simp] theorem emit_irq (m : Mach) (o : Out) : (m.emit o).irq = m.irq := rfl

@[simp] theorem raise_down (m : Mach) (n : Nat) : (m.raise n).down = m.down := by
  unfold Mach.raise; split <;> rfl
@[simp] theorem raise_ns (m : Mach) (n : Nat) : (m.raise n).ns = m.ns := by
  unfold Mach.raise; split <;> rfl
@[simp] theorem raise_free (m : Mach) (n : Nat) : (m.raise n).free = m.free := by
  unfold Mach.raise; split <;> rfl
@[simp] theorem raise_regs (m : Mach) (n : Nat) : (m.raise n).regs = m.regs := by
  unfold Mach.raise; split <;> rfl
@[simp] theorem raise_mem (m : Mach) (n : Nat) : (m.raise n).mem = m.mem := by
  unfold Mach.raise; split <;> rfl
@[simp] theorem raise_dir (m : Mach) (n : Nat) : (m.raise n).dir = m.dir := by
  unfold Mach.raise; split <;> rfl
@[simp] theorem raise_js (m : Mach) (n : Nat) : (m.raise n).js = m.js := by
  unfold Mach.raise; split <;> rfl
@[simp] theorem raise_xl (m : Mach) (n : Nat) : (m.raise n).xl = m.xl := by
  unfold Mach.raise; split <;> rfl
@[simp] theorem raise_lw (m : Mach) (n : Nat) : (m.raise n).lw = m.lw := by
  unfold Mach.raise; split <;> rfl
@[simp] theorem raise_hl (m : Mach) (n : Nat) : (m.raise n).hl = m.hl := by
  unfold Mach.raise; split <;> rfl
@[simp] theorem raise_sg (m : Mach) (n : Nat) : (m.raise n).sg = m.sg := by
  unfold Mach.raise; split <;> rfl
@[simp] theorem raise_lt (m : Mach) (n : Nat) : (m.raise n).lt = m.lt := by
  unfold Mach.raise; split <;> rfl
@[simp] theorem raise_bw (m : Mach) (n : Nat) : (m.raise n).bw = m.bw := by
  unfold Mach.raise; split <;> rfl
@[simp] theorem raise_ik (m : Mach) (n : Nat) : (m.raise n).ik = m.ik := by
  unfold Mach.raise; split <;> rfl
@[simp] theorem raise_sw (m : Mach) (n : Nat) : (m.raise n).sw = m.sw := by
  unfold Mach.raise; split <;> rfl
@[simp] theorem raise_td (m : Mach) (n : Nat) : (m.raise n).td = m.td := by
  unfold Mach.raise; split <;> rfl
@[simp] theorem raise_cl (m : Mach) (n : Nat) : (m.raise n).cl = m.cl := by
  unfold Mach.raise; split <;> rfl
@[simp] theorem raise_pw (m : Mach) (n : Nat) : (m.raise n).pw = m.pw := by
  unfold Mach.raise; split <;> rfl
@[simp] theorem raise_fw (m : Mach) (n : Nat) : (m.raise n).fw = m.fw := by
  unfold Mach.raise; split <;> rfl
@[simp] theorem raise_tm (m : Mach) (n : Nat) : (m.raise n).tm = m.tm := by
  unfold Mach.raise; split <;> rfl
@[simp] theorem raise_nv (m : Mach) (n : Nat) : (m.raise n).nv = m.nv := by
  unfold Mach.raise; split <;> rfl
@[simp] theorem raise_lh (m : Mach) (n : Nat) : (m.raise n).lh = m.lh := by
  unfold Mach.raise; split <;> rfl
@[simp] theorem raise_log (m : Mach) (n : Nat) : (m.raise n).log = m.log := by
  unfold Mach.raise; split <;> rfl
@[simp] theorem raise_out (m : Mach) (n : Nat) : (m.raise n).out = m.out := by
  unfold Mach.raise; split <;> rfl

@[simp] theorem poke_down (m : Mach) (pa : Nat) (b : Byte) : (m.poke pa b).down = m.down := rfl
@[simp] theorem poke_ns (m : Mach) (pa : Nat) (b : Byte) : (m.poke pa b).ns = m.ns := rfl
@[simp] theorem poke_free (m : Mach) (pa : Nat) (b : Byte) : (m.poke pa b).free = m.free := rfl
@[simp] theorem poke_regs (m : Mach) (pa : Nat) (b : Byte) : (m.poke pa b).regs = m.regs := rfl
@[simp] theorem poke_dir (m : Mach) (pa : Nat) (b : Byte) : (m.poke pa b).dir = m.dir := rfl
@[simp] theorem poke_js (m : Mach) (pa : Nat) (b : Byte) : (m.poke pa b).js = m.js := rfl
@[simp] theorem poke_xl (m : Mach) (pa : Nat) (b : Byte) : (m.poke pa b).xl = m.xl := rfl
@[simp] theorem poke_lw (m : Mach) (pa : Nat) (b : Byte) : (m.poke pa b).lw = m.lw := rfl
@[simp] theorem poke_hl (m : Mach) (pa : Nat) (b : Byte) : (m.poke pa b).hl = m.hl := rfl
@[simp] theorem poke_sg (m : Mach) (pa : Nat) (b : Byte) : (m.poke pa b).sg = m.sg := rfl
@[simp] theorem poke_lt (m : Mach) (pa : Nat) (b : Byte) : (m.poke pa b).lt = m.lt := rfl
@[simp] theorem poke_bw (m : Mach) (pa : Nat) (b : Byte) : (m.poke pa b).bw = m.bw := rfl
@[simp] theorem poke_ik (m : Mach) (pa : Nat) (b : Byte) : (m.poke pa b).ik = m.ik := rfl
@[simp] theorem poke_sw (m : Mach) (pa : Nat) (b : Byte) : (m.poke pa b).sw = m.sw := rfl
@[simp] theorem poke_td (m : Mach) (pa : Nat) (b : Byte) : (m.poke pa b).td = m.td := rfl
@[simp] theorem poke_cl (m : Mach) (pa : Nat) (b : Byte) : (m.poke pa b).cl = m.cl := rfl
@[simp] theorem poke_pw (m : Mach) (pa : Nat) (b : Byte) : (m.poke pa b).pw = m.pw := rfl
@[simp] theorem poke_fw (m : Mach) (pa : Nat) (b : Byte) : (m.poke pa b).fw = m.fw := rfl
@[simp] theorem poke_tm (m : Mach) (pa : Nat) (b : Byte) : (m.poke pa b).tm = m.tm := rfl
@[simp] theorem poke_nv (m : Mach) (pa : Nat) (b : Byte) : (m.poke pa b).nv = m.nv := rfl
@[simp] theorem poke_lh (m : Mach) (pa : Nat) (b : Byte) : (m.poke pa b).lh = m.lh := rfl
@[simp] theorem poke_log (m : Mach) (pa : Nat) (b : Byte) : (m.poke pa b).log = m.log := rfl
@[simp] theorem poke_irq (m : Mach) (pa : Nat) (b : Byte) : (m.poke pa b).irq = m.irq := rfl
@[simp] theorem poke_out (m : Mach) (pa : Nat) (b : Byte) : (m.poke pa b).out = m.out := rfl

@[simp] theorem setPoison_down (m : Mach) (cw : Nat) (p : Bool) : (m.setPoison cw p).down = m.down := rfl
@[simp] theorem setPoison_ns (m : Mach) (cw : Nat) (p : Bool) : (m.setPoison cw p).ns = m.ns := rfl
@[simp] theorem setPoison_free (m : Mach) (cw : Nat) (p : Bool) : (m.setPoison cw p).free = m.free := rfl
@[simp] theorem setPoison_regs (m : Mach) (cw : Nat) (p : Bool) : (m.setPoison cw p).regs = m.regs := rfl
@[simp] theorem setPoison_dir (m : Mach) (cw : Nat) (p : Bool) : (m.setPoison cw p).dir = m.dir := rfl
@[simp] theorem setPoison_js (m : Mach) (cw : Nat) (p : Bool) : (m.setPoison cw p).js = m.js := rfl
@[simp] theorem setPoison_xl (m : Mach) (cw : Nat) (p : Bool) : (m.setPoison cw p).xl = m.xl := rfl
@[simp] theorem setPoison_lw (m : Mach) (cw : Nat) (p : Bool) : (m.setPoison cw p).lw = m.lw := rfl
@[simp] theorem setPoison_hl (m : Mach) (cw : Nat) (p : Bool) : (m.setPoison cw p).hl = m.hl := rfl
@[simp] theorem setPoison_sg (m : Mach) (cw : Nat) (p : Bool) : (m.setPoison cw p).sg = m.sg := rfl
@[simp] theorem setPoison_lt (m : Mach) (cw : Nat) (p : Bool) : (m.setPoison cw p).lt = m.lt := rfl
@[simp] theorem setPoison_bw (m : Mach) (cw : Nat) (p : Bool) : (m.setPoison cw p).bw = m.bw := rfl
@[simp] theorem setPoison_ik (m : Mach) (cw : Nat) (p : Bool) : (m.setPoison cw p).ik = m.ik := rfl
@[simp] theorem setPoison_sw (m : Mach) (cw : Nat) (p : Bool) : (m.setPoison cw p).sw = m.sw := rfl
@[simp] theorem setPoison_td (m : Mach) (cw : Nat) (p : Bool) : (m.setPoison cw p).td = m.td := rfl
@[simp] theorem setPoison_cl (m : Mach) (cw : Nat) (p : Bool) : (m.setPoison cw p).cl = m.cl := rfl
@[simp] theorem setPoison_pw (m : Mach) (cw : Nat) (p : Bool) : (m.setPoison cw p).pw = m.pw := rfl
@[simp] theorem setPoison_fw (m : Mach) (cw : Nat) (p : Bool) : (m.setPoison cw p).fw = m.fw := rfl
@[simp] theorem setPoison_tm (m : Mach) (cw : Nat) (p : Bool) : (m.setPoison cw p).tm = m.tm := rfl
@[simp] theorem setPoison_nv (m : Mach) (cw : Nat) (p : Bool) : (m.setPoison cw p).nv = m.nv := rfl
@[simp] theorem setPoison_lh (m : Mach) (cw : Nat) (p : Bool) : (m.setPoison cw p).lh = m.lh := rfl
@[simp] theorem setPoison_log (m : Mach) (cw : Nat) (p : Bool) : (m.setPoison cw p).log = m.log := rfl
@[simp] theorem setPoison_irq (m : Mach) (cw : Nat) (p : Bool) : (m.setPoison cw p).irq = m.irq := rfl
@[simp] theorem setPoison_out (m : Mach) (cw : Nat) (p : Bool) : (m.setPoison cw p).out = m.out := rfl

@[simp] theorem setSw_down (m : Mach) (x : SwSt) : (m.setSw x).down = m.down := rfl
@[simp] theorem setSw_ns (m : Mach) (x : SwSt) : (m.setSw x).ns = m.ns := rfl
@[simp] theorem setSw_free (m : Mach) (x : SwSt) : (m.setSw x).free = m.free := rfl
@[simp] theorem setSw_regs (m : Mach) (x : SwSt) : (m.setSw x).regs = m.regs := rfl
@[simp] theorem setSw_mem (m : Mach) (x : SwSt) : (m.setSw x).mem = m.mem := rfl
@[simp] theorem setSw_dir (m : Mach) (x : SwSt) : (m.setSw x).dir = m.dir := rfl
@[simp] theorem setSw_js (m : Mach) (x : SwSt) : (m.setSw x).js = m.js := rfl
@[simp] theorem setSw_xl (m : Mach) (x : SwSt) : (m.setSw x).xl = m.xl := rfl
@[simp] theorem setSw_lw (m : Mach) (x : SwSt) : (m.setSw x).lw = m.lw := rfl
@[simp] theorem setSw_hl (m : Mach) (x : SwSt) : (m.setSw x).hl = m.hl := rfl
@[simp] theorem setSw_sg (m : Mach) (x : SwSt) : (m.setSw x).sg = m.sg := rfl
@[simp] theorem setSw_lt (m : Mach) (x : SwSt) : (m.setSw x).lt = m.lt := rfl
@[simp] theorem setSw_bw (m : Mach) (x : SwSt) : (m.setSw x).bw = m.bw := rfl
@[simp] theorem setSw_ik (m : Mach) (x : SwSt) : (m.setSw x).ik = m.ik := rfl
@[simp] theorem setSw_td (m : Mach) (x : SwSt) : (m.setSw x).td = m.td := rfl
@[simp] theorem setSw_cl (m : Mach) (x : SwSt) : (m.setSw x).cl = m.cl := rfl
@[simp] theorem setSw_pw (m : Mach) (x : SwSt) : (m.setSw x).pw = m.pw := rfl
@[simp] theorem setSw_fw (m : Mach) (x : SwSt) : (m.setSw x).fw = m.fw := rfl
@[simp] theorem setSw_tm (m : Mach) (x : SwSt) : (m.setSw x).tm = m.tm := rfl
@[simp] theorem setSw_nv (m : Mach) (x : SwSt) : (m.setSw x).nv = m.nv := rfl
@[simp] theorem setSw_lh (m : Mach) (x : SwSt) : (m.setSw x).lh = m.lh := rfl
@[simp] theorem setSw_log (m : Mach) (x : SwSt) : (m.setSw x).log = m.log := rfl
@[simp] theorem setSw_irq (m : Mach) (x : SwSt) : (m.setSw x).irq = m.irq := rfl
@[simp] theorem setSw_out (m : Mach) (x : SwSt) : (m.setSw x).out = m.out := rfl

@[simp] theorem setLw_down (m : Mach) (x : LwSt) : (m.setLw x).down = m.down := rfl
@[simp] theorem setLw_ns (m : Mach) (x : LwSt) : (m.setLw x).ns = m.ns := rfl
@[simp] theorem setLw_free (m : Mach) (x : LwSt) : (m.setLw x).free = m.free := rfl
@[simp] theorem setLw_regs (m : Mach) (x : LwSt) : (m.setLw x).regs = m.regs := rfl
@[simp] theorem setLw_mem (m : Mach) (x : LwSt) : (m.setLw x).mem = m.mem := rfl
@[simp] theorem setLw_dir (m : Mach) (x : LwSt) : (m.setLw x).dir = m.dir := rfl
@[simp] theorem setLw_js (m : Mach) (x : LwSt) : (m.setLw x).js = m.js := rfl
@[simp] theorem setLw_xl (m : Mach) (x : LwSt) : (m.setLw x).xl = m.xl := rfl
@[simp] theorem setLw_hl (m : Mach) (x : LwSt) : (m.setLw x).hl = m.hl := rfl
@[simp] theorem setLw_sg (m : Mach) (x : LwSt) : (m.setLw x).sg = m.sg := rfl
@[simp] theorem setLw_lt (m : Mach) (x : LwSt) : (m.setLw x).lt = m.lt := rfl
@[simp] theorem setLw_bw (m : Mach) (x : LwSt) : (m.setLw x).bw = m.bw := rfl
@[simp] theorem setLw_ik (m : Mach) (x : LwSt) : (m.setLw x).ik = m.ik := rfl
@[simp] theorem setLw_sw (m : Mach) (x : LwSt) : (m.setLw x).sw = m.sw := rfl
@[simp] theorem setLw_td (m : Mach) (x : LwSt) : (m.setLw x).td = m.td := rfl
@[simp] theorem setLw_cl (m : Mach) (x : LwSt) : (m.setLw x).cl = m.cl := rfl
@[simp] theorem setLw_pw (m : Mach) (x : LwSt) : (m.setLw x).pw = m.pw := rfl
@[simp] theorem setLw_fw (m : Mach) (x : LwSt) : (m.setLw x).fw = m.fw := rfl
@[simp] theorem setLw_tm (m : Mach) (x : LwSt) : (m.setLw x).tm = m.tm := rfl
@[simp] theorem setLw_nv (m : Mach) (x : LwSt) : (m.setLw x).nv = m.nv := rfl
@[simp] theorem setLw_lh (m : Mach) (x : LwSt) : (m.setLw x).lh = m.lh := rfl
@[simp] theorem setLw_log (m : Mach) (x : LwSt) : (m.setLw x).log = m.log := rfl
@[simp] theorem setLw_irq (m : Mach) (x : LwSt) : (m.setLw x).irq = m.irq := rfl
@[simp] theorem setLw_out (m : Mach) (x : LwSt) : (m.setLw x).out = m.out := rfl

@[simp] theorem setBw_down (m : Mach) (x : BwSt) : (m.setBw x).down = m.down := rfl
@[simp] theorem setBw_ns (m : Mach) (x : BwSt) : (m.setBw x).ns = m.ns := rfl
@[simp] theorem setBw_free (m : Mach) (x : BwSt) : (m.setBw x).free = m.free := rfl
@[simp] theorem setBw_regs (m : Mach) (x : BwSt) : (m.setBw x).regs = m.regs := rfl
@[simp] theorem setBw_mem (m : Mach) (x : BwSt) : (m.setBw x).mem = m.mem := rfl
@[simp] theorem setBw_dir (m : Mach) (x : BwSt) : (m.setBw x).dir = m.dir := rfl
@[simp] theorem setBw_js (m : Mach) (x : BwSt) : (m.setBw x).js = m.js := rfl
@[simp] theorem setBw_xl (m : Mach) (x : BwSt) : (m.setBw x).xl = m.xl := rfl
@[simp] theorem setBw_lw (m : Mach) (x : BwSt) : (m.setBw x).lw = m.lw := rfl
@[simp] theorem setBw_hl (m : Mach) (x : BwSt) : (m.setBw x).hl = m.hl := rfl
@[simp] theorem setBw_sg (m : Mach) (x : BwSt) : (m.setBw x).sg = m.sg := rfl
@[simp] theorem setBw_lt (m : Mach) (x : BwSt) : (m.setBw x).lt = m.lt := rfl
@[simp] theorem setBw_ik (m : Mach) (x : BwSt) : (m.setBw x).ik = m.ik := rfl
@[simp] theorem setBw_sw (m : Mach) (x : BwSt) : (m.setBw x).sw = m.sw := rfl
@[simp] theorem setBw_td (m : Mach) (x : BwSt) : (m.setBw x).td = m.td := rfl
@[simp] theorem setBw_cl (m : Mach) (x : BwSt) : (m.setBw x).cl = m.cl := rfl
@[simp] theorem setBw_pw (m : Mach) (x : BwSt) : (m.setBw x).pw = m.pw := rfl
@[simp] theorem setBw_fw (m : Mach) (x : BwSt) : (m.setBw x).fw = m.fw := rfl
@[simp] theorem setBw_tm (m : Mach) (x : BwSt) : (m.setBw x).tm = m.tm := rfl
@[simp] theorem setBw_nv (m : Mach) (x : BwSt) : (m.setBw x).nv = m.nv := rfl
@[simp] theorem setBw_lh (m : Mach) (x : BwSt) : (m.setBw x).lh = m.lh := rfl
@[simp] theorem setBw_log (m : Mach) (x : BwSt) : (m.setBw x).log = m.log := rfl
@[simp] theorem setBw_irq (m : Mach) (x : BwSt) : (m.setBw x).irq = m.irq := rfl
@[simp] theorem setBw_out (m : Mach) (x : BwSt) : (m.setBw x).out = m.out := rfl

@[simp] theorem setFw_down (m : Mach) (x : FwSt) : (m.setFw x).down = m.down := rfl
@[simp] theorem setFw_ns (m : Mach) (x : FwSt) : (m.setFw x).ns = m.ns := rfl
@[simp] theorem setFw_free (m : Mach) (x : FwSt) : (m.setFw x).free = m.free := rfl
@[simp] theorem setFw_regs (m : Mach) (x : FwSt) : (m.setFw x).regs = m.regs := rfl
@[simp] theorem setFw_mem (m : Mach) (x : FwSt) : (m.setFw x).mem = m.mem := rfl
@[simp] theorem setFw_dir (m : Mach) (x : FwSt) : (m.setFw x).dir = m.dir := rfl
@[simp] theorem setFw_js (m : Mach) (x : FwSt) : (m.setFw x).js = m.js := rfl
@[simp] theorem setFw_xl (m : Mach) (x : FwSt) : (m.setFw x).xl = m.xl := rfl
@[simp] theorem setFw_lw (m : Mach) (x : FwSt) : (m.setFw x).lw = m.lw := rfl
@[simp] theorem setFw_hl (m : Mach) (x : FwSt) : (m.setFw x).hl = m.hl := rfl
@[simp] theorem setFw_sg (m : Mach) (x : FwSt) : (m.setFw x).sg = m.sg := rfl
@[simp] theorem setFw_lt (m : Mach) (x : FwSt) : (m.setFw x).lt = m.lt := rfl
@[simp] theorem setFw_bw (m : Mach) (x : FwSt) : (m.setFw x).bw = m.bw := rfl
@[simp] theorem setFw_ik (m : Mach) (x : FwSt) : (m.setFw x).ik = m.ik := rfl
@[simp] theorem setFw_sw (m : Mach) (x : FwSt) : (m.setFw x).sw = m.sw := rfl
@[simp] theorem setFw_td (m : Mach) (x : FwSt) : (m.setFw x).td = m.td := rfl
@[simp] theorem setFw_cl (m : Mach) (x : FwSt) : (m.setFw x).cl = m.cl := rfl
@[simp] theorem setFw_pw (m : Mach) (x : FwSt) : (m.setFw x).pw = m.pw := rfl
@[simp] theorem setFw_tm (m : Mach) (x : FwSt) : (m.setFw x).tm = m.tm := rfl
@[simp] theorem setFw_nv (m : Mach) (x : FwSt) : (m.setFw x).nv = m.nv := rfl
@[simp] theorem setFw_lh (m : Mach) (x : FwSt) : (m.setFw x).lh = m.lh := rfl
@[simp] theorem setFw_log (m : Mach) (x : FwSt) : (m.setFw x).log = m.log := rfl
@[simp] theorem setFw_irq (m : Mach) (x : FwSt) : (m.setFw x).irq = m.irq := rfl
@[simp] theorem setFw_out (m : Mach) (x : FwSt) : (m.setFw x).out = m.out := rfl

@[simp] theorem setTm_down (m : Mach) (x : TmSt) : (m.setTm x).down = m.down := rfl
@[simp] theorem setTm_ns (m : Mach) (x : TmSt) : (m.setTm x).ns = m.ns := rfl
@[simp] theorem setTm_free (m : Mach) (x : TmSt) : (m.setTm x).free = m.free := rfl
@[simp] theorem setTm_regs (m : Mach) (x : TmSt) : (m.setTm x).regs = m.regs := rfl
@[simp] theorem setTm_mem (m : Mach) (x : TmSt) : (m.setTm x).mem = m.mem := rfl
@[simp] theorem setTm_dir (m : Mach) (x : TmSt) : (m.setTm x).dir = m.dir := rfl
@[simp] theorem setTm_js (m : Mach) (x : TmSt) : (m.setTm x).js = m.js := rfl
@[simp] theorem setTm_xl (m : Mach) (x : TmSt) : (m.setTm x).xl = m.xl := rfl
@[simp] theorem setTm_lw (m : Mach) (x : TmSt) : (m.setTm x).lw = m.lw := rfl
@[simp] theorem setTm_hl (m : Mach) (x : TmSt) : (m.setTm x).hl = m.hl := rfl
@[simp] theorem setTm_sg (m : Mach) (x : TmSt) : (m.setTm x).sg = m.sg := rfl
@[simp] theorem setTm_lt (m : Mach) (x : TmSt) : (m.setTm x).lt = m.lt := rfl
@[simp] theorem setTm_bw (m : Mach) (x : TmSt) : (m.setTm x).bw = m.bw := rfl
@[simp] theorem setTm_ik (m : Mach) (x : TmSt) : (m.setTm x).ik = m.ik := rfl
@[simp] theorem setTm_sw (m : Mach) (x : TmSt) : (m.setTm x).sw = m.sw := rfl
@[simp] theorem setTm_td (m : Mach) (x : TmSt) : (m.setTm x).td = m.td := rfl
@[simp] theorem setTm_cl (m : Mach) (x : TmSt) : (m.setTm x).cl = m.cl := rfl
@[simp] theorem setTm_pw (m : Mach) (x : TmSt) : (m.setTm x).pw = m.pw := rfl
@[simp] theorem setTm_fw (m : Mach) (x : TmSt) : (m.setTm x).fw = m.fw := rfl
@[simp] theorem setTm_nv (m : Mach) (x : TmSt) : (m.setTm x).nv = m.nv := rfl
@[simp] theorem setTm_lh (m : Mach) (x : TmSt) : (m.setTm x).lh = m.lh := rfl
@[simp] theorem setTm_log (m : Mach) (x : TmSt) : (m.setTm x).log = m.log := rfl
@[simp] theorem setTm_irq (m : Mach) (x : TmSt) : (m.setTm x).irq = m.irq := rfl
@[simp] theorem setTm_out (m : Mach) (x : TmSt) : (m.setTm x).out = m.out := rfl

@[simp] theorem setMode_down (m : Mach) (x : ModePhase) : (m.setMode x).down = m.down := rfl
@[simp] theorem setMode_ns (m : Mach) (x : ModePhase) : (m.setMode x).ns = m.ns := rfl
@[simp] theorem setMode_free (m : Mach) (x : ModePhase) : (m.setMode x).free = m.free := rfl
@[simp] theorem setMode_regs (m : Mach) (x : ModePhase) : (m.setMode x).regs = m.regs := rfl
@[simp] theorem setMode_mem (m : Mach) (x : ModePhase) : (m.setMode x).mem = m.mem := rfl
@[simp] theorem setMode_dir (m : Mach) (x : ModePhase) : (m.setMode x).dir = m.dir := rfl
@[simp] theorem setMode_js (m : Mach) (x : ModePhase) : (m.setMode x).js = m.js := rfl
@[simp] theorem setMode_xl (m : Mach) (x : ModePhase) : (m.setMode x).xl = m.xl := rfl
@[simp] theorem setMode_lw (m : Mach) (x : ModePhase) : (m.setMode x).lw = m.lw := rfl
@[simp] theorem setMode_hl (m : Mach) (x : ModePhase) : (m.setMode x).hl = m.hl := rfl
@[simp] theorem setMode_sg (m : Mach) (x : ModePhase) : (m.setMode x).sg = m.sg := rfl
@[simp] theorem setMode_lt (m : Mach) (x : ModePhase) : (m.setMode x).lt = m.lt := rfl
@[simp] theorem setMode_bw (m : Mach) (x : ModePhase) : (m.setMode x).bw = m.bw := rfl
@[simp] theorem setMode_ik (m : Mach) (x : ModePhase) : (m.setMode x).ik = m.ik := rfl
@[simp] theorem setMode_sw (m : Mach) (x : ModePhase) : (m.setMode x).sw = m.sw := rfl
@[simp] theorem setMode_td (m : Mach) (x : ModePhase) : (m.setMode x).td = m.td := rfl
@[simp] theorem setMode_cl (m : Mach) (x : ModePhase) : (m.setMode x).cl = m.cl := rfl
@[simp] theorem setMode_fw (m : Mach) (x : ModePhase) : (m.setMode x).fw = m.fw := rfl
@[simp] theorem setMode_tm (m : Mach) (x : ModePhase) : (m.setMode x).tm = m.tm := rfl
@[simp] theorem setMode_nv (m : Mach) (x : ModePhase) : (m.setMode x).nv = m.nv := rfl
@[simp] theorem setMode_lh (m : Mach) (x : ModePhase) : (m.setMode x).lh = m.lh := rfl
@[simp] theorem setMode_log (m : Mach) (x : ModePhase) : (m.setMode x).log = m.log := rfl
@[simp] theorem setMode_irq (m : Mach) (x : ModePhase) : (m.setMode x).irq = m.irq := rfl
@[simp] theorem setMode_out (m : Mach) (x : ModePhase) : (m.setMode x).out = m.out := rfl

@[simp] theorem emit_out (m : Mach) (o : Out) : (m.emit o).out = o :: m.out := rfl
/-- A source whose interrupt goes somewhere joins the end of those that wait; another raises nothing (R255). -/
theorem raise_irq (m : Mach) (n : Nat) :
    (m.raise n).irq =
      if (n ≤ 134 && 2 ≤ m.fget Reg.HL_DRV_OWNER_OWNER) || m.flag (Reg.HL_IRQ_ROUTE_EN n) then m.irq ++ [n] else m.irq := by
  unfold Mach.raise; split <;> rfl
@[simp] theorem setSw_sw (m : Mach) (x : SwSt) : (m.setSw x).sw = x := rfl
@[simp] theorem setLw_lw (m : Mach) (x : LwSt) : (m.setLw x).lw = x := rfl
@[simp] theorem setBw_bw (m : Mach) (x : BwSt) : (m.setBw x).bw = x := rfl
@[simp] theorem setFw_fw (m : Mach) (x : FwSt) : (m.setFw x).fw = x := rfl
@[simp] theorem setTm_tm (m : Mach) (x : TmSt) : (m.setTm x).tm = x := rfl
@[simp] theorem emit_rget (m : Mach) (o : Out) (a : Nat) : (m.emit o).rget a = m.rget a := rfl
@[simp] theorem raise_rget (m : Mach) (n a : Nat) : (m.raise n).rget a = m.rget a := by
  unfold Mach.raise; split <;> rfl
@[simp] theorem emit_fget (m : Mach) (o : Out) (f : Fld) : (m.emit o).fget f = m.fget f := rfl
@[simp] theorem raise_fget (m : Mach) (n : Nat) (f : Fld) : (m.raise n).fget f = m.fget f := by
  unfold Mach.raise; split <;> rfl

/-- A module that is on takes the command. -/
theorem act_on (s : State) (f : Mach → Mach) (h : s.m.down = false) : s.act f = .next { s with m := f s.m } := by
  simp [State.act, h]

/-- A module that is off does not. -/
theorem act_off (s : State) (f : Mach → Mach) (h : s.m.down = true) : s.act f = .next s := by
  simp [State.act, h]

/-- Whatever a command does, it leaves the queue. -/
theorem act_pending (s t : State) (f : Mach → Mach) (h : s.act f = .next t) : t.pending = s.pending := by
  simp only [State.act] at h
  split at h <;> cases h <;> rfl

theorem actAlways_pending (s t : State) (f : Mach → Mach) (h : s.actAlways f = .next t) : t.pending = s.pending := by
  cases h; rfl

/-- What a write by the owner, or by Lighthouse, does. -/
theorem owned_owner (m : Mach) (a : Agent) (addr : Nat) (f : Mach → Mach)
    (h : a = .lighthouse ∨ (m.fget Reg.HL_DRV_OWNER_OWNER ≠ 0 ∧ a.ownerCode = m.fget Reg.HL_DRV_OWNER_OWNER)) :
    m.owned a addr f = f m := by
  simp only [Mach.owned]; rw [if_pos h]

/-- What a write by any other agent does. -/
theorem owned_other (m : Mach) (a : Agent) (addr : Nat) (f : Mach → Mach)
    (h : ¬(a = .lighthouse ∨ (m.fget Reg.HL_DRV_OWNER_OWNER ≠ 0 ∧ a.ownerCode = m.fget Reg.HL_DRV_OWNER_OWNER))) :
    m.owned a addr f = m.logE 0x01 0 0 noJob addr := by
  simp only [Mach.owned]; rw [if_neg h]

/-! A hart's traps -/

@[simp] theorem setHl_setHl (m : Mach) (x y : HlSt) : (m.setHl x).setHl y = m.setHl y := rfl
@[simp] theorem setHl_hl (m : Mach) (x : HlSt) : (m.setHl x).hl = x := rfl
theorem setCsr_eq (m : Mach) (h n : Nat) (v : Word) :
    m.setCsr h n v = m.setHl { m.hl with csrs := sset 0 (h * 4096 + n) v m.hl.csrs } := rfl

/-- A trap enters the hart's handler: only its control registers, its program counter and its mode change. -/
theorem enterTrap_frame (m : Mach) (h status epc cause tval tvec : Nat) (st : Word) (irq : Bool) (code : Nat) (value : Word) (p : Priv) :
    ∃ c pc q, m.enterTrap h status epc cause tval tvec st irq code value p =
      m.setHl { m.hl with csrs := c, pc := pc, priv := q } := by
  simp only [Mach.enterTrap, setCsr_eq, setHl_setHl, setHl_hl]
  exact ⟨_, _, _, rfl⟩

/-- The same after one more control register is written. -/
theorem setCsr_enterTrap_frame (m : Mach) (n : Nat) (v : Word) (h status epc cause tval tvec : Nat) (st : Word) (irq : Bool) (code : Nat)
    (value : Word) (p : Priv) :
    ∃ c pc q, (m.setCsr h n v).enterTrap h status epc cause tval tvec st irq code value p =
      m.setHl { m.hl with csrs := c, pc := pc, priv := q } := by
  obtain ⟨c, pc, q, e⟩ := enterTrap_frame (m.setCsr h n v) h status epc cause tval tvec st irq code value p
  exact ⟨c, pc, q, by rw [e, setCsr_eq, setHl_setHl, setHl_hl]⟩

/-- Whatever mode takes it, a trap changes only the hart's control registers, its program counter and its mode. -/
theorem hartTrap_frame (m : Mach) (h : Nat) (irq : Bool) (code : Nat) (value : Word) :
    ∃ c pc q, m.hartTrap h irq code value = m.setHl { m.hl with csrs := c, pc := pc, priv := q } := by
  unfold Mach.hartTrap
  simp only
  repeat' split
  all_goals first
    | with_reducible exact setCsr_enterTrap_frame m _ _ h ..
    | with_reducible exact enterTrap_frame m h ..

end Sys2Proof.Machine
end

