-- ==== Sys2Proof/Laws/Memory.lean ====
section
/-!
SUPPORT. Laws of memory: every memory operation keeps the canonical form, and one byte stored is the byte read.
-/

namespace Sys2Proof.Machine

theorem memory_wf_iff (x : MemSt) : Memory.wf x = true ↔
    SMap.wf (0 : Byte) x.bytes = true ∧ SMap.wf 0 x.ktag = true ∧ SMap.wf false x.poison = true ∧ SMap.wf false x.stackPoison = true ∧
      SMap.wf (0 : Byte) x.corePool = true ∧ SMap.wf (0 : Byte) x.clusterPool = true := by
  simp only [Memory.wf, Bool.and_eq_true]; tauto

theorem poke_wf (m : Mach) (pa : Nat) (b : Byte) (h : Memory.wf m.mem = true) : Memory.wf (m.poke pa b).mem = true := by
  rw [memory_wf_iff] at *
  exact ⟨wf_sset _ _ _ _ h.1, h.2⟩

theorem pokes_wf (bs : List Byte) (m : Mach) (pa : Nat) (h : Memory.wf m.mem = true) : Memory.wf (m.pokes pa bs).mem = true := by
  induction bs generalizing m pa with
  | nil => exact h
  | cons b bs ih => exact ih _ _ (poke_wf m pa b h)

theorem setPoison_wf (m : Mach) (cw : Nat) (p : Bool) (h : Memory.wf m.mem = true) : Memory.wf (m.setPoison cw p).mem = true := by
  rw [memory_wf_iff] at *
  exact ⟨h.1, h.2.1, wf_sset _ _ _ _ h.2.2.1, h.2.2.2⟩

theorem rekey_wf (m : Mach) (key blk : Nat) (h : Memory.wf m.mem = true) : Memory.wf (m.rekey key blk).mem = true := by
  simp only [Mach.rekey]
  split
  · exact h
  · have h2 := pokes_wf (m.peeks key (blk * 16) 16) m (blk * 16) h
    rw [memory_wf_iff] at *
    exact ⟨h2.1, wf_sset _ _ _ _ h2.2.1, h2.2.2⟩

theorem rekeys_wf (m : Mach) (key pa n : Nat) (h : Memory.wf m.mem = true) : Memory.wf (m.rekeys key pa n).mem = true := by
  simp only [Mach.rekeys]
  generalize List.range _ = l
  induction l generalizing m with
  | nil => exact h
  | cons i l ih => exact ih _ (rekey_wf m key _ h)

theorem clearPoison_wf (cws : List Nat) (m : Mach) (h : Memory.wf m.mem = true) :
    Memory.wf (cws.foldl (fun a cw => a.setPoison cw false) m).mem = true := by
  induction cws generalizing m with
  | nil => exact h
  | cons c cs ih => exact ih _ (setPoison_wf m c false h)

theorem writeCw_wf (m : Mach) (key pa : Nat) (bs : List Byte) (h : Memory.wf m.mem = true) :
    Memory.wf (m.writeCw key pa bs).1.mem = true := by
  simp only [Mach.writeCw]
  split
  · exact h
  · split
    · exact h
    · exact pokes_wf _ _ _ (rekeys_wf _ _ _ _ (clearPoison_wf _ _ h))

theorem writeN_wf (n : Nat) (m : Mach) (key pa : Nat) (bs : List Byte) (h : Memory.wf m.mem = true) :
    Memory.wf (m.writeN key n pa bs).1.mem = true := by
  induction n generalizing m pa bs with
  | zero => exact h
  | succ n ih =>
    simp only [Mach.writeN]
    split
    · exact h
    · exact ih _ _ _ (writeCw_wf _ _ _ _ h)

/-- Every write to memory keeps its canonical form. -/
theorem memWrite_wf (m : Mach) (key pa : Nat) (bs : List Byte) (h : Memory.wf m.mem = true) :
    Memory.wf (m.memWrite key pa bs).1.mem = true := by
  simp only [Mach.memWrite]
  split
  · exact h
  · exact writeN_wf _ _ _ _ _ h

theorem poisonLine_wf (m : Mach) (line : Nat) (h : Memory.wf m.mem = true) : Memory.wf (m.poisonLine line).mem = true :=
  setPoison_wf _ _ _ (setPoison_wf _ _ _ h)

/-- The reset memory lists nothing. -/
theorem reset_memory_wf : Memory.wf State.reset.m.mem = true := by decide

/-- A byte stored under the key its cipher block stands under is the byte read. -/
theorem peek_poke (m : Mach) (key pa : Nat) (b : Byte) (h : sget 0 (pa / 16) m.mem.ktag = key) : (m.poke pa b).peek key pa = b := by
  simp [Mach.peek, Mach.poke, h]

/-- A byte stored leaves every other byte as it was, where the other lies in another cipher block or is read under the key its block
stands under. -/
theorem peek_poke_ne (m : Mach) (key pa pb : Nat) (b : Byte) (h : pb ≠ pa)
    (hb : pb / 16 ≠ pa / 16 ∨ sget 0 (pb / 16) m.mem.ktag = key) : (m.poke pa b).peek key pb = m.peek key pb := by
  have hk : (m.poke pa b).mem.ktag = m.mem.ktag := rfl
  have hs : ∀ p : Nat, p ≠ pa → sget (0 : Byte) p (m.poke pa b).mem.bytes = sget 0 p m.mem.bytes :=
    fun p hp => sget_sset_ne _ _ _ hp _ _
  simp only [Mach.peek, hk, hs pb h]
  rcases hb with hb | hb
  · have hc : (m.poke pa b).cipherBlock (pb / 16) = m.cipherBlock (pb / 16) := by
      refine List.map_congr_left fun i hi => hs _ ?_
      have := List.mem_range.1 hi
      omega
    rw [hc]
  · simp [hb]

end Sys2Proof.Machine
end

