-- ==== Sys2Proof/Tests/Slice0.lean ====
section
/-!
SUPPORT. Tests: ill-formed commands that the checks refuse; small steps whose results are worked out from the manual by hand; and the
witnesses of the statements' hypotheses. A witness applies a statement at a concrete state, so that Lean checks every hypothesis of
each clause there.
-/

namespace Sys2Proof.Tests

set_option Elab.async false

open Sys2Proof Sys2Proof.Machine

/-! Helpers -/

/-- A machine with register fields set. -/
def put (fs : List (Fld × Nat)) (m : Mach) : Mach := fs.foldl (fun b f => b.fset f.1 f.2) m

/-- The state of a machine with no command waiting. -/
def st (m : Mach) : State := ⟨m, []⟩

/-- The module right after reset. -/
def m0 : Mach := State.reset.m

/-- A command answers a next state. -/
def Runs (c : Instr) (s : State) : Prop := ∃ m : Mach, Gives c s m

theorem ran {c : Instr} {s : State} {m : Mach} (h : Gives c s m) : Runs c s := ⟨m, h⟩

theorem done {c : Instr} {s : State} {P : Mach → Prop} (h : Completes c s P) : Runs c s := h.imp (fun _ x => x.1)

/-- Whether a function of the machine after a command has the value given. -/
def After {α : Type} [DecidableEq α] (c : Instr) (s : State) (f : Mach → α) (v : α) : Bool :=
  match exec c s with
  | .next t => decide (f t.m = v)
  | _ => false

/-- A pair whose second part is known. -/
theorem snd_pair {α β : Type} {p : α × β} {b : β} (h : p.2 = b) : p = (p.1, b) := by
  cases h
  rfl

/-! Registers, the directory, memory tiers -/

/-- O1: a plain write; HB_DB_EVENT of the first context and of the last; the last byte and the last word of the register space, from a
hart and from a host; the first addresses of reserved ranges; Shingle. -/
theorem witness_RegisterAccesses (h : Obligations.RegisterAccesses) :
    Runs (.registerWrite (.headland 0) (BitVec.ofNat 52 Reg.SW_FAULT_CFG) 8 5#64) State.reset ∧
    exec (.registerWrite (.host 0) (BitVec.ofNat 52 (Reg.HB_DB_EVENT 0)) 8 0x10001) State.reset =
      exec (.hbDbEvent (.host 0) 0 1 1) State.reset ∧
    exec (.registerWrite (.host 0) (BitVec.ofNat 52 (Reg.HB_DB_EVENT 63)) 4 0x10001) State.reset =
      exec (.hbDbEvent (.host 0) 63 1 1) State.reset ∧
    Runs (.accessNotPerformed (.headland 0) 0xF0FFFFFFFFFF 1 true) State.reset ∧
    Runs (.accessNotPerformed (.host 1) 0xF0FFFFFFFFFF 1 false) State.reset ∧
    Runs (.unassignedAccess (.headland 63) 0xF0FFFFFFFFF8 8 false) State.reset ∧
    Runs (.unassignedAccess (.host 1) 0xF0FFFFFFFFF8 8 true) State.reset ∧
    Runs (.reservedRangeAccess (.headland 0) 0x8000000000 true) State.reset ∧
    Runs (.reservedRangeAccess (.headland 63) 0x8000000000 false) State.reset ∧
    Runs (.reservedRangeAccess (.host 0) 0x1E8D4A510000 false) State.reset ∧
    Runs (.shingleWriteDiscard (.headland 0) 0x100000000000) State.reset := by
  have q : ∀ a : BitVec 52, (Reg.rowAt (regWriteOf a.toNat 8 5#64).reg).isSome = true → tierOf a.toNat = .registers →
      accessOk a.toNat 8 = true → State.reset.m.rowFor (.headland 0) (regWriteOf a.toNat 8 5#64) = none →
      triggers (.headland 0) (.registerWrite (.headland 0) a 8 5#64) (regWriteOf a.toNat 8 5#64) = [] →
      State.reset.m.lostWindow (regWriteOf a.toNat 8 5#64).reg = false →
      Agent.reaches (.headland 0) (regWriteOf a.toNat 8 5#64).reg = true → quietReg (regWriteOf a.toNat 8 5#64).reg = true →
      Runs (.registerWrite (.headland 0) a 8 5#64) State.reset := by
    intro a e t k r x l g u
    obtain ⟨d, e⟩ := Option.isSome_iff_exists.mp e
    exact done ((h State.reset (.headland 0) a 8 rfl).1 5#64 d t k e r x l g u (Or.inl rfl))
  have n : ∀ (p : Fin 2) (x : Fin 64), Agent.host p ≠ .headland x := fun p x e => by cases e
  refine ⟨q _ ?_ ?_ ?_ (Option.isNone_iff_eq_none.mp ?_) (List.isEmpty_iff.mp ?_) ?_ ?_ ?_,
    ((h State.reset (.host 0) (BitVec.ofNat 52 (Reg.HB_DB_EVENT 0)) 8 rfl).2.1 0 0x10001 ?_).1,
    ((h State.reset (.host 0) (BitVec.ofNat 52 (Reg.HB_DB_EVENT 63)) 8 rfl).2.1 63 0x10001 ?_).2,
    ran (((h State.reset (.headland 0) 0xF0FFFFFFFFFF 1 rfl).2.2.1 _ ?_ (Or.inl ⟨?_, rfl⟩)).2 0 rfl).1,
    ran (((h State.reset (.host 1) 0xF0FFFFFFFFFF 1 rfl).2.2.1 _ ?_ (Or.inl ⟨?_, rfl⟩)).1 (n 1)).2,
    ran (((h State.reset (.headland 63) 0xF0FFFFFFFFF8 8 rfl).2.2.1 _ ?_ (Or.inr ⟨?_, Option.isNone_iff_eq_none.mp ?_, Or.inr ?_, rfl⟩)).2
      63 rfl).2,
    ran (((h State.reset (.host 1) 0xF0FFFFFFFFF8 8 rfl).2.2.1 _ ?_ (Or.inr ⟨?_, Option.isNone_iff_eq_none.mp ?_, Or.inr ?_, rfl⟩)).1 (n 1)).1,
    ran ((h State.reset (.headland 0) 0x8000000000 0 rfl).2.2.2.1 ?_ (Or.inl ?_)).1,
    ran (((h State.reset (.headland 63) 0x8000000000 0 rfl).2.2.2.1 ?_ (Or.inl ?_)).2.2 63 rfl),
    ran (((h State.reset (.host 0) 0x1E8D4A510000 0 rfl).2.2.2.1 ?_ (Or.inr ?_)).2.1 (n 0)),
    ran ((h State.reset (.headland 0) 0x100000000000 0 rfl).2.2.2.2 ?_ ?_)⟩ <;> decide +kernel

/-- A line of Stack, and states in which a position shares or owns it, or a transaction blocks it. -/
def dir0 (e : Option DirEnt) : State := st (m0.setEnt 5 e)
def txn0 (t : HomeTxn) : State := st ((m0.setEnt 5 (some (.o 3))).setTxn 5 (some t))
def waiting : HomeTxn := ⟨.rds 1, [3], none, false, false, []⟩

/-- O2: the rows of the directory, at the first positions and at the last. -/
theorem witness_DirectoryRowsComplete (h : Obligations.DirectoryRowsComplete) :
    Runs (.rds 27 5) (dir0 none) ∧ Runs (.rds 0 5) (dir0 none) ∧ Runs (.rds 8 5) (st (m0.setPoison 10 true)) ∧ Runs (.rdo 3 5) (dir0 none) ∧
    Runs (.upg 3 5) (dir0 (some (.s (vecAdd 0 3) none))) ∧ Runs (.wb 3 5 7#512) (dir0 (some (.o 3))) ∧
    Runs (.evictionNotice 3 5 false) (dir0 (some (.o 3))) ∧ Runs (.evictionNotice 7 5 true) (dir0 (some (.o 7))) ∧
    Runs (.snoopResponse 3 5 (.clean (some 7))) (txn0 waiting) ∧ Runs (.completionAck 5) (txn0 { waiting with waits := [], done := true }) ∧
    Runs (.snoopTimeout 3 5) (txn0 waiting) := by
  refine ⟨ran ((h (dir0 none) 27 0 5 rfl).1 ⟨?_, ?_, ?_, ?_, ?_, ?_, ?_, ?_⟩ ?_ ?_), ran (((h (dir0 none) 0 0 5 rfl).2.1 ⟨?_, ?_, ?_, ?_, ?_, ?_, ?_, ?_⟩ ?_ ?_).1 (Or.inr ?_)),
    ran (((h (st (m0.setPoison 10 true)) 8 0 5 rfl).2.1 ⟨?_, ?_, ?_, ?_, ?_, ?_, ?_, ?_⟩ ?_ ?_).2 ?_ ?_),
    ran ((h (dir0 none) 3 0 5 rfl).2.2.1 ⟨?_, ?_, ?_, ?_, ?_, ?_, ?_, ?_⟩ ?_ ?_),
    ran ((h (dir0 (some (.s (vecAdd 0 3) none))) 3 0 5 rfl).2.2.2.1 none ⟨?_, ?_, ?_, ?_, ?_, ?_, ?_, ?_⟩ ?_ ?_),
    ran ((h (dir0 (some (.o 3))) 0 3 5 rfl).2.2.2.2.1 7#512 ?_ ?_ ?_ ?_ ?_ ?_ ?_),
    ran ((h (dir0 (some (.o 3))) 3 0 5 rfl).2.2.2.2.2.1 none ?_ ?_ (Or.inr ?_)),
    ran ((h (dir0 (some (.o 7))) 7 0 5 rfl).2.2.2.2.2.2.1 ?_ ?_ ?_ ?_ ?_ ?_),
    ran ((h (txn0 waiting) 0 3 5 rfl).2.2.2.2.2.2.2.1 waiting 1 7 ?_ ?_ ?_ ?_ ?_ ?_),
    ran ((h (txn0 { waiting with waits := [], done := true }) 0 0 5 rfl).2.2.2.2.2.2.2.2.1 { waiting with waits := [], done := true } ?_ ?_ ?_),
    ran ((h (txn0 waiting) 0 3 5 rfl).2.2.2.2.2.2.2.2.2 waiting ?_ ?_ ?_)⟩ <;> decide +kernel

/-- O3: the first line of Stack and its last byte, and an engine's read. -/
theorem witness_NonCachingRowsComplete (h : Obligations.NonCachingRowsComplete) :
    Runs (.nonCachingWrite (.agent 3) 0 0 (.store (List.replicate 64 1))) State.reset ∧
    Runs (.nonCachingWrite (.engine ⟨0, 0⟩) 0x7FFFFFFFFF 0 (.store [1])) State.reset ∧
    Runs (.engineRead ⟨0, 0⟩ 1 0 0) State.reset := by
  refine ⟨ran ((h State.reset 0 0 rfl).1 3 (List.replicate 64 1) ⟨?_, ?_, ?_, ?_, ?_, ?_, ?_, ?_⟩ ?_ ?_ ?_),
    ran ((h State.reset 0x7FFFFFFFFF 0 rfl).2.1 ⟨0, 0⟩ [1] (Or.inl ?_) ?_ ?_ ?_ ?_ ?_ ?_),
    ran ((h State.reset 0 0 rfl).2.2 ⟨0, 0⟩ 1 _ (List.replicate 256 0) (snd_pair ?_))⟩ <;>
    decide +kernel

/-- O4: codewords of Stack whose symbols are right, wrong in one, and wrong in too many; Shingle's first sector. -/
theorem witness_MemoryTierRowsComplete (h : Obligations.MemoryTierRowsComplete) :
    Runs (.demandRead 0 0 []) State.reset ∧ Runs (.demandRead 0 0 [(3, 1)]) State.reset ∧ Runs (.scrub 0 [(3, 1)]) State.reset ∧
    Runs (.demandRead 0 0 [(3, 1), (4, 1)]) State.reset ∧ Runs (.demandRead 0 0 [(3, 1), (4, 1), (5, 255)]) State.reset ∧
    Runs (.codewordWrite 32 0 [1, 2]) State.reset ∧ Runs (.codewordWrite 32 0 [1, 2]) (st (m0.setPoison 1 true)) ∧
    Runs (.shingleRead 0x100000000000 true) (st (m0.fset (Reg.HB_FW_VER_FWVER 4) 1)) := by
  refine ⟨ran ((h State.reset 0 0 [] rfl).1 ?_ ?_ ?_), ran ((h State.reset 0 0 [(3, 1)] rfl).2.1 [3] ?_ ?_ ?_).1,
    ran (((h State.reset 0 0 [(3, 1)] rfl).2.1 [3] ?_ ?_ ?_).2 ?_),
    ran ((h State.reset 0 0 [(3, 1), (4, 1)] rfl).2.2.1 ?_ ?_ ?_), ran ((h State.reset 0 0 [(3, 1), (4, 1), (5, 255)] rfl).2.2.1 ?_ ?_ ?_),
    ran (((h State.reset 32 0 [] rfl).2.2.2.1 [1, 2] ?_).1 ?_),
    ran (((h (st (m0.setPoison 1 true)) 32 0 [] rfl).2.2.2.1 [1, 2] ?_).2 ?_),
    ran ((h (st (m0.fset (Reg.HB_FW_VER_FWVER 4) 1)) 0x100000000000 0 [] rfl).2.2.2.2 true ?_ ?_)⟩ <;> decide +kernel

/-- O5: key slots 1 and 63, idle and at a command's end. -/
theorem witness_KeyCommandsComplete (h : Obligations.KeyCommandsComplete) :
    Runs (.generate .lighthouse 1) State.reset ∧ Runs (.erase .lighthouse 63) State.reset ∧
    Runs .keyCommandDone (st { m0 with mem := { m0.mem with keyCmd := some (true, 1) } }) := by
  refine ⟨ran ((h State.reset .lighthouse 1 true rfl).1 (Or.inl rfl) ?_ ?_ ?_),
    ran ((h State.reset .lighthouse 63 false rfl).1 (Or.inl rfl) ?_ ?_ ?_),
    done ((h (st { m0 with mem := { m0.mem with keyCmd := some (true, 1) } }) .lighthouse 1 true rfl).2 ?_)⟩ <;> decide +kernel

/-! Jobs, rings and commands -/

/-- A word made of fields: lowest bit and value. -/
def fld (fs : List (Nat × Nat)) : Word := BitVec.ofNat 64 (fs.foldl (fun (v : Nat) (f : Nat × Nat) => v + f.2 * 2 ^ f.1) 0)

/-- A machine whose memory holds words at an address. -/
def mem (pa : Nat) (ws : List Word) (m : Mach) : Mach := m.pokes pa (wordBytes ws)

/-- A job descriptor (R106): ASID 1, weight 1, its page table at 0x20000, its rings at 0x40000 to 0x70000, ring 0 to Reef A and ring
1 to Harbour, its switch area at 0x100000. -/
def jd : List Word := [fld [(0, 1), (24, 1)], fld [(17, 1)], 7, BitVec.allOnes 64, fld [(0, 6), (12, 0x40)], fld [(0, 6), (12, 0x50)],
  fld [(0, 6), (8, 1), (12, 0x60)], fld [(0, 6), (5, 4), (8, 1), (12, 0x70)], 0, 0, 0, 0, 0, 0, 0, fld [(12, 0x100), (60, 1)]]

/-- A job of that descriptor. -/
def j1 : Job := freshJob jd

/-- A machine whose Harbour image runs and whose job 1 is live. -/
def live (j : Job) : Mach := (put [(Reg.HB_FW_VER_FWVER 4, 1), (Reg.HB_FIN_STATE_FINITE 1, 1), (⟨Reg.HB_JOB_LIVE, 1, 1⟩, 1)] m0).setJob 1 (some j)

/-- A command of job 1 and ring `r` for a target and engine, at its phase. -/
def cmd (r tgt eng : Nat) (ph : Phase) (body : List Word) : Cmd :=
  { newCmd 0 1 r 0 tgt eng [fld [(0, eng), (10, 1), (14, 1)], 0, 0, 0, 0, 0, 0, fld [(60, 1)]] body with phase := ph }

/-- The state in which job 1's commands are those given. -/
def cmds (cs : List Cmd) : State := st ((live j1).setCmds cs)

/-- O6. -/
theorem witness_JobCommandsComplete (h : Obligations.JobCommandsComplete) :
    Runs (.create .lighthouse 1) (st (mem 0x1000 jd (put [(Reg.HB_FW_VER_FWVER 4, 1), (Reg.HB_JOB_ARG_DESC, 0x1000)] m0))) ∧
    Runs (.destroy .lighthouse 1) (st (live j1)) ∧ Runs (.destroyComplete 1) (st (live { j1 with dying := true })) := by
  refine ⟨ran ((h (st (mem 0x1000 jd (put [(Reg.HB_FW_VER_FWVER 4, 1), (Reg.HB_JOB_ARG_DESC, 0x1000)] m0))) .lighthouse 1 ?_).1
      _ jd false (Or.inl rfl) ?_ ?_ (snd_pair ?_) ?_),
    ran ((h (st (live j1)) .lighthouse 1 ?_).2.1 j1 (Or.inl rfl) ?_ ?_ ?_),
    ran ((h (st (live { j1 with dying := true })) .lighthouse 1 ?_).2.2 { j1 with dying := true } ?_ ?_ ?_ ?_)⟩ <;> decide +kernel

/-- O7: a ring of 64 slots takes a tail 64 past its head, event 223, and both cases of the event ring's head. -/
theorem witness_DoorbellRowsComplete (h : Obligations.DoorbellRowsComplete) :
    Runs (.sqDoorbell (.headland 0) 1 0 64) (st (live j1)) ∧ Runs (.sqDoorbell (.headland 0) 1 0 65) (st (live j1)) ∧
    Runs (.ringResume (.headland 0) 1 0) (st ((live j1).fset (Reg.HB_DB_SQ_TAIL_TAIL 1 0) 65)) ∧ Runs (.hbDbEvent (.headland 0) 1 223 9) (st (live j1)) ∧
    Runs (.ringResume (.headland 0) 1 0) (st (live j1)) ∧ Runs (.ringReset (.headland 0) 1 0) (st (live j1)) ∧
    Runs (.cqHeadWrite (.headland 0) 1 0) (st (live j1)) ∧ Runs (.eqHeadWrite (.headland 0) 1 0) (st (live j1)) ∧
    Runs (.eqHeadWrite (.headland 0) 1 0) (st (live { j1 with eventsLost := 3 })) ∧
    Runs (.cqBatchTimeout 1) (st ((live { j1 with batch := 2 }).fset (Reg.HB_DB_IRQ_CQ_EN 1) 1)) := by
  refine ⟨ran (((h (st (live j1)) (.headland 0) 1 0 j1 64 ?_ ?_).1 ?_ ?_).1 ?_),
    ran (((h (st (live j1)) (.headland 0) 1 0 j1 65 ?_ ?_).1 ?_ ?_).2 ?_ ?_),
    ran (((h (st ((live j1).fset (Reg.HB_DB_SQ_TAIL_TAIL 1 0) 65)) (.headland 0) 1 0 j1 0 ?_ ?_).2.2.1 ?_ ?_).2 ?_ ?_),
    ran ((h (st (live j1)) (.headland 0) 1 0 j1 64 ?_ ?_).2.1 223 9 ?_ ?_),
    ran (((h (st (live j1)) (.headland 0) 1 0 j1 64 ?_ ?_).2.2.1 ?_ ?_).1 ?_), ran ((h (st (live j1)) (.headland 0) 1 0 j1 64 ?_ ?_).2.2.2.1 ?_ ?_),
    ran ((h (st (live j1)) (.headland 0) 1 0 j1 0 ?_ ?_).2.2.2.2.1 ?_), ran ((h (st (live j1)) (.headland 0) 1 0 j1 0 ?_ ?_).2.2.2.2.2.1 ?_ ?_),
    ran ((h (st (live { j1 with eventsLost := 3 })) (.headland 0) 1 0 { j1 with eventsLost := 3 } 0 ?_ ?_).2.2.2.2.2.2.1 ?_ ?_ ?_),
    ran ((h (st ((live { j1 with batch := 2 }).fset (Reg.HB_DB_IRQ_CQ_EN 1) 1)) (.headland 0) 1 0 { j1 with batch := 2 } 0 ?_ ?_).2.2.2.2.2.2.2
      ?_ ?_)⟩ <;> decide +kernel

/-- Bodies of sequencer commands of R113: an operation and its other words. -/
def seqBody (op : Nat) (w1 w2 : Word) : List Word := [BitVec.ofNat 64 op, w1, w2, 0, 0, 0, 0, fld [(60, 1)]]

/-- Ring 0 holds one sequencer command of that operation and step 0. -/
def ring0 (op : Nat) : State := st (mem 0x60000 ((cmd 0 0 0 .pending []).hdr ++ seqBody op 0 0) ((live j1).fset (Reg.HB_DB_SQ_TAIL_TAIL 1 0) 2))

/-- A data mover's command that waits on a page fault. -/
def faulted : Cmd := { cmd 0 0 4 .running [] with fault := some ⟨0, .read, false⟩ }

/-- O8: a NOP and a STEPEND fetched, and each of the rows that carry a command to its end. -/
theorem witness_CommandFlowComplete (h : Obligations.CommandFlowComplete) :
    Runs (.commandFetch 1 0) (ring0 1) ∧ Runs (.commandFetch 1 0) (ring0 4) ∧
    Runs (.commandDispatch (.core ⟨0, 0⟩) .sequencer) (cmds [cmd 0 0 0 .pending (seqBody 1 0 0)]) ∧
    Runs (.commandComplete (.core ⟨0, 0⟩) .sequencer) (cmds [{ cmd 0 0 0 .running (seqBody 3 0 0) with status := some 0 }]) ∧
    Runs (.commandComplete .harbour .collective) (cmds [{ cmd 1 192 5 .running [] with status := some 0 }]) ∧
    Runs (.switchOut ⟨0, 0⟩ .mover) (cmds [faulted]) ∧ Runs (.faultLimitExpiry (.core ⟨0, 0⟩) ⟨.mover, 0⟩) (cmds [faulted]) ∧
    Runs (.watchdogExpiry (.core ⟨0, 0⟩) ⟨.vector, 0⟩) (cmds [cmd 0 0 3 .running []]) ∧
    Runs (.stepBoundary 1) (st (live { j1 with stepEnds := [(0, 0, 0), (1, 0, 0)] })) := by
  refine ⟨ran ((h (ring0 1) ?_).1 1 0 j1 ?_ ?_ ?_ ?_ ?_ _ _ _ 1 _ (cmd 0 0 0 .pending []).hdr (seqBody 1 0 0) _ _ _ rfl rfl rfl
      ?_ ?_ (snd_pair ?_) (snd_pair ?_) ?_ ?_ rfl ?_ ?_ ?_ rfl ?_),
    ran ((h (ring0 4) ?_).1 1 0 j1 ?_ ?_ ?_ ?_ ?_ _ _ _ 1 _ (cmd 0 0 0 .pending []).hdr (seqBody 4 0 0) _ _ _ rfl rfl rfl
      ?_ ?_ (snd_pair ?_) (snd_pair ?_) ?_ ?_ rfl ?_ ?_ ?_ rfl ?_),
    ran ((h (cmds [cmd 0 0 0 .pending (seqBody 1 0 0)]) ?_).2.1 (.core ⟨0, 0⟩) .sequencer 1 (cmd 0 0 0 .pending (seqBody 1 0 0)) ?_ ?_ ?_),
    ran ((h (cmds [{ cmd 0 0 0 .running (seqBody 3 0 0) with status := some 0 }]) ?_).2.2.1 (.core ⟨0, 0⟩) .sequencer
      { cmd 0 0 0 .running (seqBody 3 0 0) with status := some 0 } 0 ?_ ?_ ?_ ?_ ?_),
    ran ((h (cmds [{ cmd 1 192 5 .running [] with status := some 0 }]) ?_).2.2.2.1 .collective
      { cmd 1 192 5 .running [] with status := some 0 } 0 ?_ ?_ ?_ ?_ ?_),
    ran ((h (cmds [faulted]) ?_).2.2.2.2.1 ⟨0, 0⟩ .mover faulted ⟨0, .read, false⟩ ?_ ?_ ?_),
    ran ((h (cmds [faulted]) ?_).2.2.2.2.2.1 (.core ⟨0, 0⟩) .mover 0 faulted ⟨0, .read, false⟩ ?_ ?_),
    ran ((h (cmds [cmd 0 0 3 .running []]) ?_).2.2.2.2.2.2.1 (.core ⟨0, 0⟩) .vector 0 (cmd 0 0 3 .running []) ?_ ?_),
    ran ((h (st (live { j1 with stepEnds := [(0, 0, 0), (1, 0, 0)] })) ?_).2.2.2.2.2.2.2 1
      { j1 with stepEnds := [(0, 0, 0), (1, 0, 0)] } [] ?_ ?_ ?_ ?_ (snd_pair ?_) (snd_pair ?_))⟩ <;> decide +kernel

/-- The state in which one command waits at its head. -/
def atHead0 (tgt eng : Nat) (body : List Word) : State := cmds [cmd 0 tgt eng .queued body]

/-- O9: the greatest core and Harbour for those that both take; a flush of one line. -/
theorem witness_SequencerCommandsComplete (h : Obligations.SequencerCommandsComplete) :
    Runs (.nop .harbour) (cmds [cmd 1 192 0 .queued (seqBody 1 0 0)]) ∧
    Runs (.fence (.core ⟨3, 47⟩)) (atHead0 191 0 (seqBody 2 0 0)) ∧
    Runs (.flush (.core ⟨0, 0⟩)) (atHead0 0 0 (seqBody 3 0 64)) ∧ Runs (.stepend (.core ⟨0, 0⟩)) (atHead0 0 0 (seqBody 4 0 0)) ∧
    Runs (.selftest ⟨0, 0⟩ true) (st ((live { j1 with desc := jd.set 0 (fld [(0, 1), (18, 1), (24, 1)]) }).setCmds
      [cmd 0 0 0 .queued (seqBody 5 0 0)])) ∧
    Runs (.poolclear ⟨0, 0⟩) (st ((live { j1 with desc := jd.set 0 (fld [(0, 1), (18, 1), (24, 1)]) }).setCmds
      [cmd 0 0 0 .queued (seqBody 6 0 0)])) := by
  refine ⟨ran ((h (cmds [cmd 1 192 0 .queued (seqBody 1 0 0)]) (cmd 1 192 0 .queued (seqBody 1 0 0)) ?_ ?_).1 .harbour ⟨?_, ?_, ?_, ?_⟩ ?_),
    ran ((h (atHead0 191 0 (seqBody 2 0 0)) (cmd 0 191 0 .queued (seqBody 2 0 0)) ?_ ?_).2.1 (.core ⟨3, 47⟩) ⟨?_, ?_, ?_, ?_⟩ ?_),
    ran ((h (atHead0 0 0 (seqBody 3 0 64)) (cmd 0 0 0 .queued (seqBody 3 0 64)) ?_ ?_).2.2.1 (.core ⟨0, 0⟩) ⟨?_, ?_, ?_, ?_⟩ ?_),
    ran ((h (atHead0 0 0 (seqBody 4 0 0)) (cmd 0 0 0 .queued (seqBody 4 0 0)) ?_ ?_).2.2.2.1 (.core ⟨0, 0⟩) ?_ ?_ ?_ ?_),
    ran ((h _ (cmd 0 0 0 .queued (seqBody 5 0 0)) ?_ ?_).2.2.2.2.1 ⟨0, 0⟩ true ⟨?_, ?_, ?_, ?_⟩ ?_),
    ran ((h _ (cmd 0 0 0 .queued (seqBody 6 0 0)) ?_ ?_).2.2.2.2.2 ⟨0, 0⟩ ⟨?_, ?_, ?_, ?_⟩ ?_)⟩ <;> decide +kernel

/-! The engines of a core -/

/-- The value an access answered. -/
def okv {ε α : Type} (d : α) : Except ε α → α
  | .ok v => v
  | .error _ => d

/-- An access that proceeds, as a pair. -/
theorem ok_pair {ε α : Type} (d : α) {p : Mach × Except ε α} (h : p.2.toBool = true) : p = (p.1, .ok (okv d p.2)) := by
  match p, h with
  | (_, .ok _), _ => rfl

theorem ok_triple {ε α β γ : Type} (d : α × β × γ) {p : Mach × Except ε (α × β × γ)} (h : p.2.toBool = true) :
    p = (p.1, .ok ((okv d p.2).1, (okv d p.2).2.1, (okv d p.2).2.2)) := ok_pair d h

/-- A body of `n` words with the version in its last. -/
def body (n : Nat) (ws : List (Nat × Word)) : List Word :=
  (List.range n).map (fun i => if i = n - 1 then fld [(60, 1)] else (ws.lookup i).getD 0)

/-- FP32 data mover bodies within the core pool: COPY, STAGE and FILL (R121). -/
def dmBody (kind : Nat) : List Word := match kind with
  | 0 => body 16 [(0, fld [(8, 7), (12, 7)]), (1, fld [(0, 4), (24, 1), (44, 1)]), (5, 0x1000)]
  | 1 => body 16 [(0, fld [(0, 1), (8, 6), (12, 6)]), (1, fld [(0, 4), (24, 1), (44, 1)]), (5, 0x1000), (6, 512)]
  | _ => body 16 [(0, fld [(0, 2), (12, 7)]), (1, fld [(0, 4), (24, 1), (44, 1)]), (5, 0x1000)]

/-- O10. -/
theorem witness_MoverCommandsComplete (h : Obligations.MoverCommandsComplete) :
    Runs (.copy ⟨0, 0⟩) (atHead0 0 4 (dmBody 0)) ∧ Runs (.stage ⟨3, 47⟩) (atHead0 191 4 (dmBody 1)) ∧
    Runs (.fill ⟨0, 0⟩) (atHead0 0 4 (dmBody 2)) := by
  refine ⟨ran ((h (atHead0 0 4 (dmBody 0)) ⟨0, 0⟩ (cmd 0 0 4 .queued (dmBody 0)) ?_ ⟨?_, ?_, ?_, ?_⟩ ?_).1 ?_),
    ran ((h (atHead0 191 4 (dmBody 1)) ⟨3, 47⟩ (cmd 0 191 4 .queued (dmBody 1)) ?_ ⟨?_, ?_, ?_, ?_⟩ ?_).2.1 ?_),
    ran ((h (atHead0 0 4 (dmBody 2)) ⟨0, 0⟩ (cmd 0 0 4 .queued (dmBody 2)) ?_ ⟨?_, ?_, ?_, ?_⟩ ?_).2.2 ?_)⟩ <;> decide +kernel

/-- FP16 operands within the core pool, an FP32 result (R58, R70, R72): M, N and K as the fields hold them. -/
def mxBody (kind m n k : Nat) : List Word := body 16 [(0, fld [(0, kind), (8, 6), (12, 6), (16, 7)]), (1, fld [(0, m), (7, n), (14, k)]),
  (3, if kind = 1 then 16 else 512), (5, 0x1000), (6, 512), (8, if kind = 1 then 1 else 0), (10, 0x4000), (11, 512)]

/-- A running matrix command of four passes, at its second. -/
def mxRun : Cmd := { cmd 0 0 1 .running (mxBody 0 8 8 0) with run := [(0, 2)], prog := 1 }

/-- It past its passes, and before its last. -/
def mxPast : Cmd := { mxRun with prog := 4 }
def mxNear : Cmd := { mxRun with prog := 3 }

/-- O11: a pass of 8 rows by 64 columns that is not the last, the last, and the end after it. -/
theorem witness_MatrixRowsComplete (h : Obligations.MatrixRowsComplete) :
    Runs (.gemm ⟨0, 0⟩) (atHead0 0 1 (mxBody 0 0 0 0)) ∧ Runs (.conv ⟨0, 0⟩) (atHead0 0 1 (mxBody 1 0 0 1)) ∧
    Runs (.mv ⟨0, 0⟩) (atHead0 0 2 (mxBody 2 7 0 0)) ∧ Runs (.matrixPass ⟨0, 0⟩) (cmds [mxRun]) ∧
    Runs (.matrixPass ⟨0, 0⟩) (cmds [mxPast]) ∧ Runs (.matrixPass ⟨0, 0⟩) (cmds [mxNear]) ∧
    Runs (.mxCntClr (.headland 0) ⟨0, 0⟩) State.reset ∧ Runs (.planFlush (.headland 0) ⟨0, 0⟩) State.reset ∧
    Runs (.planFlush (.headland 0) ⟨0, 0⟩) (st (m0.fset (Reg.RF_MX_STATE_BUSY 0 0) 1)) := by
  refine ⟨ran (((h (atHead0 0 1 (mxBody 0 0 0 0)) ⟨0, 0⟩ ?_).1 j1 (cmd 0 0 1 .queued (mxBody 0 0 0 0)) ⟨?_, ?_, ?_, ?_⟩ ?_ ?_ ?_).1 ?_),
    ran (((h (atHead0 0 1 (mxBody 1 0 0 1)) ⟨0, 0⟩ ?_).1 j1 (cmd 0 0 1 .queued (mxBody 1 0 0 1)) ⟨?_, ?_, ?_, ?_⟩ ?_ ?_ ?_).2 ?_),
    ran ((h (atHead0 0 2 (mxBody 2 7 0 0)) ⟨0, 0⟩ ?_).2.1 j1 (cmd 0 0 2 .queued (mxBody 2 7 0 0)) ⟨?_, ?_, ?_, ?_⟩ ?_ ?_ ?_),
    ran ((((h (cmds [mxRun]) ⟨0, 0⟩ ?_).2.2.1 j1 mxRun _ _ ?_ ?_ ?_ ?_ ?_ ?_ (ok_pair mxRun ?_)).2 _ _ ?_ (ok_pair mxRun ?_)).1 ?_),
    ran (((h (cmds [mxPast]) ⟨0, 0⟩ ?_).2.2.1 j1 mxPast _ _ ?_ ?_ ?_ ?_ ?_ ?_ (ok_pair mxRun ?_)).1 ?_),
    ran ((((h (cmds [mxNear]) ⟨0, 0⟩ ?_).2.2.1 j1 mxNear _ _ ?_ ?_ ?_ ?_ ?_ ?_ (ok_pair mxRun ?_)).2 _ _ ?_ (ok_pair mxRun ?_)).2 ?_),
    ran ((h State.reset ⟨0, 0⟩ ?_).2.2.2 (.headland 0) ?_).1, ran (((h State.reset ⟨0, 0⟩ ?_).2.2.2 (.headland 0) ?_).2.1 ?_),
    ran (((h (st (m0.fset (Reg.RF_MX_STATE_BUSY 0 0) 1)) ⟨0, 0⟩ ?_).2.2.2 (.headland 0) ?_).2.2 ?_)⟩ <;> decide +kernel

/-! The vector engine -/

/-- An instruction on two I32 or FP32 elements of V1 and V2 into V0 (R92); its memory slot 0 is the core pool from offset 0. -/
def vi (l : BitVec 2) (f2 : BitVec 4) : VInst := ⟨l, 0, 1, 2, 3, 1, 0, 0, 0, 0, f2, 0, 1, 0⟩

/-- A running program of that one instruction, run twice (R91). -/
def prog (op : Nat) (i : VInst) : Cmd :=
  (cmd 0 0 3 .running (body 16 [(0, fld [(0, 1), (13, 1)])])).withBlock [(encodeVInst op i).1, (encodeVInst op i).2]

def progSt (op : Nat) (i : VInst) : State := cmds [prog op i]

/-- O12, for each of its rows. -/
theorem witness_ElementwiseInstructions (h : Obligations.ElementwiseInstructions) :
    ∀ p ∈ elementwiseRows, Runs (p.2 ⟨0, 0⟩ (vi 2 0)) (progSt p.1 (vi 2 0)) := by
  have q : ∀ op ∈ elementwiseRows.map Prod.fst, (progSt op (vi 2 0)).m.vCurrent 0 op (vi 2 0) = some (j1, prog op (vi 2 0)) := by
    decide +kernel
  exact fun p e => ran (h _ ⟨0, 0⟩ (vi 2 0) j1 (prog p.1 (vi 2 0)) rfl p e (q p.1 (List.mem_map_of_mem e)))

/-- O13. -/
theorem witness_LaneMovesAndReductions (h : Obligations.LaneMovesAndReductions) :
    Runs (.viota ⟨0, 0⟩ (vi 2 0)) (progSt 0x2B (vi 2 0)) ∧ Runs (.vcvt ⟨0, 0⟩ (vi 2 0)) (progSt 0x30 (vi 2 0)) ∧
    Runs (.vrsum ⟨0, 0⟩ (vi 0 0)) (progSt 0x38 (vi 0 0)) ∧ Runs (.vrmax ⟨0, 0⟩ (vi 0 0)) (progSt 0x39 (vi 0 0)) ∧
    Runs (.vmov ⟨0, 0⟩ (vi 0 0)) (progSt 0x40 (vi 0 0)) ∧ Runs (.vbcast ⟨0, 0⟩ (vi 0 0)) (progSt 0x41 (vi 0 0)) ∧
    Runs (.vperm ⟨0, 0⟩ (vi 0 0)) (progSt 0x42 (vi 0 0)) := by
  refine ⟨ran ((h _ ⟨0, 0⟩ (vi 2 0) j1 (prog 0x2B (vi 2 0)) rfl).1 ?_), ran ((h _ ⟨0, 0⟩ (vi 2 0) j1 (prog 0x30 (vi 2 0)) rfl).2.1 ?_),
    ran ((h _ ⟨0, 0⟩ (vi 0 0) j1 (prog 0x38 (vi 0 0)) rfl).2.2.1 ?_), ran ((h _ ⟨0, 0⟩ (vi 0 0) j1 (prog 0x39 (vi 0 0)) rfl).2.2.2.1 ?_),
    ran ((h _ ⟨0, 0⟩ (vi 0 0) j1 (prog 0x40 (vi 0 0)) rfl).2.2.2.2.1 ?_),
    ran ((h _ ⟨0, 0⟩ (vi 0 0) j1 (prog 0x41 (vi 0 0)) rfl).2.2.2.2.2.1 ?_),
    ran ((h (progSt 0x42 (vi 0 0)) ⟨0, 0⟩ (vi 0 0) j1 (prog 0x42 (vi 0 0)) rfl).2.2.2.2.2.2
      (fun e => (prog 0x42 (vi 0 0)).vget (viLane (vi 0 0)) (vi 0 0).vb.toNat e) ?_ (fun _ => rfl))⟩ <;> decide +kernel

/-- An FP32 instruction on two elements of memory from the pool's first byte. -/
def vm : VInst := { vi 0 7 with imm := 0 }

/-- O14. -/
theorem witness_VectorMemoryInstructions (h : Obligations.VectorMemoryInstructions) :
    Runs (.vld ⟨0, 0⟩ vm) (progSt 0x48 vm) ∧ Runs (.vst ⟨0, 0⟩ vm) (progSt 0x49 vm) ∧ Runs (.vgather ⟨0, 0⟩ (vi 0 7)) (progSt 0x4A (vi 0 7)) ∧
    Runs (.vscatter ⟨0, 0⟩ (vi 0 7)) (progSt 0x4B (vi 0 7)) ∧ Runs (.vscadd ⟨0, 0⟩ (vi 0 7)) (progSt 0x4C (vi 0 7)) := by
  refine ⟨ran ((h (progSt 0x48 vm) ⟨0, 0⟩ vm j1 (prog 0x48 vm) rfl).1 _ [0, 0] ?_ (snd_pair ?_)),
    ran ((h (progSt 0x49 vm) ⟨0, 0⟩ vm j1 (prog 0x49 vm) rfl).2.1 _ (prog 0x49 vm) ?_ (snd_pair ?_) ?_),
    ran ((h (progSt 0x4A (vi 0 7)) ⟨0, 0⟩ (vi 0 7) j1 (prog 0x4A (vi 0 7)) rfl).2.2.1 ?_),
    ran ((h (progSt 0x4B (vi 0 7)) ⟨0, 0⟩ (vi 0 7) j1 (prog 0x4B (vi 0 7)) rfl).2.2.2.1 ?_),
    ran ((h (progSt 0x4C (vi 0 7)) ⟨0, 0⟩ (vi 0 7) j1 (prog 0x4C (vi 0 7)) rfl).2.2.2.2 ?_)⟩ <;> decide +kernel

/-- A chain of one addition of an FP32 input of the core pool to itself (R83). -/
def chBody : List Word := body 36 [(1, fld [(0, 4), (24, 1), (44, 1)]), (2, fld [(60, 7)]), (14, fld [(0, 0x1000), (60, 7)]),
  (15, fld [(56, 4)]), (26, fld [(0, 1), (18, 15)])]

def chRun (r : SMap Nat) : Cmd := { cmd 0 0 3 .running chBody with run := r }

/-- A program of one VADD at the pool's first byte. -/
def pgSt : State := st { (live j1).setCmds [cmd 0 0 3 .queued (body 16 [(0, 1)])] with mem := { m0.mem with
  corePool := vbytes 0 (wordBytes [(encodeVInst 1 { vm with fmt2 := 0, vc := 0 }).1, (encodeVInst 1 { vm with fmt2 := 0, vc := 0 }).2]) [] } }

/-- O15. -/
theorem witness_VectorCommandsComplete (h : Obligations.VectorCommandsComplete) :
    Runs (.chain ⟨0, 0⟩) (atHead0 0 3 chBody) ∧ Runs (.program ⟨0, 0⟩) pgSt ∧ Runs (.chainChunk ⟨0, 0⟩) (cmds [chRun [(1, 1)]]) ∧
    Runs (.chainChunk ⟨0, 0⟩) (cmds [chRun []]) ∧ Runs (.vxCntClr (.headland 0) ⟨0, 0⟩) State.reset ∧
    Runs (.nfClr (.headland 0) ⟨0, 0⟩) State.reset := by
  refine ⟨ran ((h (atHead0 0 3 chBody) ⟨0, 0⟩ ?_).1 (cmd 0 0 3 .queued chBody) ⟨?_, ?_, ?_, ?_⟩ ?_ ?_),
    ran ((h pgSt ⟨0, 0⟩ ?_).2.1 (cmd 0 0 3 .queued (body 16 [(0, 1)])) j1 ⟨?_, ?_, ?_, ?_⟩ ?_ ?_ ?_),
    ran ((h (cmds [chRun [(1, 1)]]) ⟨0, 0⟩ ?_).2.2.1 (chRun [(1, 1)]) j1 ?_ ?_ ?_ ?_ ?_ ?_),
    ran ((h (cmds [chRun []]) ⟨0, 0⟩ ?_).2.2.2.1 (chRun []) j1 _ _ _ _ _ _
      ?_ ?_ ?_ ?_ ?_ ?_ (ok_pair [] ?_) (ok_triple ([], 0, 0) ?_)),
    ran ((h State.reset ⟨0, 0⟩ ?_).2.2.2.2 (.headland 0) ?_).1, ran ((h State.reset ⟨0, 0⟩ ?_).2.2.2.2 (.headland 0) ?_).2⟩ <;> decide +kernel

/-! Translation, faults and migration -/

/-- Job 1's table (R180, R182): one 2 MiB leaf that maps VA 0 to the given 64 KiB unit of the given tier, every right granted. -/
def leaf (tier unit : Nat) : Word := fld [(0, 1), (1, 7), (4, 1), (14, tier), (16, unit), (60, 1)]

def paged (m : Mach) : Mach :=
  mem 0x20000 [fld [(0, 1), (4, 3), (8, 0x2000), (60, 1)]] (mem 0x200000 [fld [(0, 1), (4, 3), (8, 0x2100), (60, 1)]] (mem 0x210000 [leaf 0 0x40] m))

/-- The module with translation state. -/
def xlSt (x : XlSt) : State := st { m0 with xl := x }

/-- O16: a walk that passes at the last byte of its page, and one that ends at an empty entry. -/
theorem witness_TranslationRowsComplete (h : Obligations.TranslationRowsComplete) :
    Runs (.pageWalk (.engine ⟨0, 0⟩ .mover) 1 0x1FFFFF .atomic) (st (paged (live j1))) ∧
    Runs (.pageWalk (.harbour 22) 1 0x80000000000 .read) (st (paged (live j1))) ∧
    Runs (.faultRetry (.harbour 22)) (xlSt { m0.xl with retry := [⟨.harbour 22, 1, 0, .read⟩] }) ∧
    Runs (.frHeadWrite .lighthouse 1) State.reset ∧ Runs (.frBaseWrite .lighthouse 0x1006) State.reset ∧
    Runs (.hbFltResolve .lighthouse 0 0) (xlSt { m0.xl with recs := [⟨0, 1, 0, .service, []⟩] }) ∧
    Runs (.hbFltResolve .lighthouse 0 0x0406) (xlSt { m0.xl with recs := [⟨0, 1, 0, .service, []⟩] }) ∧
    Runs (.tlbi .lighthouse 1 false true) State.reset ∧ Runs (.mpTailWrite .lighthouse 1) State.reset ∧
    Runs .tlbiComplete (xlSt { m0.xl with tlbi := some ⟨[(0x400000, 65536)], []⟩ }) := by
  refine ⟨ran (((h (st (paged (live j1))) .lighthouse ?_).1 (.engine ⟨0, 0⟩ .mover) 1 0x1FFFFF .atomic j1 _ ?_).1 0x5FFFFF 0 (snd_pair ?_)),
    ran (((h (st (paged (live j1))) .lighthouse ?_).1 (.harbour 22) 1 0x80000000000 .read j1 _ ?_).2 0x0401 (snd_pair ?_)),
    ran ((h (xlSt { m0.xl with retry := [⟨.harbour 22, 1, 0, .read⟩] }) .lighthouse ?_).2.1 (.harbour 22) ⟨.harbour 22, 1, 0, .read⟩ ?_),
    ran (((h State.reset .lighthouse ?_).2.2.1 (Or.inl rfl)).1 1), ran (((h State.reset .lighthouse ?_).2.2.1 (Or.inl rfl)).2.1 0x1006),
    ran ((((h (xlSt { m0.xl with recs := [⟨0, 1, 0, .service, []⟩] }) .lighthouse ?_).2.2.1 (Or.inl rfl)).2.2.1 0 ⟨0, 1, 0, .service, []⟩ ?_).1),
    ran ((((h (xlSt { m0.xl with recs := [⟨0, 1, 0, .service, []⟩] }) .lighthouse ?_).2.2.1 (Or.inl rfl)).2.2.1 0 ⟨0, 1, 0, .service, []⟩ ?_).2
      0x0406 (Or.inr (Or.inr rfl))),
    ran (((h State.reset .lighthouse ?_).2.2.1 (Or.inl rfl)).2.2.2.1 1 false true
      _ 0 0 _ [] ?_ ?_ ?_ ?_ ?_ rfl (snd_pair ?_)),
    ran (((h State.reset .lighthouse ?_).2.2.1 (Or.inl rfl)).2.2.2.2 1),
    ran ((h (xlSt { m0.xl with tlbi := some ⟨[(0x400000, 65536)], []⟩ }) .lighthouse ?_).2.2.2 ⟨[(0x400000, 65536)], []⟩ ?_ ?_)⟩ <;> decide +kernel

/-- A migration of a page of host memory into a frame, at each of its places, and evictions. -/
def mig (frame : Option Nat) (run : Option (Nat × Bool)) : Mig := ⟨0x210000, leaf 3 0x800000000, frame, false, run⟩
def migRec (g : Mig) : FRec := ⟨3, 1, 0, .migrate g, []⟩
def evRec : FRec := ⟨0, 1, 0, .evict 0x210000 (leaf 0 0x40), []⟩
def migSt (g : Mig) : State := st { m0.fset (Reg.LW_EPOCH_ARMED 0) 1 with xl := { m0.xl with recs := [migRec g] } }
def migOffSt : State := st { m0.fset (Reg.HB_DIE_STATE_STATE 0) dieFenced with xl := { m0.xl with recs := [migRec (mig (some 0x400000) none)] } }
def evRun (stage : Nat) : EvictRun := ⟨1, 0, 0x8000000000000, false, 0, 5, stage⟩
def evSt (stage : Nat) : State := st { m0.fset (Reg.LW_EPOCH_ARMED 0) 1 with xl := { m0.xl with
  recs := [evRec], evict := some (evRun stage) } }

/-- No line is in use in an empty directory. -/
theorem no_lines {s : State} {l : Nat} (ht : s.m.dir.txns = []) (he : s.m.dir.ents = []) :
    ¬((∃ p ∈ s.m.dir.txns, p.1 = l) ∨ (∃ p ∈ s.m.dir.ents, p.1 = l)) := by
  simp [ht, he]

/-- O17: a migration that waits for a frame, one whose frame's die is lost, one that copies, one that writes its leaf and one that ends;
an eviction that begins, one that copies and one that ends. -/
theorem witness_MigrationRowsComplete (h : Obligations.MigrationRowsComplete) :
    Runs (.migrationComplete 3 [0]) (migSt (mig none none)) ∧ Runs (.migrationComplete 3 []) migOffSt ∧
    Runs (.migrationComplete 3 [0]) (migSt (mig (some 0x400000) none)) ∧
    Runs (.migrationComplete 3 []) (migSt (mig (some 0x400000) (some (5, false)))) ∧
    Runs (.migrationComplete 3 []) (migSt (mig (some 0x400000) (some (5, true)))) ∧
    Runs (.evict .lighthouse 1 true) (st (paged (live j1))) ∧ Runs .evictionComplete (evSt 2) ∧ Runs .evictionComplete (evSt 3) := by
  refine ⟨ran (((h (migSt (mig none none)) .lighthouse ?_).1 3 [0] (migRec (mig none none)) (mig none none) ?_ rfl).1 rfl),
    ran ((((h migOffSt .lighthouse ?_).1 3 [] (migRec (mig (some 0x400000) none)) (mig (some 0x400000) none) ?_ rfl).2 0x400000 rfl).1 rfl ?_),
    ran ((((h (migSt (mig (some 0x400000) none)) .lighthouse ?_).1 3 [0] (migRec (mig (some 0x400000) none)) (mig (some 0x400000) none)
      ?_ rfl).2 0x400000 rfl).2.1 _ rfl ?_ ?_ (snd_pair ?_)),
    ran ((((h (migSt (mig (some 0x400000) (some (5, false)))) .lighthouse ?_).1 3 [] (migRec (mig (some 0x400000) (some (5, false))))
      (mig (some 0x400000) (some (5, false))) ?_ rfl).2 0x400000 rfl).2.2.1 5 rfl ?_ ?_),
    ran ((((h (migSt (mig (some 0x400000) (some (5, true)))) .lighthouse ?_).1 3 [] (migRec (mig (some 0x400000) (some (5, true))))
      (mig (some 0x400000) (some (5, true))) ?_ rfl).2 0x400000 rfl).2.2.2 5 rfl ?_),
    ran ((h (st (paged (live j1))) .lighthouse ?_).2.1 1 true _ _ _ 1 0 0x210000 j1 (leaf 0 0x40) (Or.inl rfl) ?_ rfl rfl ?_
      (snd_pair ?_) ?_ ?_ ?_),
    ran (((h (evSt 2) .lighthouse ?_).2.2 (evRun 2) evRec 0x210000 (leaf 0 0x40) ?_).1 rfl ?_ ?_ ?_ ?_
      (fun _ hl => absurd hl (no_lines (by decide +kernel) (by decide +kernel)))),
    ran (((h (evSt 3) .lighthouse ?_).2.2 (evRun 3) evRec 0x210000 (leaf 0 0x40) ?_).2 rfl ?_)⟩ <;> decide +kernel

/-! Harbour -/

/-- Groups of a flit that carry zeros, whose check bits are zeros (R219). -/
def zeros (n : Nat) : List FlitGroup := (List.range n).map (fun g => ⟨Fin.ofNat 64 g, 0, 0⟩)

def ltSt (p w : Nat) (x : LtSt) : State := st { m0.fset (Reg.HB_LT_STATE_WIDTH p) w with lt := x }

/-- Port 0's inward direction after a refused flit 5, which comes again while 7 is the next to be sent. -/
def again5 : LtSt := { m0.lt with rx := [(1, some ⟨5, [], 1, 1, 7, [5, 6]⟩)] }

/-- O18: ports 0 and 4, whose groups differ in number; a flit taken, one refused, and one resent. -/
theorem witness_LimtosRowsComplete (h : Obligations.LimtosRowsComplete) :
    Runs (.limtosCapability 0 0 15 64 2) (ltSt 0 0 m0.lt) ∧ Runs (.limtosCapability 4 1 1 32 2) (ltSt 4 0 m0.lt) ∧
    Runs (.limtosFlit 4 false 0 (zeros 32)) (ltSt 4 2 m0.lt) ∧ Runs (.limtosFlit 0 true 0 []) (ltSt 0 2 m0.lt) ∧
    Runs (.limtosFlit 0 true 5 (zeros 64)) (ltSt 0 2 again5) ∧
    Runs (.spareSwitch 0 63 true) (ltSt 0 2 { m0.lt with switch := [(0, 63, 1, 34)] }) ∧
    Runs (.narrowingResume 0) (ltSt 0 2 { m0.lt with narrow := [(0, 1)] }) := by
  refine ⟨done ((h (ltSt 0 0 m0.lt) 0 ?_).1 0 15 64 2 2 0 ?_ ?_ ?_ ?_ ?_ ?_ ?_ ?_),
    done ((h (ltSt 4 0 m0.lt) 4 ?_).1 1 1 32 2 2 0 ?_ ?_ ?_ ?_ ?_ ?_ ?_ ?_),
    ran ((((h (ltSt 4 2 m0.lt) 4 ?_).2.1 0 false 0 (zeros 32) ⟨0, [], 0, 0, 0, []⟩ ?_ ?_ ?_ ?_ ?_).1 ?_ ?_ ?_).1 ?_ ?_),
    ran ((((h (ltSt 0 2 m0.lt) 0 ?_).2.1 1 true 0 [] ⟨0, [], 0, 0, 0, []⟩ ?_ ?_ ?_ ?_ ?_).1 ?_ ?_ ?_).2 ?_ ?_),
    ran (((h (ltSt 0 2 again5) 0 ?_).2.1 1 true 5 (zeros 64) ⟨5, [], 1, 1, 7, [5, 6]⟩ ?_ ?_ ?_ ?_ ?_).2 ?_ ?_ ?_ ?_),
    ran ((h (ltSt 0 2 { m0.lt with switch := [(0, 63, 1, 34)] }) 0 ?_).2.2.1 63 true 34 ?_),
    ran ((h (ltSt 0 2 { m0.lt with narrow := [(0, 1)] }) 0 ?_).2.2.2 1 ?_)⟩ <;> decide +kernel

/-- A fitted partner die with its link up, whose window 4 grants all below 1 MiB, and the buckets given. -/
def bwSt (x : BwSt) : State := st { put [(Reg.BW_ID_FITTED, 1), (Reg.BW_ID_LINK_UP, 1), (Reg.BW_WIN_BASE_EN 4, 1), (Reg.BW_WIN_BASE_R 4, 1),
  (Reg.BW_WIN_LIM_LIMIT 4, 15), (Reg.BW_WIN_LIM_VALID 4, 1), (Reg.BW_RATE_RD_RATE, 1), (Reg.BW_RATE_REQ_RATE, 1)] m0 with bw := x }

/-- A held request of the partner. -/
def bwHeld : BwReq := ⟨.read, 0, 64, .store [], none, false, 0⟩

/-- O19: the last byte that the window grants; the last vector; the last byte of the aperture; a window of the owner and an envelope of
Lighthouse before it has booted. -/
theorem witness_BreakwaterRowsComplete (h : Obligations.BreakwaterRowsComplete) :
    Runs (.partnerRequest .read 0xFFFFF 1 (.store [])) (bwSt { m0.bw with rd := 1, rq := 1 }) ∧
    Runs (.partnerRequest .read 0 64 (.store [])) (bwSt { m0.bw with rd := 1, rq := 0 }) ∧
    Runs .rateAllowanceRelease (bwSt { m0.bw with rd := 1, rq := 1, held := [bwHeld] }) ∧
    Runs (.partnerMsix 0) (st ((bwSt m0.bw).m.fset Reg.BW_CFG_MSI_VECTORS 1)) ∧
    Runs (.apertureAccess (.headland 0) 0x7FFFFF 1 true 5) (bwSt m0.bw) ∧ Runs (.apertureAccess (.headland 0) 0 8 false 0) (bwSt m0.bw) ∧
    Runs (.bwWindowWrite .lighthouse 4 true 0xF0000) (bwSt m0.bw) ∧ Runs (.bwWindowWrite .lighthouse 3 false 1) (bwSt m0.bw) ∧
    Runs (.windowRecallDone 4) (bwSt { m0.bw with leaving := [(4, some (0, 15))] }) ∧
    Runs (.retrain .lighthouse true 64) (bwSt m0.bw) ∧ Runs .partnerLinkDown (bwSt m0.bw) := by
  refine ⟨ran (((h (bwSt { m0.bw with rd := 1, rq := 1 }) .lighthouse ?_).1 0xFFFFF 1 (.store []) ?_ ?_ ?_ ?_).1 ?_ ?_),
    ran (((h (bwSt { m0.bw with rd := 1, rq := 0 }) .lighthouse ?_).1 0 64 (.store []) ?_ ?_ ?_ ?_).2 ?_),
    ran ((h (bwSt { m0.bw with rd := 1, rq := 1, held := [bwHeld] }) .lighthouse ?_).2.1 bwHeld [] ?_ ?_),
    ran ((h (st ((bwSt m0.bw).m.fset Reg.BW_CFG_MSI_VECTORS 1)) .lighthouse ?_).2.2.1 0 ?_ ?_ ?_),
    ran (((h (bwSt m0.bw) (.headland 0) ?_).2.2.2.1 0x7FFFFF 1 5 ?_ ?_).1), ran (((h (bwSt m0.bw) (.headland 0) ?_).2.2.2.1 0 8 0 ?_ ?_).2),
    ran ((h (bwSt m0.bw) .lighthouse ?_).2.2.2.2.1 4 true 0xF0000 ?_ (Or.inl ⟨?_, Or.inl rfl⟩)),
    ran ((h (bwSt m0.bw) .lighthouse ?_).2.2.2.2.1 3 false 1 ?_ (Or.inr ⟨?_, ?_⟩)),
    ran ((h (bwSt { m0.bw with leaving := [(4, some (0, 15))] }) .lighthouse ?_).2.2.2.2.2.1 4 (0, 15) ?_ ?_),
    ran ((h (bwSt m0.bw) .lighthouse ?_).2.2.2.2.2.2.1 64 (Or.inl rfl) ?_).1,
    ran ((h (bwSt m0.bw) .lighthouse ?_).2.2.2.2.2.2.2 ?_)⟩ <;> decide +kernel

def dieSt (d s : Nat) : State := st (m0.fset (Reg.HB_DIE_STATE_STATE d) s)

/-- Fenced die 0 with one line that cluster 7 owns, and with one whose recall waits. -/
def fencedLine : State := st { m0.fset (Reg.HB_DIE_STATE_STATE 0) 1 with dir := { m0.dir with ents := [(0, some (.o 7))], lru := [0] } }
def fencedTxn : HomeTxn := ⟨.inval none, [7], none, false, false, []⟩
def fencedWait : State := st { m0.fset (Reg.HB_DIE_STATE_STATE 0) 1 with dir := { m0.dir with txns := [(0, some fencedTxn)] } }

/-- Every group of a port lost outward. -/
def allLost : List (Fin 64 × Bool) := (List.range 64).map (fun g => (Fin.ofNat 64 g, false))

/-- O20: a die restored at full width after a spare, and one that no width is left to. -/
theorem witness_DieRowsComplete (h : Obligations.DieRowsComplete) :
    Runs (.clockLoss 3) (dieSt 3 0) ∧ Runs (.hbDieFence .lighthouse 3) (dieSt 3 0) ∧ Runs (.dieReset 4) (dieSt 4 0) ∧
    Runs (.dieFenceInvalidate 0) fencedLine ∧ Runs (.dieFenceInvalidate 0) fencedWait ∧ Runs (.dieFenceInvalidate 0) (dieSt 0 1) ∧
    Runs (.readmit .lighthouse 0) (dieSt 0 1) ∧ Runs (.restoringComplete 0 ⟨true, [], [(5, true, 3)]⟩) (dieSt 0 2) ∧
    Runs (.restoringComplete 0 ⟨false, [], []⟩) (dieSt 0 2) ∧ Runs (.restoringComplete 0 ⟨true, allLost, []⟩) (dieSt 0 2) := by
  refine ⟨ran ((h (dieSt 3 0) .lighthouse ?_).1 3 ?_ ?_).1, ran (((h (dieSt 3 0) .lighthouse ?_).1 3 ?_ ?_).2.2 (Or.inl rfl)),
    ran ((h (dieSt 4 0) .lighthouse ?_).2.1 ?_ ?_).2, ran (((h fencedLine .lighthouse ?_).2.2.1 0 ?_).1 ?_ ?_ 0 7 ?_ ?_ ?_ ?_),
    ran (((h fencedWait .lighthouse ?_).2.2.1 0 ?_).2.1 0 fencedTxn ?_ ?_), ran (((h (dieSt 0 1) .lighthouse ?_).2.2.1 0 ?_).2.2 ?_ ?_),
    ran ((h (dieSt 0 1) .lighthouse ?_).2.2.2.1 0 (Or.inl rfl) ?_),
    ran (((h (dieSt 0 2) .lighthouse ?_).2.2.2.2 0 [] [(5, true, 3)] _ ?_ ?_ rfl).1 2 0 ?_).1,
    ran (((h (dieSt 0 2) .lighthouse ?_).2.2.2.2 0 [] [] _ ?_ ?_ rfl).1 2 0 ?_).2,
    ran (((h (dieSt 0 2) .lighthouse ?_).2.2.2.2 0 allLost [] _ ?_ ?_ rfl).2 ?_ true)⟩ <;>
    decide +kernel

/-- A module whose hart 63 runs, whose cluster holds line 5. -/
def hartSt (x : HlSt) : State := st { put [(⟨Reg.HL_HART_RUN, 63, 1⟩, 1), (Reg.HB_DIE_STATE_STATE 4, 0)] m0 with
  hl := x, dir := { m0.dir with ents := [(5, some (.o 7))], lru := [5] } }
def ownSt (o : Nat) : State := st { m0.fset Reg.HL_DRV_OWNER_OWNER o with irq := [134, 191] }

/-- O21: sources 134 and 191, beside the bound of those that follow a port's ownership. -/
theorem witness_HeadlandRowsComplete (h : Obligations.HeadlandRowsComplete) :
    Runs (.poisonedLoad 63 false 8) (hartSt m0.hl) ∧ Runs (.vfredusum 63 1 2 3 .e16 ⟨false, false⟩ 0) (hartSt m0.hl) ∧
    Runs (.vfredusum 63 1 2 3 .e16 ⟨true, false⟩ 3) (hartSt m0.hl) ∧ Runs (.wrsWake ⟨63, some 5⟩) (hartSt m0.hl) ∧
    Runs (.wrsWake ⟨63, none⟩) (hartSt { m0.hl with resv := [(63, some 5)], broken := [(63, true)], waiting := [(63, true)] }) ∧
    Runs (.hartStart (.headland 0) 1) (hartSt m0.hl) ∧
    Runs (.claim [.host 1, .headland 0]) (ownSt 0) ∧ Runs (.claim [.host 1, .host 0]) (ownSt 0) ∧ Runs (.claim [.host 1]) (ownSt 0) ∧
    Runs (.release (.host 0)) (ownSt 2) ∧ Runs (.interruptDelivery 191) (ownSt 3) ∧ Runs (.interruptDelivery 134) (ownSt 3) ∧
    Runs (.interruptDelivery 134) (ownSt 1) := by
  refine ⟨done ((h (hartSt m0.hl) (.headland 0) 63 ?_).1 false 8 ?_),
    ran (((h (hartSt m0.hl) (.headland 0) 63 ?_).2.1 1 2 3 .e16 false false 0 .fp16 .fp16 _ ?_ ?_ ?_ ?_ ?_ rfl).1 rfl),
    ran (((h (hartSt m0.hl) (.headland 0) 63 ?_).2.1 1 2 3 .e16 true false 3 .fp32 .fp16 _ ?_ ?_ ?_ ?_ ?_ rfl).2 ?_),
    done ((h (hartSt m0.hl) (.headland 0) 63 ?_).2.2.1 5 ?_ ?_),
    done ((h (hartSt { m0.hl with resv := [(63, some 5)], broken := [(63, true)], waiting := [(63, true)] }) (.headland 0) 63 ?_).2.2.2.1
      ?_ ?_),
    ran ((h (hartSt m0.hl) (.headland 0) 63 ?_).2.2.2.2.1 1 ?_ ?_),
    ran (((h (ownSt 0) (.headland 0) 0 ?_).2.2.2.2.2.1 [.host 1, .headland 0] ?_).1 ⟨0, ?_⟩),
    ran (((h (ownSt 0) (.headland 0) 0 ?_).2.2.2.2.2.1 [.host 1, .host 0] ?_).2.1 (by simp) ?_),
    ran (((h (ownSt 0) (.headland 0) 0 ?_).2.2.2.2.2.1 [.host 1] ?_).2.2 (by simp) ?_ ?_),
    ran ((h (ownSt 2) (.host 0) 0 ?_).2.2.2.2.2.2.1 ?_ ?_ ?_), ran (((h (ownSt 3) (.headland 0) 0 ?_).2.2.2.2.2.2.2 191 ?_ (Or.inl ?_)).1 (Or.inr ?_)),
    ran (((h (ownSt 3) (.headland 0) 0 ?_).2.2.2.2.2.2.2 134 ?_ (Or.inl ?_)).2 ?_ ?_),
    ran (((h (ownSt 1) (.headland 0) 0 ?_).2.2.2.2.2.2.2 134 ?_ (Or.inl ?_)).1 (Or.inl ?_))⟩ <;> decide +kernel

/-! The landward link, Intake, eye safety -/

/-- A port in a link state, released from Detect. -/
def lwSt (p s : Nat) (x : LwSt) : State := st { m0.fset (Reg.LW_LINK_LINK p) s with lw := x }

/-- O22: a width and rate that the port has, and ones it has not. -/
theorem witness_LandwardLinkRowsComplete (h : Obligations.LandwardLinkRowsComplete) :
    Runs (.recoveryEntry 1) (lwSt 1 2 m0.lw) ∧ Runs (.recoveryExit 1 16 4) (lwSt 1 3 m0.lw) ∧ Runs (.recoveryLimitExpiry 1) (lwSt 1 3 m0.lw) ∧
    Runs (.linkDown 1) (lwSt 1 3 m0.lw) ∧ Runs (.functionLevelReset 1) (lwSt 1 2 m0.lw) ∧ Runs (.perstAssert 1) (lwSt 1 0 m0.lw) ∧
    Runs (.landwardLinkL0 1 8 1) (lwSt 1 0 { m0.lw with released := true }) ∧ lwLegal 8 1 = true ∧ lwLegal 5 1 = false := by
  refine ⟨ran ((h (lwSt 1 2 m0.lw) 1 ?_).1 ?_), ran (((h (lwSt 1 3 m0.lw) 1 ?_).2.1 ?_).1 16 4), ran ((h (lwSt 1 3 m0.lw) 1 ?_).2.1 ?_).2,
    ran ((h (lwSt 1 3 m0.lw) 1 ?_).2.2.1 ?_).1, ran ((h (lwSt 1 2 m0.lw) 1 ?_).2.2.1 ?_).2.2, ran (h (lwSt 1 0 m0.lw) 1 ?_).2.2.2.1,
    ran ((h (lwSt 1 0 { m0.lw with released := true }) 1 ?_).2.2.2.2.1 8 1 ?_ ?_), ?_, ?_⟩ <;> decide +kernel

/-- Port 0 up and armed in epoch 7. -/
def armedSt (x : LwSt) : State := st { put [(Reg.LW_LINK_LINK 0, 2), (Reg.LW_EPOCH_ARMED 0, 1), (Reg.LW_EPOCH_EPOCH 0, 7)] m0 with lw := x }
def lwW (v : Option Nat) : LwWrite := ⟨0, 7, 0x8000000000000, .store [1], none, v⟩

/-- O23. -/
theorem witness_LandwardAccessRowsComplete (h : Obligations.LandwardAccessRowsComplete) :
    Runs (.epochArm (.host 0) 0 1) (lwSt 0 2 m0.lw) ∧ Runs (.fenceRead (.headland 0)) (armedSt m0.lw) ∧
    Runs .fenceReadDone (armedSt { m0.lw with fence := [⟨[], [0], []⟩] }) ∧
    Runs (.routeChange .lighthouse 2) (armedSt { m0.lw with writes := [lwW none] }) ∧ Runs (.routeChange .lighthouse 1) (armedSt m0.lw) ∧
    Runs .routeChangeDone (armedSt { m0.lw with hold := true, writes := [lwW (some 3)] }) ∧ Runs (.cxlMemRequest 0 0 none) (armedSt m0.lw) ∧
    Runs (.configRequest 0) (lwSt 0 2 { m0.lw with released := true }) ∧ Runs (.configRequest 0) (lwSt 0 2 m0.lw) ∧
    Runs (.landwardWriteAck 0) (armedSt { m0.lw with writes := [lwW (some 3)] }) ∧
    Runs (.landwardWriteAck 0) (armedSt { m0.lw with writes := [lwW none] }) ∧ Runs (.msixUnmask 0 (some 191)) State.reset := by
  refine ⟨ran ((h (lwSt 0 2 m0.lw) .lighthouse 0 ?_).1 1 ?_), done ((h (armedSt m0.lw) (.headland 0) 0 ?_).2.1 ?_),
    done ((h (armedSt { m0.lw with fence := [⟨[], [0], []⟩] }) (.headland 0) 0 ?_).2.2.1 ⟨[], [0], []⟩ [] ?_ ?_ ?_),
    ran (((h (armedSt { m0.lw with writes := [lwW none] }) .lighthouse 0 ?_).2.2.2.1 2 (Or.inl rfl) ?_).1 (Or.inr ?_)),
    ran (((h (armedSt m0.lw) .lighthouse 0 ?_).2.2.2.1 1 (Or.inl rfl) ?_).2 ?_ ?_),
    ran ((h (armedSt { m0.lw with hold := true, writes := [lwW (some 3)] }) .lighthouse 0 ?_).2.2.2.2.1 ?_ ?_ ?_),
    ran ((h (armedSt m0.lw) .lighthouse 0 ?_).2.2.2.2.2.1 0 ?_ ?_).1,
    ran ((h (lwSt 0 2 { m0.lw with released := true }) .lighthouse 0 ?_).2.2.2.2.2.2.1 ?_),
    ran ((h (lwSt 0 2 m0.lw) .lighthouse 0 ?_).2.2.2.2.2.2.2.1 ?_),
    ran (((h (armedSt { m0.lw with writes := [lwW (some 3)] }) .lighthouse 0 ?_).2.2.2.2.2.2.2.2.1 (lwW (some 3)) ?_ ?_ ?_ ?_).1 3 ?_),
    ran (((h (armedSt { m0.lw with writes := [lwW none] }) .lighthouse 0 ?_).2.2.2.2.2.2.2.2.1 (lwW none) ?_ ?_ ?_ ?_).2 ?_),
    ran ((h State.reset .lighthouse 0 ?_).2.2.2.2.2.2.2.2.2 191 ?_)⟩ <;> decide +kernel

/-- An Intake body (R286) of one entry and one slot, or one row of 4 tokens, of a class; its transform of one 1 × 1 frame (R293). -/
def ikBody (kind cls : Nat) : List Word := body 16 [(0, fld [(0, kind), (2, cls)]), (1, 0x1000), (2, fld [(0, 1), (24, 1)]), (3, 0x2000),
  (5, 0x10000), (6, 0x11000), (7, if kind = 0 then 0x5000 else 0), (8, 0x3000), (9, 0x20000), (10, 0x10000), (11, 0x4000),
  (12, if kind = 0 then 1 else fld [(0, 1), (24, 4)])]
def xform : List Word := body 16 [(0, fld [(0, 1), (16, 1), (40, 1), (52, 1)])]
def ikCmd (kind cls : Nat) (ph : Phase) : Cmd := cmd 1 192 6 ph (ikBody kind cls)
def ikQueued (kind : Nat) : State := st ((mem 0x403000 (body 8 []) (mem 0x405000 xform (paged (live j1)))).setCmds [ikCmd kind 1 .queued])

/-- A DEFLATE stream of one stored block of 4 bytes (RFC 1951, 3.2.4). -/
def stored4 : List Byte := [1, 4, 0, 0xFB, 0xFF, 9, 8, 7, 6]

/-- A record with one sample of a DEFLATE entry of that stream, and the running command it belongs to; and one of a video entry of one
picture. -/
def sampleOf (entry : List Word) (ph : IkPhase) (u : Option Nat) (pics : Nat) : IkSample :=
  ⟨false, 0, ph, u, 0, 0, entry, [], 0, 0, pics, false, [], 0, 0⟩
def sample (ph : IkPhase) (u : Option Nat) : IkSample := sampleOf [fld [(57, 1)], 9, 0, fld [(0, 4), (60, 1)]] ph u 0
def ikRec (x : List IkSample) : IkCmd := ⟨0, x, [], [], [], 0, 0, 0, 0, 0, 0, 0, [], [], 0, 0⟩
def ikSt (cls : Nat) (x : IkSample) : State := st { put [(Reg.IK_AVG_COUNT 1 2, 40000)]
  ((mem 0x400000 (leWords 2 (stored4 ++ List.replicate 7 0)) (paged (live j1))).setCmds [ikCmd 1 cls .running]) with
    ik := { m0.ik with run := [ikRec [x]] } }
def onU : IkSample := sample .decoding (some 48)
def onV (pics : Nat) : IkSample := sampleOf [fld [(57, 2)], fld [(0, 9), (32, 1)], 0, fld [(60, 1)]] .decoding (some 0) pics

/-- O24. -/
theorem witness_IntakeRowsComplete (h : Obligations.IntakeRowsComplete) :
    Runs .pixel (ikQueued 0) ∧ Runs .tokens (ikQueued 1) ∧ Runs (.unitAssign (.deflate 0)) (ikSt 1 (sample .waiting none)) ∧
    Runs (.pictureBoundary (.deflate 0) false true) (ikSt 1 onU) ∧ Runs (.pictureBoundary (.video 0) false true) (ikSt 1 (onV 1)) ∧
    Runs (.pictureBoundary (.video 0) true true) (ikSt 1 (onV 0)) ∧ Runs (.sampleDecodeEnd (.deflate 0) 3 .complete) (ikSt 0 onU) ∧
    Runs (.lateEviction (.deflate 0) 0) (ikSt 1 onU) ∧ Runs (.intakeBatchComplete 1 0) (ikSt 1 onU) := by
  refine ⟨ran (((h (ikQueued 0) ?_).1 (ikCmd 0 1 .queued) _ _).1 ⟨?_, ?_, ?_, ?_, ?_, ?_, j1, _, _, _, _, ?_, ok_pair [] ?_, ?_, snd_pair ?_, ?_,
      snd_pair ?_, ?_, ?_, ok_pair (ikRec []) ?_⟩),
    ran (((h (ikQueued 1) ?_).1 (ikCmd 1 1 .queued) _ _).2 ⟨?_, ?_, ?_, ?_, ?_, ?_, j1, _, _, _, _, ?_, rfl, ?_, snd_pair ?_, ?_,
      snd_pair ?_, ?_, ?_, ok_pair (ikRec []) ?_⟩),
    ran ((h (ikSt 1 (sample .waiting none)) ?_).2.1 (.deflate 0) (ikRec [sample .waiting none]) (ikCmd 1 1 .running)
      (sample .waiting none) ⟨1, [(1, some (1, 1))]⟩ j1 _ stored4 ?_ ?_ ?_ ?_ ?_ ?_ (snd_pair ?_) ?_ ?_),
    ran (((h (ikSt 1 onU) ?_).2.2.1 (.deflate 0) (ikRec [onU]) (ikCmd 1 1 .running) onU ?_ ?_).1 ?_ ?_ ?_ ?_ ?_ true),
    ran (((h (ikSt 1 (onV 1)) ?_).2.2.1 (.video 0) (ikRec [onV 1]) (ikCmd 1 1 .running) (onV 1) ?_ ?_).2.1 ?_ ?_ false true),
    ran (((h (ikSt 1 (onV 0)) ?_).2.2.1 (.video 0) (ikRec [onV 0]) (ikCmd 1 1 .running) (onV 0) ?_ ?_).2.2.1 ?_ ?_ ?_ true),
    ran (((h (ikSt 0 onU) ?_).2.2.1 (.deflate 0) (ikRec [onU]) (ikCmd 1 0 .running) onU ?_ ?_).2.2.2.1 3 j1 _ stored4 [9, 8, 7, 6] ?_ ?_
      (snd_pair ?_) ?_ ?_),
    ran (((h (ikSt 1 onU) ?_).2.2.1 (.deflate 0) (ikRec [onU]) (ikCmd 1 1 .running) onU ?_ ?_).2.2.2.2 0 0 ?_ ?_),
    ran ((h (ikSt 1 onU) ?_).2.2.2 1 0 (ikRec [onU]) ?_)⟩ <;> decide +kernel

/-- A lane of a plugged connector, out by loss of light. -/
def laneSt (s c : Nat) (x : SwSt) : State :=
  st { put [(connBit 7, 1), (Reg.SW_LANE_STATE 63, s), (Reg.SW_LANE_CAUSE 63, c), (Reg.SW_LANE_STATE 0, s)] m0 with sw := x }

/-- O25. -/
theorem witness_EyeSafetyRowsComplete (h : Obligations.EyeSafetyRowsComplete) :
    Runs (.connectorUnplug 7) (laneSt 2 0 m0.sw) ∧ Runs (.lossOfLight 63) (laneSt 2 0 m0.sw) ∧ Runs (.probePulse 63 true) (laneSt 3 2 m0.sw) ∧
    Runs (.laneRelight 63) (laneSt 3 3 { m0.sw with probed := [(63, true)] }) := by
  refine ⟨ran ((h (laneSt 2 0 m0.sw) ?_).1 7).1, ran ((h (laneSt 2 0 m0.sw) ?_).2 63 ?_).1,
    ran (((h (laneSt 3 2 m0.sw) ?_).2 63 ?_).2 ?_).1,
    ran ((((h (laneSt 3 3 { m0.sw with probed := [(63, true)] }) ?_).2 63 ?_).2 ?_).2.2 ?_)⟩ <;> decide +kernel

/-! The seaward fabric, the Tide count, Ethernet -/

/-- Port `p` with its first lane active, and its register fields. -/
def portSt (p : Nat) (fs : List (Fld × Nat)) (x : SwSt) : State :=
  st { put ([(Reg.SW_LANE_STATE (8 * p), 2), (Reg.SW_PORT_VERSION p, 1), (Reg.SW_PORT_LANES p, 1)] ++ fs) m0 with sw := x }
def fabMsg : FabMsg := ⟨1, 63, 0, [1]⟩

/-- O26: a message of 63 hops; a lane of either state that RESTORE finds. -/
theorem witness_LaneRowsComplete (h : Obligations.LaneRowsComplete) :
    Runs (.fabricCapability 7 0 15 5 0 ⟨1, 5⟩) (portSt 7 [(Reg.SW_CFG_REACH_ID, 0)] m0.sw) ∧
    Runs (.fabricFlit 7 0 56 true ⟨none, none⟩) (portSt 7 [] m0.sw) ∧ Runs (.fabricFlit 7 4095 56 true ⟨some fabMsg, some (0, true)⟩) (portSt 7 [] { m0.sw with next := [(7, 4095)] }) ∧
    Runs (.fabricFlit 7 9 56 false ⟨none, none⟩) (portSt 7 [] m0.sw) ∧ Runs (.restripe 7) (portSt 7 [] { m0.sw with stripe := [7] }) ∧
    Runs (.portDownNotice 1 2) State.reset ∧ Runs (.laneRetire .lighthouse 63) (laneSt 2 0 m0.sw) ∧ Runs (.laneRestore .lighthouse 63) (laneSt 3 5 m0.sw) ∧
    Runs (.laneRestore .lighthouse 63) (laneSt 2 0 m0.sw) ∧ Runs (.laneRetrained 63 true) (laneSt 1 0 m0.sw) ∧
    Runs (.laneRetrained 63 false) (laneSt 1 0 m0.sw) ∧ Runs (.laserBayFault 3) State.reset := by
  refine ⟨ran ((h (portSt 7 [(Reg.SW_CFG_REACH_ID, 0)] m0.sw) .lighthouse ?_).1 7 0 15 5 0 ⟨1, 5⟩ ?_ ?_ ?_ ?_ ?_),
    ran (((h (portSt 7 [] m0.sw) .lighthouse ?_).2.1 7 0 56 true none none ?_ ?_ ?_).1 ?_ ?_ ?_),
    ran (((h (portSt 7 [] { m0.sw with next := [(7, 4095)] }) .lighthouse ?_).2.1 7 4095 56 true (some fabMsg) (some (0, true)) ?_ ?_ ?_).2.1 fabMsg ?_ ?_ ?_),
    ran (((h (portSt 7 [] m0.sw) .lighthouse ?_).2.1 7 9 56 false none none ?_ ?_ ?_).2.2 ?_),
    ran ((h (portSt 7 [] { m0.sw with stripe := [7] }) .lighthouse ?_).2.2.1 7 ?_ ?_), ran ((h State.reset .lighthouse ?_).2.2.2.1 1 2),
    ran (((h (laneSt 2 0 m0.sw) .lighthouse ?_).2.2.2.2.1 63).1 (Or.inl rfl) ?_).1,
    ran ((((h (laneSt 3 5 m0.sw) .lighthouse ?_).2.2.2.2.1 63).1 (Or.inl rfl) ?_).2.1 ?_),
    ran ((((h (laneSt 2 0 m0.sw) .lighthouse ?_).2.2.2.2.1 63).1 (Or.inl rfl) ?_).2.2 ?_),
    ran ((((h (laneSt 1 0 m0.sw) .lighthouse ?_).2.2.2.2.1 63).2 ?_ ?_).1 _ rfl), ran (((h (laneSt 1 0 m0.sw) .lighthouse ?_).2.2.2.2.1 63).2 ?_ ?_).2,
    ran ((h State.reset .lighthouse ?_).2.2.2.2.2 3)⟩ <;> decide +kernel

/-- Job 1 with connection 5 to context 6 of rank 1, whose region is one unit, and a membership of rank 0 alone at address 0. -/
def ctx5 : SwCtx := ⟨1, 1, 6, 0, 0, 1, 0, 0, [], false, false⟩
def ctxSt (x : SwCtx) : State := st { live j1 with sw := { m0.sw with ctxs := [(5, some x)] } }
def send0 : SwSend := ⟨0, 0, [1], none, [], none, 0, 0⟩
def selfTab : List Word := [0, fld [(60, 1)]]
def ctxEntry : List Word := [fld [(0, 1), (6, 1)], fld [(16, 0x10)], 1, 0, 0, 0, 0, fld [(60, 1)]]
def rw (n : Nat) : RwMsg := ⟨1, 6, 0, 65535, List.replicate n 1, none⟩

/-- O27: a message that ends with the region, and one a byte longer. -/
theorem witness_ConnectionRowsComplete (h : Obligations.ConnectionRowsComplete) :
    Runs (.membershipLoad .lighthouse 0 1) (st (mem 0 selfTab (m0.fset Reg.SW_RANK_BASE_BASE 0))) ∧
    Runs (.openCtx .lighthouse) (st (mem 0x1000 ctxEntry (put [(Reg.SW_CTX_ARG_ENTRY, 0x1000), (Reg.SW_SELF_SIZE, 2)] (live j1)))) ∧
    Runs (.closeCtx .lighthouse 5) (ctxSt ctx5) ∧ Runs (.closeComplete 5) (ctxSt { ctx5 with closing := true }) ∧
    Runs (.remoteWrite 5 (rw 1)) (ctxSt ctx5) ∧ Runs (.remoteWrite 5 (rw 2)) (ctxSt ctx5) ∧ Runs (.remoteWriteAck 5 0 none) (ctxSt ctx5) ∧
    Runs (.resendTimeout 5) (ctxSt { ctx5 with sends := [send0] }) ∧ Runs (.connectionFailure 5) (ctxSt { ctx5 with sends := [send0] }) := by
  refine ⟨ran (((h (st (mem 0 selfTab (m0.fset Reg.SW_RANK_BASE_BASE 0))) .lighthouse ?_).1 (Or.inl rfl)).1 0 1 _ _ selfTab rfl (snd_pair ?_)),
    ran ((((h (st (mem 0x1000 ctxEntry (put [(Reg.SW_CTX_ARG_ENTRY, 0x1000), (Reg.SW_SELF_SIZE, 2)] (live j1)))) .lighthouse ?_).1
      (Or.inl rfl)).2 ?_).1 _ 0 ⟨1, 1, 0, 0, 0x100000, 1, 0, 0, [], false, false⟩ _ (ctxEntry, false)
      rfl ?_ ?_ (snd_pair ?_) ?_),
    ran ((((h (ctxSt ctx5) .lighthouse ?_).1 (Or.inl rfl)).2 ?_).2 5 ctx5 ?_ ?_),
    ran (((h (ctxSt { ctx5 with closing := true }) .lighthouse ?_).2 5 { ctx5 with closing := true } ?_).1 ?_ ?_),
    ran ((((h (ctxSt ctx5) .lighthouse ?_).2 5 ctx5 ?_).2.1 (rw 1) ?_ ?_ ?_ ?_).1 ?_),
    ran ((((h (ctxSt ctx5) .lighthouse ?_).2 5 ctx5 ?_).2.1 (rw 2) ?_ ?_ ?_ ?_).2 ?_),
    ran ((((h (ctxSt ctx5) .lighthouse ?_).2 5 ctx5 ?_).2.2 ?_).1 0),
    ran (((h (ctxSt { ctx5 with sends := [send0] }) .lighthouse ?_).2 5 { ctx5 with sends := [send0] } ?_).2.2 ?_).2.1,
    ran ((((h (ctxSt { ctx5 with sends := [send0] }) .lighthouse ?_).2 5 { ctx5 with sends := [send0] } ?_).2.2 ?_).2.2 ?_)⟩ <;>
    decide +kernel

/-- A module in a state of TD_STATE, with a role and an upstream port, whose port 0 is up. -/
def tdSt (s role up : Nat) (x : TdSt) : State :=
  st { (portSt 0 [(Reg.TD_STATE_STATE, s), (Reg.TD_CFG_ROLE, role), (Reg.TD_STATE_UPSTREAM, up), (Reg.TD_SLOT_SLOT, 1)] m0.sw).m with td := x }
def heard0 : TdHeard := ⟨1, 9, 1, 0, 1, 0, 0⟩

/-- O28. -/
theorem witness_TideMasterRowsComplete (h : Obligations.TideMasterRowsComplete) :
    Runs (.timeMessage 0 5 1) (tdSt 1 0 0 m0.td) ∧ Runs (.timeMessage 0 5 1) (tdSt 1 0 3 m0.td) ∧ Runs (.snap (.headland 0)) State.reset ∧
    Runs (.keyFlood (some ⟨1, 9⟩)) State.reset ∧ Runs (.keyFlood none) (tdSt 0 1 0 m0.td) ∧ Runs .electWaitExpiry (tdSt 0 1 0 m0.td) ∧
    Runs .announcement (tdSt 2 1 0 m0.td) ∧ Runs (.announcementReceive 0 ⟨⟨1, 9⟩, 1, 1, 1, 0, 0, 0⟩) (tdSt 0 0 0 m0.td) ∧
    Runs .lossTimeout (tdSt 1 2 0 { m0.td with keys := [] }) ∧ Runs .lossTimeout (tdSt 1 0 0 m0.td) ∧ Runs .holdoverLimitExpiry (tdSt 3 0 0 m0.td) ∧
    Runs (.rejoin (.headland 0)) (st { (tdSt 2 1 0 m0.td).m with sw := { m0.sw with ctxs := [(5, some ctx5)] } }) ∧
    Runs (.rejoin (.headland 0)) (st ((tdSt 2 1 0 { m0.td with heard := [(0, some heard0)] }).m.fset (Reg.SW_PORT_FOREIGN 0) 1)) := by
  refine ⟨ran (((h (tdSt 1 0 0 m0.td) (.headland 0) ?_).1 0 5 1 _ ?_ rfl).1 ?_ ?_ ?_), ran (((h (tdSt 1 0 3 m0.td) (.headland 0) ?_).1 0 5 1 _ ?_ rfl).2 ?_),
    ran ((h State.reset (.headland 0) ?_).2.1 ?_), ran ((h State.reset (.headland 0) ?_).2.2.1 ⟨1, 9⟩),
    ran ((h (tdSt 0 1 0 m0.td) (.headland 0) ?_).2.2.2.1 (2 ^ 48 + m0.ident) ?_), ran ((h (tdSt 0 1 0 m0.td) (.headland 0) ?_).2.2.2.2.1 ?_ ?_ ?_),
    ran ((h (tdSt 2 1 0 m0.td) (.headland 0) ?_).2.2.2.2.2.1 ?_),
    ran ((h (tdSt 0 0 0 m0.td) (.headland 0) ?_).2.2.2.2.2.2.1 0 ⟨⟨1, 9⟩, 1, 1, 1, 0, 0, 0⟩ _ ?_ ?_ rfl),
    ran (((h (tdSt 1 2 0 { m0.td with keys := [] }) (.headland 0) ?_).2.2.2.2.2.2.2.1 ?_).1 ?_),
    ran (((h (tdSt 1 0 0 m0.td) (.headland 0) ?_).2.2.2.2.2.2.2.1 ?_).2 ?_), ran ((h (tdSt 3 0 0 m0.td) (.headland 0) ?_).2.2.2.2.2.2.2.2.1 ?_),
    ran (((h (st { (tdSt 2 1 0 m0.td).m with sw := { m0.sw with ctxs := [(5, some ctx5)] } }) (.headland 0) ?_).2.2.2.2.2.2.2.2.2 ?_).1 ?_),
    ran (((h (st ((tdSt 2 1 0 { m0.td with heard := [(0, some heard0)] }).m.fset (Reg.SW_PORT_FOREIGN 0) 1)) (.headland 0) ?_).2.2.2.2.2.2.2.2.2
      ?_).2 0 heard0 ?_ ?_ ?_ ?_)⟩ <;> decide +kernel

/-- O29. -/
theorem witness_TideSlotRowsComplete (h : Obligations.TideSlotRowsComplete) :
    Runs (.scheduleLoad (.headland 0) 1) (st (mem 0 [fld [(60, 1)]] m0)) ∧
    Runs .scheduleActivate (tdSt 2 1 0 { m0.td with next := some ⟨[fld [(60, 1)]], 0⟩ }) ∧ Runs .tideSlotStart (tdSt 2 1 0 m0.td) ∧
    Runs .tideSlotStart (tdSt 0 1 0 m0.td) := by
  refine ⟨ran ((h (st (mem 0 [fld [(60, 1)]] m0)) (.headland 0) ?_).1 1 [fld [(60, 1)]] _ ?_ ?_ ?_ ?_ (snd_pair ?_) ?_),
    ran (((h (tdSt 2 1 0 { m0.td with next := some ⟨[fld [(60, 1)]], 0⟩ }) (.headland 0) ?_).2.1 0 ?_).1 ⟨[fld [(60, 1)]], 0⟩ ?_ ?_),
    ran ((h (tdSt 2 1 0 m0.td) (.headland 0) ?_).2.1 0 ?_).2, ran ((h (tdSt 0 1 0 m0.td) (.headland 0) ?_).2.2 ?_)⟩ <;> decide +kernel

/-- Ethernet port `e` runs, with rings of 64 descriptors at address 0. -/
def ethSt (e : Nat) (fs : List (Fld × Nat)) : State := st (put ([(Reg.SW_CFG_PORT7_ETH, 1), (Reg.SW_ETH_CFG_EN e, 1),
  (Reg.SW_ETH_CNT_LINK_UP e, 1), (Reg.SW_ETH_TXQ_LOG2 e, 6), (Reg.SW_ETH_RXQ_LOG2 e, 16)] ++ fs) m0)
def frame (n : Nat) : EthFrame := ⟨0xFFFFFFFFFFFF, true, List.replicate n 0, 0⟩

/-- O30: the least frame and the greatest; the least ring and the greatest. -/
theorem witness_EthernetRowsComplete (h : Obligations.EthernetRowsComplete) :
    Runs (.ethTxDoorbell (.headland 0) 1 5) State.reset ∧ Runs (.frameTransmitted 1) (ethSt 1 [(Reg.SW_ETH_TX_TAIL 1, 1)]) ∧
    Runs (.frameReceived 0 (frame 60)) (ethSt 0 [(Reg.SW_ETH_RX_TAIL 0, 1)]) ∧
    Runs (.frameReceived 0 (frame 9212)) (ethSt 0 [(Reg.SW_ETH_RX_TAIL 0, 1)]) ∧
    Runs (.ptpMessage 1 7 true) (ethSt 1 [(Reg.SW_CFG_PTP_EN, 1), (Reg.SW_CFG_PTP_PORT, 1), (Reg.TD_STATE_STATE, 2)]) ∧
    Runs (.ethernetLinkChange 1 true) (ethSt 1 []) := by
  refine ⟨ran ((h State.reset (.headland 0) 1 ?_).1 5 ?_), ran (((h (ethSt 1 [(Reg.SW_ETH_TX_TAIL 1, 1)]) (.headland 0) 1 ?_).2.1 0 1 ?_).1 ?_ ?_),
    ran (((h (ethSt 0 [(Reg.SW_ETH_RX_TAIL 0, 1)]) (.headland 0) 0 ?_).2.1 0 1 ?_).2 (frame 60) ?_ ?_ ?_ ?_ ?_ ?_ ?_ ?_),
    ran (((h (ethSt 0 [(Reg.SW_ETH_RX_TAIL 0, 1)]) (.headland 0) 0 ?_).2.1 0 1 ?_).2 (frame 9212) ?_ ?_ ?_ ?_ ?_ ?_ ?_ ?_),
    ran ((h (ethSt 1 [(Reg.SW_CFG_PTP_EN, 1), (Reg.SW_CFG_PTP_PORT, 1), (Reg.TD_STATE_STATE, 2)]) (.headland 0) 1 ?_).2.2.1 7 ?_ ?_ ?_ ?_),
    ran ((h (ethSt 1 []) (.headland 0) 1 ?_).2.2.2.1 ?_ ?_)⟩ <;> decide +kernel

/-! Collectives -/

theorem ok_eq {ε α : Type} (d : α) {p : Except ε α} (h : p.toBool = true) : p = .ok (okv d p) := by
  match p, h with
  | .ok _, _ => rfl

/-- A collective body (R345): four FP32 elements at VA 0, a result at VA 0x1000, a group at VA 0x8000; PUT and COMMIT name neither. -/
def clBody (op alg : Nat) : List Word := body 24 [
  (0, fld [(0, op), (4, alg), (12, if op ≤ 5 then 0x77 else 0), (25, if op = 1 ∨ op = 2 then 1 else 0)]), (1, 4),
  (2, if op ≤ 5 then 0x8000 else 0), (7, if op ≤ 5 then 0x1000 else 0),
  (8, if op = 7 then 0x1000 else 0), (9, if op = 7 then 0x2000 else 0), (11, if op = 6 then fld [(12, 5)] else 0)]
def clCmd (op alg : Nat) : Cmd := { cmd 1 192 5 .queued (clBody op alg) with
  hdr := [fld [(0, 5), (10, 3), (14, 1), (20, if op = 7 then 1 else 0)], 0, 0, 0, 0, 0, 0, fld [(60, 1)]] }

/-- A group of two ranks whose position 0 this module is, and its context to the other. -/
def grp : List Word := [2, 1, 0, 0, 0, 0, 0, fld [(60, 1)], fld [(12, 0x3FFF), (60, 1)], fld [(0, 1), (12, 5), (60, 1)]]
def clSt (op alg : Nat) : State := st { (mem 0x408000 grp (paged ((live j1).fset (Reg.HB_FIN_STATE_FINAL 1) 1))).setCmds [clCmd op alg] with
  sw := { m0.sw with ctxs := [(5, some { ctx5 with units := 32 })] } }

def clRun (stage : Nat) : ClRun := ⟨0, 1, 0x8000, 0, 2, 0, 1, [1], [0x3FFF, 5], [], [], [], [], 0, stage, [], none⟩
def clRunSt (stage : Nat) : State := st { (live j1).setCmds [{ clCmd 1 1 with phase := .running }] with cl := { m0.cl with runs := [clRun stage] } }

/-- That module once a collective of the context has ended, so that a header of its number is refused. -/
def clPast : State := st { (clSt 1 1).m with cl := { m0.cl with past := [(5, 1)] } }

/-- O31. -/
theorem witness_CollectiveRowsComplete (h : Obligations.CollectiveRowsComplete) :
    Runs .allreduce (clSt 1 1) ∧ Runs .reducescatter (clSt 2 3) ∧ Runs .allgather (clSt 3 1) ∧ Runs .alltoall (clSt 4 3) ∧
    Runs .broadcast (clSt 5 1) ∧ Runs .put (clSt 6 0) ∧ Runs .commit (clSt 7 0) ∧
    Runs (.collectiveMessage 5 0 0x1000000000000000 []) (clSt 1 1) ∧ Runs (.collectiveMessage 5 0 0x1000000000000000 []) clPast ∧ Runs (.flagRoundStart 1) (clRunSt 1) ∧ Runs (.flagRoundMessage 1 1 true false) (clRunSt 2) ∧
    Runs (.flagRoundMessage 1 1 false true) (clRunSt 2) := by
  refine ⟨ran (((h (clSt 1 1) ?_).1 (clCmd 1 1) j1 _ _ _ _ _ _
      ⟨_, _, _, _, _, _, ok_pair [] ?_, ok_eq ⟨0, 0, 0, [], [], []⟩ ?_, ok_pair [] ?_, ok_eq ⟨0, 0, 0, [], [], []⟩ ?_, ?_, ?_, ok_pair [] ?_,
        ok_pair [] ?_⟩).1
      ⟨?_, ?_, ?_, ?_, ?_, ?_, ?_, _, _, ok_pair [] ?_, ?_, ?_, snd_pair ?_, snd_pair ?_, ?_, ?_, ?_⟩),
    ran (((h (clSt 2 3) ?_).1 (clCmd 2 3) j1 _ _ _ _ _ _
      ⟨_, _, _, _, _, _, ok_pair [] ?_, ok_eq ⟨0, 0, 0, [], [], []⟩ ?_, ok_pair [] ?_, ok_eq ⟨0, 0, 0, [], [], []⟩ ?_, ?_, ?_, ok_pair [] ?_,
        ok_pair [] ?_⟩).2.1
      ⟨?_, ?_, ?_, ?_, ?_, ?_, ?_, _, _, ok_pair [] ?_, ?_, ?_, snd_pair ?_, snd_pair ?_, ?_, ?_, ?_⟩),
    ran (((h (clSt 3 1) ?_).1 (clCmd 3 1) j1 _ _ _ _ _ _
      ⟨_, _, _, _, _, _, ok_pair [] ?_, ok_eq ⟨0, 0, 0, [], [], []⟩ ?_, ok_pair [] ?_, ok_eq ⟨0, 0, 0, [], [], []⟩ ?_, ?_, ?_, ok_pair [] ?_,
        ok_pair [] ?_⟩).2.2.1
      ⟨?_, ?_, ?_, ?_, ?_, ?_, ?_, _, _, ok_pair [] ?_, ?_, ?_, snd_pair ?_, snd_pair ?_, ?_, ?_, ?_⟩),
    ran (((h (clSt 4 3) ?_).1 (clCmd 4 3) j1 _ _ _ _ _ _
      ⟨_, _, _, _, _, _, ok_pair [] ?_, ok_eq ⟨0, 0, 0, [], [], []⟩ ?_, ok_pair [] ?_, ok_eq ⟨0, 0, 0, [], [], []⟩ ?_, ?_, ?_, ok_pair [] ?_,
        ok_pair [] ?_⟩).2.2.2.1
      ⟨?_, ?_, ?_, ?_, ?_, ?_, ?_, _, _, ok_pair [] ?_, ?_, ?_, snd_pair ?_, snd_pair ?_, ?_, ?_, ?_⟩),
    ran (((h (clSt 5 1) ?_).1 (clCmd 5 1) j1 _ _ _ _ _ _
      ⟨_, _, _, _, _, _, ok_pair [] ?_, ok_eq ⟨0, 0, 0, [], [], []⟩ ?_, ok_pair [] ?_, ok_eq ⟨0, 0, 0, [], [], []⟩ ?_, ?_, ?_, ok_pair [] ?_,
        ok_pair [] ?_⟩).2.2.2.2
      ⟨?_, ?_, ?_, ?_, ?_, ?_, ?_, _, _, ok_pair [] ?_, ?_, ?_, snd_pair ?_, snd_pair ?_, ?_, ?_, ?_⟩),
    ran ((h (clSt 6 0) ?_).2.1 (clCmd 6 0) j1 _ _ _ _ { ctx5 with units := 32 }
      ⟨?_, ?_, ?_, ?_, ?_, ?_, ?_, _, _, ok_pair [] ?_, ?_, ?_, snd_pair ?_, snd_pair ?_, ?_, ?_, ?_⟩ ?_ ?_ ?_ ?_ (ok_pair [] ?_)),
    ran ((h (clSt 7 0) ?_).2.2.1 (clCmd 7 0) j1 _ _ _ _ _
      ⟨?_, ?_, ?_, ?_, ?_, ?_, ?_, _, _, ok_pair [] ?_, ?_, ?_, snd_pair ?_, snd_pair ?_, ?_, ?_, ?_⟩ (ok_pair [] ?_) (snd_pair ?_)),
    ran (((h (clSt 1 1) ?_).2.2.2.1 5 0 0x1000000000000000 [] { ctx5 with units := 32 } ?_ ?_ ?_ ?_ ?_).2 ?_),
    ran (((h clPast ?_).2.2.2.1 5 0 0x1000000000000000 [] { ctx5 with units := 32 } ?_ ?_ ?_ ?_ ?_).1 ?_),
    ran (((h (clRunSt 1) ?_).2.2.2.2 1 (clRun 1)).1 ?_),
    ran ((((h (clRunSt 2) ?_).2.2.2.2 1 (clRun 2)).2 1 false { clCmd 1 1 with phase := .running } ?_ ?_ ?_).1),
    ran ((((h (clRunSt 2) ?_).2.2.2.2 1 (clRun 2)).2 1 true { clCmd 1 1 with phase := .running } ?_ ?_ ?_).2)⟩ <;> decide +kernel

/-! Firmware and Tidemarks -/

/-- The words of an image (R363, R364, R402) that are not zero, with their byte offsets: its kind and manifest, and a signature block of
the key set. Its signatures, hashes and keys are bytes of zeros. -/
def image (kind keyset : Nat) (man : List Nat) : List (Nat × Word) :=
  let so := 256 + 16 * man.length
  [(0, fld [(0, kind), (8, 1)]), (8, 1), (16, fld [(32, 256)]), (24, fld [(0, man.length), (32, so)]), (248, fld [(60, 1)]),
    (so, fld [(0, keyset), (60, 1)]), (so + 0x138, fld [(32, 3604)])] ++
  ((List.range man.length).zip man).flatMap (fun e => [(256 + 16 * e.1, fld [(0, e.2)]), (264 + 16 * e.1, fld [(60, 1)])])
def images (pa : Nat) (ws : List (Nat × Word)) (m : Mach) : Mach := ws.foldl (fun b w => mem (pa + w.1) [w.2] b) m
def z48 : List Byte := List.replicate 48 0

/-- A machine whose registers hold an image's address and length. -/
def fwArgs (fs : List (Fld × Nat)) (op : Option FwOp) (past : List Nat) : State :=
  st { put ([(Reg.HB_FW_ARG_ADDR, 0x100), (Reg.HB_FW_LEN_LEN, 8496)] ++ fs) m0 with
    fw := { m0.fw with op := op, faults := [(194, past)] }, nv := { m0.nv with keys := [(z48, z48)] } }
def op0 (reload : Bool) (t : Nat) : FwOp := ⟨reload, t, false, 1, 1, 1, 1, [], []⟩
def hbLoad : State := st (images 0x100 (image 1 1 [3, 4, 6]) (fwArgs [] none []).m)
def rfReload : State := st (images 0x100 (image 2 1 [1, 3, 5]) (fwArgs [(Reg.HB_FW_VER_FWVER 0, 1), (Reg.HB_FW_VER_FWVER 1, 1),
  (Reg.HB_FW_VER_FWVER 2, 1), (Reg.HB_DIE_STATE_STATE 3, 0)] none []).m)

theorem copied {m : Mach} {a n : Nat} (h1 : (m.current 25 a n).2 = true) (h2 : ((m.current 25 a n).1.load 0 a n).2 = false) :
    m.fwCopy a n = ((m.current 25 a n).1, some (((m.current 25 a n).1.load 0 a n).1, false)) := by
  simp [Mach.fwCopy, h1, ← h2]

/-- O32. Whether a signature verifies is free in the model, so that LOAD and RELOAD are met for the readings of it that admit the image. -/
theorem witness_FirmwareRowsComplete (h : Obligations.FirmwareRowsComplete) :
    Runs (.componentFault 194) (fwArgs [] none []) ∧ Runs (.heartbeatTimeout 194) (fwArgs [] none [0, 0]) ∧
    Runs (.componentRestart 194) (fwArgs [] none []) ∧
    (∀ op : FwOp, (hbLoad.m.current 25 0x100 8496).1.fwImage false 4 false ((hbLoad.m.current 25 0x100 8496).1.load 0 0x100 8496).1 = .ok op →
      Runs (.firmwareLoad .lighthouse 4 false) hbLoad) ∧
    (∀ op : FwOp, (rfReload.m.current 25 0x100 8496).1.fwImage true 3 false ((rfReload.m.current 25 0x100 8496).1.load 0 0x100 8496).1 = .ok op →
      Runs (.reload .lighthouse 3 false) rfReload) ∧
    Runs .firmwareLoaded (fwArgs [(Reg.HB_FW_STATUS_PHASE, 4)] (some (op0 false 4)) []) ∧
    Runs .reloadQlimitExpiry (fwArgs [(Reg.HB_FW_STATUS_PHASE, 3), (Reg.HB_FW_LEN_QLIMIT, 1)] (some (op0 true 3)) []) ∧
    Runs (.interfaceSelect (.headland 0) 0) (fwArgs [(Reg.HB_FW_IFACE_IFMAX, 0), (Reg.HB_FW_IFACE_IFMIN, 0)] none []) := by
  refine ⟨ran (((h (fwArgs [] none []) (.headland 0) ?_).1 194 _ ?_ ?_ rfl).1 ?_).1,
    ran (((h (fwArgs [] none [0, 0]) (.headland 0) ?_).1 194 _ ?_ ?_ rfl).2 ?_).2, ran ((h (fwArgs [] none []) (.headland 0) ?_).2.1 194),
    fun op e => ran (((h hbLoad .lighthouse ?_).2.2.1 4 false _ _ op (Or.inl rfl) ?_ ?_ (copied (n := 8496) ?_ ?_)).1 ?_ e),
    fun op e => ran (((h rfReload .lighthouse ?_).2.2.1 3 false _ _ op (Or.inl rfl) ?_ ?_ (copied (n := 8496) ?_ ?_)).2 ?_ e),
    ran ((h (fwArgs [(Reg.HB_FW_STATUS_PHASE, 4)] (some (op0 false 4)) []) (.headland 0) ?_).2.2.2.1 (op0 false 4) ?_ ?_),
    ran ((h (fwArgs [(Reg.HB_FW_STATUS_PHASE, 3), (Reg.HB_FW_LEN_QLIMIT, 1)] (some (op0 true 3)) []) (.headland 0) ?_).2.2.2.2.1
      (op0 true 3) ?_ ?_),
    ran ((h (fwArgs [(Reg.HB_FW_IFACE_IFMAX, 0), (Reg.HB_FW_IFACE_IFMIN, 0)] none []) (.headland 0) ?_).2.2.2.2.2 0 ?_ ?_ ?_)⟩ <;>
    decide +kernel

/-- A plan (R373) of one loss segment of 64 bytes at VA 0x4000: STAGE of 8 KiB at VA 0x200000 in Shelf, rank 1 its only candidate, the
group at VA 0x8000, the placement record at VA 0x5000. -/
def planW : List Word := [0, 0, 0x200000, 0x2000, 0x3000, 1, 0x8000, fld [(0, 0x5000), (60, 1)], 0x4000, 64, 8, fld [(60, 1)]]
def plan0 : TmPlan := ⟨[⟨0x4000, 64, 8⟩], 1, 0, 0, 0x200000, 0x2000, [1], 2, 0, [0, 1], 0x5000⟩
def mark0 (len : Nat) : TmMark := ⟨0, 0, 0, len, false, true, [⟨0, 9, 5⟩], [], 0, none, some [], []⟩
def tmj : TmJob := { tmFresh with plan := some plan0 }

/-- Job 1 with its plan in memory, its Tidemark state, feed and sled groups 1. -/
def tmSt (t : TmJob) (ls : List TmLocal) (r : Option TmRestore) : State :=
  st { mem 0x210008 [leaf 1 0x1000000] (mem 0x401000 planW (mem 0x403000 [fld [(0, 1), (60, 1)]] (mem 0x408000 grp
    (paged (put [(Reg.LH_GROUP_FEED, 1), (Reg.LH_GROUP_SLED, 1), (Reg.HB_TM_PLAN_BASE 1, 0x1000), (Reg.HB_TM_CFG_INTERVAL_EN 1, 1)]
      (live j1)))))) with
    sw := { m0.sw with ctxs := [(5, some { ctx5 with units := 32 })] }, tm := { m0.tm with jobs := [(1, some t)], locals := ls, restore := r } }

/-- O33. -/
theorem witness_TidemarkRequestRowsComplete (h : Obligations.TidemarkRequestRowsComplete) :
    Runs (.tidemarkArm (.headland 0) 1) (tmSt tmFresh [] none) ∧ Runs (.take (.headland 0) 1) (tmSt tmj [] none) ∧
    Runs (.tidemarkCancel (.headland 0) 1) (tmSt { tmj with pending := some 5 } [] none) ∧ Runs (.intervalExpiry 1) (tmSt tmj [] none) ∧
    Runs (.tidemarkRequest 1 5 true) (tmSt tmj [] none) ∧ Runs (.refuse 1 5 true) (tmSt { tmj with pending := some 5 } [] none) := by
  refine ⟨ran (((h (tmSt tmFresh [] none) (.headland 0) 1 ?_).1 ?_).1 j1 _ plan0 ?_ ?_ (snd_pair ?_)),
    ran (((h (tmSt tmj [] none) (.headland 0) 1 ?_).1 ?_).2.1 ?_), ran (((h (tmSt { tmj with pending := some 5 } [] none) (.headland 0) 1 ?_).1 ?_).2.2 ?_),
    ran ((h (tmSt tmj [] none) (.headland 0) 1 ?_).2.1 ?_ ?_), ran (((h (tmSt tmj [] none) (.headland 0) 1 ?_).2.2.1 5 true plan0 ?_).1 ?_),
    ran (((h (tmSt { tmj with pending := some 5 } [] none) (.headland 0) 1 ?_).2.2.1 5 true plan0 ?_).2 ?_ ?_)⟩ <;> decide +kernel

/-- An offer of one byte at feed and sled groups 2. -/
def offer0 : ShardOffer := ⟨9, 2, 2, true, 7, 1, 0, false, [1]⟩

/-- A header of global step 0 for `plan0`, and its Tidemark in the local area; a descriptor (R384) that replays step 1 from there. -/
def sealed0 : List Byte := wordBytes ((List.range 512).map (fun i => if i = 4 then (1 : Word) else if i = 7 then fld [(60, 1)] else if i = 32 then 8 else if i = 33 then 64
  else if i = 34 then crc64 (List.replicate 64 0) else 0)) ++ List.replicate 64 0
def head0 : List Byte := sealed0.take 272
def local0 : TmLocal := ⟨0, 0, 0, head0⟩
def rstW : List Word := [0, BitVec.ofNat 64 m0.ident, 0, 0, 1, 0, 0, fld [(60, 1)]]
def rstSt : State := st (mem 0x406000 rstW ((tmSt tmj [local0] none).m.fset Reg.HB_TM_RST_ARG_DESC 0x6000))
def rst0 : TmRestore := ⟨1, 1, 9, 0, 0, 1, 1⟩
def areaSt : State := st ((tmSt tmj [] none).m.setTm { m0.tm with area := [⟨m0.ident, 0, 3, 0, 0, 1, none⟩] })

theorem leBytes_length (n v : Nat) : (leBytes n v).length = n := by
  induction n generalizing v with
  | zero => rfl
  | succ n ih => simp [leBytes, ih]

theorem wordBytes_length (ws : List Word) : (wordBytes ws).length = 8 * ws.length := by
  induction ws with
  | nil => rfl
  | cons w ws ih => simp_all [wordBytes, leBytes_length, Nat.mul_add, Nat.add_comm]

/-- A write of `n` bytes that lie in one page of Shelf is made, whatever they are. -/
theorem write_shelf {m : Mach} {j : Job} {jn va n : Nat} {bs : List Byte} {p : Piece} (h : bs.length = n) (hn : n ≠ 0)
    (hx : (m.xlateRange j 192 va n .write).2 = .ok [p]) (ht : tierOf p.pa = .shelf) : (m.tmWrite j jn va bs).2 = .ok () := by
  have he : bs.isEmpty = false := by cases bs <;> simp_all
  subst h
  simp [Mach.tmWrite, Mach.tmTry, Mach.agentWrite, Mach.agentRange, he, hx, ht]

theorem image_length (m : Mach) (p : TmPlan) (seed : Nat) (k : TmMark) : (m.tmImage p seed k [] []).length = 4096 := by
  simp [Mach.tmImage, Mach.tmHeader, wordBytes_length]

theorem image_of (m : Mach) (b : List Byte) (hb : b.isEmpty = false) :
    (m.rstImage j1 plan0 rst0 [[1], b]).2 = .ok ([1], b) := by
  simp [Mach.rstImage, rst0, hb]

/-- O34. -/
theorem witness_TidemarkPlacementRowsComplete (h : Obligations.TidemarkPlacementRowsComplete) :
    Runs (.captureDone 1) (tmSt { tmj with cur := some (mark0 0) } [] none) ∧
    Runs (.offerAnswer 1 true 8 6) (tmSt { tmj with cur := some { mark0 4096 with offer := some 1, todo := [0] } } [] none) ∧
    Runs (.sealAck 1 9) (tmSt { tmj with cur := some (mark0 4096) } [] none) ∧ Runs (.shardOffer offer0) State.reset ∧
    Runs (.shardOffer offer0) (st (put [(Reg.LH_GROUP_FEED, 1), (Reg.LH_GROUP_SLED, 1), (Reg.HB_TM_AREA_LEN_UNITS, 1)] m0)) ∧
    Runs (.restore .lighthouse 1) rstSt ∧
    Runs (.tidemarkRelease .lighthouse 1) (st (mem 0x406000 rstW (areaSt.m.fset Reg.HB_TM_RST_ARG_DESC 0x6000))) ∧
    Runs (.restoreDone [[1], sealed0]) (tmSt tmj [local0] (some rst0)) := by
  refine ⟨ran ((h (tmSt { tmj with cur := some (mark0 0) } [] none) (.headland 0) 1 ?_).1 (mark0 0) plan0 j1 _ _ [] ?_ ?_ ?_ ?_ (snd_pair ?_)
      (snd_pair (write_shelf (p := ⟨0x10000000000, 0, 4096⟩) (image_length _ _ _ _) ?_ ?_ ?_))),
    ran (((h (tmSt { tmj with cur := some { mark0 4096 with offer := some 1, todo := [0] } } [] none) (.headland 0) 1 ?_).2.1
      { mark0 4096 with offer := some 1, todo := [0] } 1 0 [] 8 6 ?_ ?_ ?_).1 ?_),
    ran ((h (tmSt { tmj with cur := some (mark0 4096) } [] none) (.headland 0) 1 ?_).2.2.1 (mark0 4096) 9 ?_ ?_ ?_ ?_),
    ran (((h State.reset (.headland 0) 1 ?_).2.2.2.1 offer0 0 _ m0 ?_ rfl).1 ?_),
    done (((h (st (put [(Reg.LH_GROUP_FEED, 1), (Reg.LH_GROUP_SLED, 1), (Reg.HB_TM_AREA_LEN_UNITS, 1)] m0)) (.headland 0) 1 ?_).2.2.2.1
      offer0 0 _ _ ?_ rfl).2 ?_ rfl),
    ran (((h rstSt .lighthouse 1 ?_).2.2.2.2.1 (Or.inl rfl) ?_ j1 _ rstW ?_ (snd_pair ?_)).1 plan0 head0 ?_ ?_ ?_ ?_ ?_ ?_ ?_ ?_),
    ran (((h (st (mem 0x406000 rstW (areaSt.m.fset Reg.HB_TM_RST_ARG_DESC 0x6000))) .lighthouse 1 ?_).2.2.2.2.1 (Or.inl rfl) ?_ j1 _ rstW ?_
      (snd_pair ?_)).2 ?_),
    ran ((h (tmSt tmj [local0] (some rst0)) (.headland 0) 1 ?_).2.2.2.2.2 [[1], sealed0] rst0 plan0 j1 _ _ [1] sealed0 ?_ ?_ ?_
      (snd_pair (image_of _ _ ?_)) ?_ ?_ ?_ (snd_pair ?_))⟩ <;> decide +kernel

/-! Lighthouse -/

/-- The module with Lighthouse's and the persistent state, and register fields. -/
def lhSt (fs : List (Fld × Nat)) (x : LhSt) (v : NvSt) : State := st { put fs m0 with lh := x, nv := v }
def log0 : LogEnt := ⟨0, 0, true, 1, 0, 0, 0, 0, []⟩

/-- O35: a log copy of the most records. -/
theorem witness_AttestationRowsComplete (h : Obligations.AttestationRowsComplete) :
    Runs (.report (.headland 0)) State.reset ∧ Runs (.idcert (.headland 0)) State.reset ∧
    Runs .reportComplete (lhSt [(Reg.LH_LMS_READY, 1)] { m0.lh with att := true } m0.nv) ∧ Runs (.logCopy (.headland 0) 0 65536) State.reset ∧
    Runs .logCopyDone (lhSt [] { m0.lh with copy := some (0, 1) } { m0.nv with log := [log0] }) ∧
    Runs .logFlashWrite (st { m0 with log := { m0.log with buf := [log0] } }) := by
  refine ⟨ran (((h State.reset (.headland 0) ?_).1 ?_ ?_).1 ?_ ?_ ?_), ran (((h State.reset (.headland 0) ?_).1 ?_ ?_).2 ?_),
    ran ((h (lhSt [(Reg.LH_LMS_READY, 1)] { m0.lh with att := true } m0.nv) (.headland 0) ?_).2.1 _ _ ?_ ?_ rfl rfl),
    ran ((h State.reset (.headland 0) ?_).2.2.2.1 0 65536 ?_ ?_ ?_ ?_),
    ran ((h (lhSt [] { m0.lh with copy := some (0, 1) } { m0.nv with log := [log0] }) (.headland 0) ?_).2.2.2.2.1 0 1 _ _ ?_ rfl rfl),
    ran ((h (st { m0 with log := { m0.log with buf := [log0] } }) (.headland 0) ?_).2.2.2.2.2 log0 [] ?_ ?_ ?_)⟩ <;> decide +kernel

/-- Slot pairs whose other slot is in a state; an owner of key hashes of zeros. -/
def slots (n : Nat) : NvSt := { m0.nv with
  fwSlots := ⟨[], [], 0, n⟩, cfgSlots := ⟨[], [], 0, n⟩, hlSlots := ⟨[], [], 0, n⟩, keys := [(z48, z48)], owner := (z48, z48) }
def hlStage : State := st (images 0 (image 4 2 []) (lhSt [(Reg.LH_UPD_LEN_LEN, 8448)] m0.lh (slots 0)).m)

/-- A TRANSFER record of zeros, but for its block's layout (R402). -/
def handOver : List Byte := List.replicate 104 0 ++ (wordBytes [fld [(0, 2), (60, 1)]] ++ List.replicate 308 0 ++ leBytes 4 3604 ++
  List.replicate 7872 0)

theorem handOver_length : handOver.length = 104 + sigLen := by
  simp only [handOver, sigLen, List.length_append, List.length_replicate, wordBytes_length, leBytes_length, List.length_cons, List.length_nil]

/-- O36. Whether a signature verifies is free in the model, so that STAGE and TRANSFER are met for the readings of it that pass. -/
theorem witness_UpdateRowsComplete (h : Obligations.UpdateRowsComplete) :
    ((hlStage.m.current 25 0 8448).1.stageBad 2 ((hlStage.m.current 25 0 8448).1.load 0 0 8448).1 = none →
      Runs (.updateStage .lighthouse 2) hlStage) ∧
    Runs .updateSlotWritten (lhSt [] { m0.lh with upd := some (2, [1]) } m0.nv) ∧ Runs (.updateConfirm .lighthouse 2) (lhSt [] m0.lh (slots 3)) ∧
    Runs (.updateCancel .lighthouse 2) (lhSt [] m0.lh (slots 2)) ∧
    Runs (.svnCommit .lighthouse 4) (lhSt [(Reg.HB_DIE_STATE_STATE 3, 0), (Reg.HB_DIE_STATE_STATE 0, 1), (Reg.HB_DIE_STATE_STATE 1, 1),
      (Reg.HB_DIE_STATE_STATE 2, 1)] m0.lh m0.nv) ∧
    Runs (.svnCommit .lighthouse 2) (lhSt [] { m0.lh with meas := [(2, some ⟨4, 1, 0, 1, []⟩)] } m0.nv) ∧
    Runs (.lifecycleRetire .lighthouse 0x52455449) (lhSt [(Reg.LH_LIFE_STATE, 1)] m0.lh m0.nv) ∧
    ((lhSt [] m0.lh (slots 0)).m.verifies 2 (handOver.drop 104) (handOver.take 104) = true →
      Runs (.transfer .lighthouse handOver) (lhSt [] m0.lh (slots 0))) := by
  refine ⟨fun e => ran ((h hlStage .lighthouse ?_ (Or.inl rfl) ?_).1 2 _ _ _ ?_ ?_ ?_ ?_ (snd_pair ?_) (snd_pair ?_) e rfl),
    ran ((h (lhSt [] { m0.lh with upd := some (2, [1]) } m0.nv) .lighthouse ?_ (Or.inl rfl) ?_).2.1 2 [1] _ ?_ rfl),
    ran ((h (lhSt [] m0.lh (slots 3)) .lighthouse ?_ (Or.inl rfl) ?_).2.2.1 ?_),
    ran ((h (lhSt [] m0.lh (slots 2)) .lighthouse ?_ (Or.inl rfl) ?_).2.2.2.1 2 ?_ ?_),
    ran ((h (lhSt [(Reg.HB_DIE_STATE_STATE 3, 0), (Reg.HB_DIE_STATE_STATE 0, 1), (Reg.HB_DIE_STATE_STATE 1, 1),
      (Reg.HB_DIE_STATE_STATE 2, 1)] m0.lh m0.nv) .lighthouse ?_ (Or.inl rfl) ?_).2.2.2.2.1 4 0 ?_ ?_ ?_ ?_ ?_),
    ran ((h (lhSt [] { m0.lh with meas := [(2, some ⟨4, 1, 0, 1, []⟩)] } m0.nv) .lighthouse ?_ (Or.inl rfl) ?_).2.2.2.2.1 2 0 ?_ ?_ ?_ ?_ ?_),
    ran ((h (lhSt [(Reg.LH_LIFE_STATE, 1)] m0.lh m0.nv) .lighthouse ?_ (Or.inl rfl) ?_).2.2.2.2.2.1 _ _ ?_ rfl rfl),
    fun e => ran ((h (lhSt [] m0.lh (slots 0)) .lighthouse ?_ (Or.inl rfl) ?_).2.2.2.2.2.2 handOver handOver_length ?_ e ?_)⟩ <;>
    decide +kernel

/-- Port 1 in L0 with an SPDM connection that has come to a stage, with a session. -/
def spSt (n : Nat) : State :=
  st { put [(Reg.LW_LINK_LINK 1, 2)] m0 with lh := { m0.lh with spdm := [(1, some ⟨n, some 0xFFFF0001, false⟩)] } }

/-- O37: each request at the least stage that answers it. -/
theorem witness_SpdmRowsComplete (h : Obligations.SpdmRowsComplete) :
    Runs (.getVersion 1) (spSt 0) ∧ Runs (.getCapabilities 1) (spSt 1) ∧ Runs (.negotiateAlgorithms 1 true) (spSt 2) ∧
    Runs (.getDigests 1) (spSt 3) ∧ Runs (.getCertificate 1 0 1024) (spSt 3) ∧ Runs (.challenge 1 0) (spSt 3) ∧
    Runs (.getMeasurements 1 7 0) (spSt 3) ∧ Runs (.keyExchange 1 1) (spSt 3) ∧ Runs (.finish 1 0xFFFF0001 true true) (spSt 3) ∧
    Runs (.endSession 1 0xFFFF0001) (spSt 3) := by
  refine ⟨ran (h (spSt 0) 1 ?_ ?_).1, ran ((h (spSt 1) 1 ?_ ?_).2.1 ?_), ran ((h (spSt 2) 1 ?_ ?_).2.2.1 ?_),
    ran ((h (spSt 3) 1 ?_ ?_).2.2.2 ?_).1, ran (((h (spSt 3) 1 ?_ ?_).2.2.2 ?_).2.1 0 1024 ?_), ran (((h (spSt 3) 1 ?_ ?_).2.2.2 ?_).2.2.1 0),
    ran (((h (spSt 3) 1 ?_ ?_).2.2.2 ?_).2.2.2.1 7 0), ran (((h (spSt 3) 1 ?_ ?_).2.2.2 ?_).2.2.2.2.1 1),
    ran (((h (spSt 3) 1 ?_ ?_).2.2.2 ?_).2.2.2.2.2 0xFFFF0001 ?_).2.1, ran (((h (spSt 3) 1 ?_ ?_).2.2.2 ?_).2.2.2.2.2 0xFFFF0001 ?_).2.2⟩ <;>
    decide +kernel

/-- The module in a power state, with bytes staged. -/
def pwSt (p : Power) (bs : List Byte) : State := st { m0 with lh := { m0.lh with power := p, staged := bs } }
def boot0 : BootInfo := ⟨0, [], [], [], [], [], [], 0, 0, 0, 3, [], 0, true⟩
/-- A Lighthouse image (R363) whose header is whole; whether its signature verifies is free. -/
def lhImage : List Byte := wordBytes ([fld [(0, 3), (8, 1)], 1, fld [(32, 256)], fld [(0, 2), (32, 288)]] ++ List.replicate 27 0 ++ [fld [(60, 1)]] ++
  [4, fld [(60, 1)], 6, fld [(60, 1)]] ++ [fld [(0, 1), (60, 1)]] ++ List.replicate 38 0 ++ [fld [(32, 3604)]] ++ List.replicate 984 0)

/-- O38. Whether a signature verifies is free in the model, so that RECOVERY_COMMIT is met for the readings of it that pass. -/
theorem witness_LighthouseRowsComplete (h : Obligations.LighthouseRowsComplete) :
    Runs (.powerOn boot0) (pwSt .off []) ∧ Runs (.recoveryData [1]) (pwSt .rom []) ∧
    ((pwSt .rom lhImage).m.lhImageBad true lhImage = none → Runs .recoveryCommit (pwSt .rom lhImage)) ∧
    Runs .ident (pwSt .rom []) ∧ Runs .sidebandStatus (pwSt .shutdown []) ∧ Runs (.sensorSample ⟨[(411, 0x0700)], [(0, 800, 5)]⟩) State.reset ∧
    Runs (.ageingFit ⟨[], [0, 0, 0, 0], [0, 0, 0, 0], none⟩) State.reset ∧ Runs (.ageingFit ⟨[2161, 2160], [0, 0, 0, 0], [0, 0, 0, 0], some 5⟩) State.reset := by
  refine ⟨ran ((h (pwSt .off [])).1 boot0 ?_), ran (((h (pwSt .rom [])).2.1 ?_).1 [1] ?_ ?_),
    fun e => ran (((h (pwSt .rom lhImage)).2.1 ?_).2 _ e rfl), ran ((h (pwSt .rom [])).2.2.1 ?_).1, ran ((h (pwSt .shutdown [])).2.2.1 ?_).2,
    ran (((h State.reset).2.2.2 ?_).1 [(411, 0x0700)] [(0, 800, 5)] _ _ rfl rfl), ran (((h State.reset).2.2.2 ?_).2.1 ⟨[], [0, 0, 0, 0], [0, 0, 0, 0], none⟩ ?_),
    ran (((h State.reset).2.2.2 ?_).2.2 ⟨[2161, 2160], [0, 0, 0, 0], [0, 0, 0, 0], some 5⟩ 2161 [2160] ?_ ?_)⟩ <;> decide +kernel

/-! Power, Shingle, prefetch schedules -/

/-- O39: an excursion at each limit, and one that is not. -/
theorem witness_InputRowsComplete (h : Obligations.InputRowsComplete) :
    Runs (.underVoltage 44999 2000) State.reset ∧ Runs (.underVoltage 45000 2000) State.reset ∧ Runs (.underVoltage 44999 1999) State.reset ∧
    Runs (.overVoltage 57001 100) State.reset ∧ Runs (.overVoltage 57000 100) State.reset ∧ Runs (.overVoltage 57001 99) State.reset ∧
    Runs (.overCurrent 90000 100) State.reset ∧ Runs (.overCurrent 89999 100) State.reset ∧ Runs (.overCurrent 90000 99) State.reset ∧
    Runs (.domainFail 163) State.reset ∧ Runs .referenceFail State.reset := by
  refine ⟨ran ((h State.reset 44999 2000).1 ?_ ?_), ran ((h State.reset 45000 2000).2.1 ?_), ran ((h State.reset 44999 1999).2.1 ?_),
    ran ((h State.reset 57001 100).2.2.1 ?_ ?_), ran ((h State.reset 57000 100).2.2.2.1 ?_), ran ((h State.reset 57001 99).2.2.2.1 ?_),
    ran ((h State.reset 90000 100).2.2.2.2.1 ?_ ?_), ran ((h State.reset 89999 100).2.2.2.2.2.1 ?_), ran ((h State.reset 90000 99).2.2.2.2.2.1 ?_),
    ran (((h State.reset 0 0).2.2.2.2.2.2 ?_).1 163), ran ((h State.reset 0 0).2.2.2.2.2.2 ?_).2⟩ <;> decide +kernel

/-- The module in a power mode and phase, with register fields. -/
def pmSt (mode : Nat) (p : ModePhase) (fs : List (Fld × Nat)) : State :=
  st { put ((Reg.PW_MODE_MODE, mode) :: fs) m0 with pw := { m0.pw with phase := p } }

/-- O40: a request of each kind; the input power above the cap, at 97 % of it, and below. -/
theorem witness_ModeRowsComplete (h : Obligations.ModeRowsComplete) :
    Runs (.modeRequest .lighthouse 1) (pmSt 1 .idle []) ∧ Runs (.modeRequest .lighthouse 0) (pmSt 3 .idle []) ∧
    Runs (.modeRequest .lighthouse 2) (pmSt 0 .idle []) ∧ Runs (.modeRequest .lighthouse 3) (pmSt 2 .idle []) ∧
    Runs .modeChangeDone (pmSt 0 (.changing 2) []) ∧ Runs .modeQlimitExpiry (pmSt 0 (.waiting 2) [(Reg.PW_CFG_MODE_QLIMIT, 1)]) ∧
    Runs .modeQlimitExpiry (pmSt 0 .entering [(Reg.PW_CFG_MODE_QLIMIT, 1)]) ∧ Runs .idleSlackExpiry (pmSt 0 .idle [(Reg.PW_CFG_IDLE_SLACK, 1)]) ∧
    Runs .slackEntry (pmSt 0 .entering []) ∧ Runs .slackExitDone (pmSt 3 (.leaving 1) []) ∧
    Runs (.capControl 101 10) (pmSt 0 .idle [(Reg.PW_CAP_CAP_W, 100)]) ∧ Runs (.capControl 96 10) (pmSt 0 .idle [(Reg.PW_CAP_CAP_W, 100)]) ∧
    Runs (.capControl 97 10) (pmSt 0 .idle [(Reg.PW_CAP_CAP_W, 100)]) ∧ Runs (.capControl 100 10) (pmSt 0 .idle [(Reg.PW_CAP_CAP_W, 100)]) := by
  refine ⟨ran (((h (pmSt 1 .idle []) .lighthouse ?_).1 (Or.inl rfl) ?_ ?_).1 1 ?_), ran (((h (pmSt 3 .idle []) .lighthouse ?_).1 (Or.inl rfl) ?_ ?_).2.1 0 ?_ ?_),
    ran (((h (pmSt 0 .idle []) .lighthouse ?_).1 (Or.inl rfl) ?_ ?_).2.2.1 2 ?_ ?_ ?_), ran (((h (pmSt 2 .idle []) .lighthouse ?_).1 (Or.inl rfl) ?_ ?_).2.2.2 ?_),
    ran ((h (pmSt 0 (.changing 2) []) .lighthouse ?_).2.1 2 ?_),
    ran ((h (pmSt 0 (.waiting 2) [(Reg.PW_CFG_MODE_QLIMIT, 1)]) .lighthouse ?_).2.2.1 2 ?_ (Or.inl rfl)),
    ran ((h (pmSt 0 .entering [(Reg.PW_CFG_MODE_QLIMIT, 1)]) .lighthouse ?_).2.2.1 2 ?_ (Or.inr rfl)),
    ran ((h (pmSt 0 .idle [(Reg.PW_CFG_IDLE_SLACK, 1)]) .lighthouse ?_).2.2.2.1 ?_ ?_ ?_ ?_), ran ((h (pmSt 0 .entering []) .lighthouse ?_).2.2.2.2.1 ?_ ?_),
    ran ((h (pmSt 3 (.leaving 1) []) .lighthouse ?_).2.2.2.2.2.1 1 ?_),
    ran (((h (pmSt 0 .idle [(Reg.PW_CAP_CAP_W, 100)]) .lighthouse ?_).2.2.2.2.2.2 101 10 _ rfl).1 ?_),
    ran (((h (pmSt 0 .idle [(Reg.PW_CAP_CAP_W, 100)]) .lighthouse ?_).2.2.2.2.2.2 96 10 _ rfl).2.1 ?_ ?_),
    ran (((h (pmSt 0 .idle [(Reg.PW_CAP_CAP_W, 100)]) .lighthouse ?_).2.2.2.2.2.2 97 10 _ rfl).2.2 ?_ ?_),
    ran (((h (pmSt 0 .idle [(Reg.PW_CAP_CAP_W, 100)]) .lighthouse ?_).2.2.2.2.2.2 100 10 _ rfl).2.2 ?_ ?_)⟩ <;> decide +kernel

/-- A Shingle descriptor (R166): an operation of one unit to unit 0, its source in Stack. -/
def sgW (op : Nat) : List Word := [fld [(0, op)], 0x10000, 0, fld [(0, 1), (60, 1)]]
/-- A queue of one descriptor, Harbour's image running. -/
def sgSt (op : Nat) (fs : List (Fld × Nat)) : State := st (mem 0 (sgW op) (put ([(Reg.HB_FW_VER_FWVER 4, 1), (Reg.SG_WQ_BASE_LOG2, 6),
  (Reg.SG_WQ_TAIL_TAIL, 1)] ++ fs) m0))
def sgRun (ws : List Word) : State := st { m0 with sg := { m0.sg with cur := some (ws, 0) } }
def sgW2 : List Word := [0, 0x10000, 0, fld [(0, 2), (60, 1)]]
def blk (r e : Nat) : State := st { m0 with sg := { m0.sg with blocks := [(5, { m0.block 5 with reads := r, erases := e })] } }

/-- The mean of erases is 501, all on another block; and a spare that bad blocks have used up. -/
def worn : State := st { m0 with sg := { m0.sg with blocks := [(6, { freshBlock with erases := 501 * flashBlocks })] } }
def spent : State := st { m0 with sg := { m0.sg with spareBad := 50000000 } }

/-- O41. -/
theorem witness_ShingleRowsComplete (h : Obligations.ShingleRowsComplete) :
    Runs .write (sgSt 0 []) ∧ Runs .write (sgSt 0 [(Reg.SG_STATE_WRITE_LOCK, 1)]) ∧ Runs .trim (sgSt 1 []) ∧ Runs .unitCommit (sgRun sgW2) ∧
    Runs .unitCommit (sgRun (sgW 0)) ∧ Runs (.shingleDoorbell .lighthouse 7) State.reset ∧ Runs (.sanitize .lighthouse) State.reset ∧
    Runs .sanitizeDone (st { m0 with sg := { m0.sg with sanitize := true } }) ∧
    Runs (.qreset .lighthouse) State.reset ∧ Runs (.wearLevelling 5) worn ∧ Runs (.readDisturbRefresh 5) (blk 60000 0) ∧
    Runs (.blockRetire 5) State.reset ∧ Runs (.blockRetire 5) spent := by
  refine ⟨ran (((h (sgSt 0 []) .lighthouse ?_).1 (sgW 0) _ _ ⟨?_, ?_, snd_pair ?_, ?_, ?_, ?_⟩ rfl).1 rfl ?_),
    ran (((h (sgSt 0 [(Reg.SG_STATE_WRITE_LOCK, 1)]) .lighthouse ?_).1 (sgW 0) _ _ ⟨?_, ?_, snd_pair ?_, ?_, ?_, ?_⟩ rfl).2.1 ?_ ?_),
    ran (((h (sgSt 1 []) .lighthouse ?_).1 (sgW 1) _ _ ⟨?_, ?_, snd_pair ?_, ?_, ?_, ?_⟩ rfl).2.2 ?_ _ rfl),
    ran (((h (sgRun sgW2) .lighthouse ?_).2.1 sgW2 0 _ _ ?_ ?_ ?_ (snd_pair ?_) rfl).1 ?_),
    ran (((h (sgRun (sgW 0)) .lighthouse ?_).2.1 (sgW 0) 0 _ _ ?_ ?_ ?_ (snd_pair ?_) rfl).2 ?_),
    ran (((h State.reset .lighthouse ?_).2.2.1 (Or.inl rfl)).1 7), ran ((h State.reset .lighthouse ?_).2.2.1 (Or.inl rfl)).2.2,
    ran ((h (st { m0 with sg := { m0.sg with sanitize := true } }) .lighthouse ?_).2.2.2.1 ?_ ?_ ?_),
    ran ((h State.reset .lighthouse ?_).2.2.1 (Or.inl rfl)).2.1, ran (((h worn .lighthouse ?_).2.2.2.2 5 ?_).1 ?_), ran (((h (blk 60000 0) .lighthouse ?_).2.2.2.2 5 ?_).2.1 ?_),
    ran ((((h State.reset .lighthouse ?_).2.2.2.2 5 ?_).2.2 _ _ ?_ rfl rfl).1 ?_),
    ran ((((h spent .lighthouse ?_).2.2.2.2 5 ?_).2.2 _ _ ?_ rfl rfl).2 ?_)⟩ <;> decide +kernel

/-- The words of a prefetch entry (R172) of a kind, and job 1's schedule with that entry at VA 0x1000. -/
def pfW (kind : Nat) : List Word := [fld [(0, kind)], 0, 0, if kind = 3 then 0 else 0x4000, if kind = 1 then 0x5000 else 0,
  if kind = 1 then 256 else 0, 0, fld [(60, 1)]]
def pfE (kind : Nat) : PfEnt := ⟨0, 1, 0, 0, pfW kind, 0, none⟩
def pfSt (kind : Nat) : State := st (mem 0x401000 (pfW kind) (mem 0x404000 (dmBody 1) (paged (put [(Reg.HB_PF_STATE_RUNNING 1, 1),
  (Reg.HB_PF_BASE_BASE 1, 0x1000)] (live j1)))))
/-- The STAGE entry for a core of die 3, which is fenced. -/
def pfFar : PfEnt := ⟨0, 1, 0, 0, fld [(0, 2), (21, 3)] :: (pfW 2).drop 1, 0, none⟩
def pfFarSt : State := st (mem 0x401000 pfFar.words ((pfSt 2).m.fset (Reg.HB_DIE_STATE_STATE 3) dieFenced))
def pfFarCmd : Cmd := { newCmd 0 1 8 0 144 4 (pfHeader 1 0 j1.step) (dmBody 1) with phase := .pending }
def pfDone (w0 : Word) : PfEnt := ⟨7, 1, 0, 0, [w0], 0, some 0⟩
def pfEnd (w0 : Word) : State := st { live j1 with js := { (live j1).js with pf := [pfDone w0] } }
def stageCmd : Cmd := { newCmd 0 1 8 0 0 4 (pfHeader 1 0 j1.step) (dmBody 1) with phase := .pending }

/-- O42. -/
theorem witness_PrefetchRowsComplete (h : Obligations.PrefetchRowsComplete) :
    Runs (.prefetchStart .lighthouse 1) (st (live j1)) ∧ Runs (.prefetchStop .lighthouse 1) State.reset ∧
    Runs (.prefetchResume .lighthouse 1) (st (live j1)) ∧ Runs (.prefetchCopy 1) (pfSt 1) ∧ Runs (.prefetchStage 1) (pfSt 2) ∧
    Runs (.prefetchStage 1) pfFarSt ∧
    Runs (.mark 1) (pfSt 3) ∧ Runs (.prefetchEntryDone 1) (pfEnd (fld [(0, 3), (12, 4), (20, 1)])) ∧
    Runs (.prefetchEntryDone 1) (pfEnd (fld [(0, 3)])) := by
  refine ⟨ran (((h (st (live j1)) .lighthouse 1 ?_).1 (Or.inl rfl)).1 ?_ ?_), ran ((h State.reset .lighthouse 1 ?_).1 (Or.inl rfl)).2.1,
    ran (((h (st (live j1)) .lighthouse 1 ?_).1 (Or.inl rfl)).2.2 ?_),
    ran (((h (pfSt 1) .lighthouse 1 ?_).2.1 _ j1 (pfE 1)).1 ⟨snd_pair ?_, ?_, ?_, ?_, ?_⟩ ?_),
    ran ((((h (pfSt 2) .lighthouse 1 ?_).2.1 _ j1 (pfE 2)).2.1 _ (wordBytes (dmBody 1)) stageCmd ⟨snd_pair ?_, ?_, ?_, ?_, ?_⟩
      (snd_pair ?_) ?_ ?_).1 ?_),
    ran ((((h pfFarSt .lighthouse 1 ?_).2.1 _ j1 pfFar).2.1 _ (wordBytes (dmBody 1)) pfFarCmd
      ⟨snd_pair ?_, ?_, ?_, ?_, ?_⟩ (snd_pair ?_) ?_ ?_).2 ?_),
    ran (((h (pfSt 3) .lighthouse 1 ?_).2.1 _ j1 (pfE 3)).2.2 ⟨snd_pair ?_, ?_, ?_, ?_, ?_⟩),
    ran (((h (pfEnd (fld [(0, 3), (12, 4), (20, 1)])) .lighthouse 1 ?_).2.2 (pfDone (fld [(0, 3), (12, 4), (20, 1)])) [] ?_ ?_).1 ?_),
    ran (((h (pfEnd (fld [(0, 3)])) .lighthouse 1 ?_).2.2 (pfDone (fld [(0, 3)])) [] ?_ ?_).2 ?_)⟩ <;> decide +kernel

/-! The front edge -/

/-- The front edge in a state, with a bay selected. -/
def frSt (n bay : Nat) (fs : List (Fld × Nat)) : State := st (put ([(Reg.LH_FRONT_STATE_STATE, n), (Reg.LH_FRONT_STATE_BAY, bay)] ++ fs) m0)
def bay0 : BayRecord := ⟨7, 100, 200, []⟩

/-- O43. Whether a bay's record verifies is free in the model: the bay is fitted in either case. -/
theorem witness_FrontEdgeRowsComplete (h : Obligations.FrontEdgeRowsComplete) :
    Runs .shortPress (frSt 0 0 []) ∧ Runs .longPress (frSt 0 0 []) ∧ Runs .shortPress (frSt 1 3 []) ∧ Runs .longPress (frSt 1 3 []) ∧
    Runs .selectTimeout (frSt 1 3 []) ∧ Runs .baySafe (frSt 2 3 []) ∧ Runs .shortPress (frSt 3 3 []) ∧ Runs .swapWindowExpiry (frSt 3 3 []) ∧
    Runs .longPress (frSt 5 0 []) ∧ Runs .graceExpiry (frSt 5 0 []) ∧ Runs .powerDownDone (frSt 6 0 []) ∧ Runs (.bayLatchOpen 3) (frSt 3 3 []) ∧
    Runs (.bayLatchOpen 3) (frSt 1 3 []) ∧ Runs (.bayFitted 3 bay0) (frSt 0 0 [(latchBit 3, 0)]) ∧ Runs (.quiesceBay .lighthouse 3) (frSt 0 0 []) ∧
    Runs (.frontCancel .lighthouse) (frSt 3 3 []) ∧ Runs (.frontCancel .lighthouse) (frSt 5 0 []) ∧ Runs (.removeAck .lighthouse) (frSt 5 0 []) ∧
    Runs (.frontCancel .lighthouse) (frSt 0 0 []) ∧ Runs .leverOpen (frSt 7 0 []) ∧ Runs .leverOpen (frSt 0 0 []) ∧ Runs .leverClose (frSt 0 0 []) := by
  refine ⟨ran (((h (frSt 0 0 []) .lighthouse).1 ?_).1 ?_).1, ran (((h (frSt 0 0 []) .lighthouse).1 ?_).1 ?_).2,
    ran (((h (frSt 1 3 []) .lighthouse).1 ?_).2.1 ?_).1, ran (((h (frSt 1 3 []) .lighthouse).1 ?_).2.1 ?_).2.1,
    ran (((h (frSt 1 3 []) .lighthouse).1 ?_).2.1 ?_).2.2, ran (((h (frSt 2 3 []) .lighthouse).1 ?_).2.2.1 ?_ ?_ ?_),
    ran (((h (frSt 3 3 []) .lighthouse).1 ?_).2.2.2.1 ?_).1, ran (((h (frSt 3 3 []) .lighthouse).1 ?_).2.2.2.1 ?_).2,
    ran (((h (frSt 5 0 []) .lighthouse).1 ?_).2.2.2.2.1 ?_).1, ran (((h (frSt 5 0 []) .lighthouse).1 ?_).2.2.2.2.1 ?_).2,
    ran (((h (frSt 6 0 []) .lighthouse).1 ?_).2.2.2.2.2.1 ?_), ran ((((h (frSt 3 3 []) .lighthouse).1 ?_).2.2.2.2.2.2.1 3 _ rfl).1 ?_ ?_),
    ran ((((h (frSt 1 3 []) .lighthouse).1 ?_).2.2.2.2.2.2.1 3 _ rfl).2 ?_),
    (Bool.eq_false_or_eq_true _).elim
      (fun e => ran ((((h (frSt 0 0 [(latchBit 3, 0)]) .lighthouse).1 ?_).2.2.2.2.2.2.2.1 3 bay0 _ ?_ ?_ rfl).1 e))
      (fun e => ran ((((h (frSt 0 0 [(latchBit 3, 0)]) .lighthouse).1 ?_).2.2.2.2.2.2.2.1 3 bay0 _ ?_ ?_ rfl).2 e)),
    ran ((((h (frSt 0 0 []) .lighthouse).1 ?_).2.2.2.2.2.2.2.2 (Or.inl rfl) ?_).1 3 ?_),
    ran ((((h (frSt 3 3 []) .lighthouse).1 ?_).2.2.2.2.2.2.2.2 (Or.inl rfl) ?_).2.1 ?_),
    ran ((((h (frSt 5 0 []) .lighthouse).1 ?_).2.2.2.2.2.2.2.2 (Or.inl rfl) ?_).2.2.1 ?_).1,
    ran ((((h (frSt 5 0 []) .lighthouse).1 ?_).2.2.2.2.2.2.2.2 (Or.inl rfl) ?_).2.2.1 ?_).2,
    ran ((((h (frSt 0 0 []) .lighthouse).1 ?_).2.2.2.2.2.2.2.2 (Or.inl rfl) ?_).2.2.2 ?_).1,
    ran ((((h (frSt 7 0 []) .lighthouse).2 _ ?_).1 rfl).1 ?_), ran ((((h (frSt 0 0 []) .lighthouse).2 _ ?_).1 rfl).2 ?_),
    ran (((h (frSt 0 0 []) .lighthouse).2 _ ?_).2 rfl)⟩ <;> decide +kernel

/-! The machine as a whole -/

/-- O45. -/
theorem witness_IdleStep (h : Obligations.IdleStep) :
    State.reset.goOn.pending = [] ∧ step State.reset = .next (st m0.tick) ∧
    step (st { m0 with down := true }) = .next (st { m0 with down := true }) := by
  exact ⟨((h State.reset rfl).1 (by decide +kernel)).1, (h State.reset rfl).2.1 (by decide +kernel) rfl rfl rfl rfl,
    (h (st { m0 with down := true }) rfl).2.2 rfl⟩

/-- A queue with the longest register write in front. -/
def queued : State := ⟨m0, [.registerWrite (.headland 0) 0 64 0, .snap (.headland 0)]⟩

/-- O48. -/
theorem witness_QueueOkKept (h : Obligations.QueueOkKept) (h1 : Obligations.EveryCommandAnswers) :
    QueueOk queued ∧ ∃ t, step queued = .next t ∧ QueueOk t := by
  have q : QueueOk queued := List.forall_iff_forall_mem.1 ⟨rfl, rfl⟩
  obtain ⟨m, e⟩ := h1 (.registerWrite (.headland 0) 0 64 0) ⟨m0, [.snap (.headland 0)]⟩
  exact ⟨q, _, e, h _ _ q e⟩

/-- O49: the greatest opcode. -/
theorem witness_VectorEncoding (h : Obligations.VectorEncoding) (i : VInst) :
    decodeVInst (encodeVInst 255 i).1 (encodeVInst 255 i).2 = some (255, i) := (h 255 i (by decide)).1

/-- O50: a 32-bit access off its alignment, and one of 64 bytes. -/
theorem witness_RegisterWidths (h : Obligations.RegisterWidths) :
    Runs (.accessNotPerformed (.headland 0) 0xF00000000002 4 true) State.reset ∧ Runs (.accessNotPerformed (.headland 0) 0xF00000000000 64 false) State.reset := by
  exact ⟨done (h.2.2.2 State.reset (.headland 0) 0xF00000000002 4 (by decide +kernel) (by decide +kernel) (by decide +kernel) true),
    done (h.2.2.2 State.reset (.headland 0) 0xF00000000000 64 (by decide +kernel) (by decide +kernel) (by decide +kernel) false)⟩

/-- O52: a partner in the place of the owner; a write of the queue base, which has no row of its own. -/
theorem witness_OwnerOnlyWrites (h : Obligations.OwnerOnlyWrites) :
    Runs (.create (.headland 0) 63) State.reset ∧ Runs (.bwWindowWrite (.headland 0) 4 true 0) (st (m0.fset Reg.BW_ID_FITTED 1)) ∧
    (∀ d : RegDef, Reg.rowAt Reg.SG_WQ_BASE = some d →
      Runs (.registerWrite (.headland 0) (BitVec.ofNat 52 Reg.SG_WQ_BASE) 8 0) (st (m0.fset Reg.BW_ID_FITTED 1))) ∧
    (Reg.rowAt Reg.SG_WQ_BASE).isSome = true := by
  refine ⟨ran ((h State.reset (.headland 0) ?_ ?_).1 63 0 0 0 0 0 false [] (.create (.headland 0) 63, Reg.HB_JOB_CMD) List.mem_cons_self),
    ran (((h (st (m0.fset Reg.BW_ID_FITTED 1)) (.headland 0) ?_ ?_).2.1 4 true 0 0 ?_).1 ?_), fun d e => ran
      ((h (st (m0.fset Reg.BW_ID_FITTED 1)) (.headland 0) ?_ ?_).2.2 (BitVec.ofNat 52 Reg.SG_WQ_BASE) 8 0 d ?_ ?_ e ?_ ?_ ?_ ?_ (Or.inl ?_) ?_), ?_⟩
  all_goals first | (intro x; revert x; simp only [MayOwn]; decide +kernel) | decide +kernel

/-- O53: no owner, and each way a claim falls; a release by the owner and by another. -/
theorem witness_ClaimRules (h : Obligations.ClaimRules) :
    Runs (.claim [(.headland 0)]) (st (m0.fset Reg.HL_DRV_OWNER_OWNER 3)) ∧ Runs (.claim [.host 1, .host 0]) State.reset ∧
    Runs (.release (.headland 0)) (st (m0.fset Reg.HL_DRV_OWNER_OWNER 1)) ∧ Runs (.release (.host 1)) (st (m0.fset Reg.HL_DRV_OWNER_OWNER 1)) := by
  refine ⟨ran (((h (st (m0.fset Reg.HL_DRV_OWNER_OWNER 3)) ?_).1 [(.headland 0)]).1 ?_), done (((h State.reset ?_).1 [.host 1, .host 0]).2 ?_),
    done (((h (st (m0.fset Reg.HL_DRV_OWNER_OWNER 1)) ?_).2 (.headland 0) ?_).1 ?_ ?_),
    ran (((h (st (m0.fset Reg.HL_DRV_OWNER_OWNER 1)) ?_).2 (.host 1) ?_).2 ?_)⟩ <;> decide +kernel

/-- Rows of the register tables with an RW field and a W1C field. -/
def wqRow : RegDef := ⟨"SG_WQ_BASE", Reg.SG_WQ_BASE, [], [⟨12, 40, .rw, 0⟩, ⟨0, 5, .rw, 0⟩]⟩
def alertRow : RegDef := ⟨"LH_ALERT", Reg.LH_ALERT, [], [⟨0, 1, .w1c, 0⟩]⟩
def alertSet : Mach := m0.fset Reg.LH_ALERT_SENSOR 1

/-- O51: an RW bit takes a 1, a W1C bit clears, a bit beyond the mask and a reserved bit stay. -/
theorem witness_AccessCodes (h : Obligations.AccessCodes) :
    (m0.written wqRow ⟨Reg.SG_WQ_BASE, 1, 1⟩).getLsbD 0 = true ∧ (alertSet.written alertRow ⟨Reg.LH_ALERT, 1, 1⟩).getLsbD 0 = false ∧
    (m0.written wqRow ⟨Reg.SG_WQ_BASE, 1, 0⟩).getLsbD 0 = (m0.rget Reg.SG_WQ_BASE).getLsbD 0 ∧
    (m0.written wqRow ⟨Reg.SG_WQ_BASE, 64, 64⟩).getLsbD 6 = (m0.rget Reg.SG_WQ_BASE).getLsbD 6 := by
  refine ⟨((h m0 wqRow ⟨Reg.SG_WQ_BASE, 1, 1⟩ 0 ?_).2.2.1 ?_ ?_ ?_).trans ?_,
    ((h alertSet alertRow ⟨Reg.LH_ALERT, 1, 1⟩ 0 ?_).2.2.2 ?_ ?_ ?_ ?_).trans ?_,
    (h m0 wqRow ⟨Reg.SG_WQ_BASE, 1, 0⟩ 0 ?_).2.1 ?_, (h m0 wqRow ⟨Reg.SG_WQ_BASE, 64, 64⟩ 6 ?_).1 ?_ ?_ (Or.inl ?_)⟩ <;> decide +kernel

/-- O54: a write across a line's end, which is made; memory right after reset, and an errored read. -/
theorem witness_MemoryWrites (h : Obligations.MemoryWrites) :
    (m0.memWrite 0 63 [1, 2]).1.peeks 0 63 2 = [1, 2] ∧ (m0.memWrite 0 63 [1, 2]).1.peek 0 65 = m0.peek 0 65 ∧
    (m0.memWrite 0 63 [1, 2]).1.peek 5 128 = m0.peek 5 128 ∧ Runs (.demandRead 0 0 [(35, 1)]) State.reset := by
  exact ⟨(h.1 m0 0 63 [1, 2]).2 (by decide +kernel), (h.1 m0 0 63 [1, 2]).1 65 0 (by decide) (by decide),
    (h.1 m0 0 63 [1, 2]).1 128 5 (by decide) (by decide),
    done (h.2 State.reset (.headland 0) 0 0 0 [(35, 1)] [] (by decide +kernel) _ List.mem_cons_self)⟩

def full : Mach := { m0 with log := { m0.log with buf := List.replicate 4096 ⟨0, 0, true, 1, 0, 0, 0, 0, []⟩ } }

theorem full_length : 4096 ≤ full.log.buf.length := by
  show 4096 ≤ (List.replicate 4096 _).length
  exact Nat.le_of_eq List.length_replicate.symm

/-- O55: the buffer one short of full, and full. -/
theorem witness_LogRecords (h : Obligations.LogRecords) (d : List Nat) :
    (m0.logD 1 0 0 0 0 d).log.buf.length = 1 ∧ (full.logD 1 0 0 0 0 d).log.lost = m0.log.lost + 1 := by
  exact ⟨by rw [((h m0 1 0 0 0 0 d).1 (by decide)).1]; rfl, ((h full 1 0 0 0 0 d).2.1 full_length).2.1⟩

/-- O56: a live job whose step is open; a count of each kind. -/
theorem witness_FlagRules (h : Obligations.FlagRules) :
    ((live j1).flagFinal 1 true).fget (Reg.HB_FIN_STATE_FINITE 1) = 0 ∧
    ((live j1).addStepNf 1 j1.step 1 5).fget (Reg.HB_FIN_STATE_LOCAL_NF 1) = 1 ∧
    ((live j1).addStepNf 1 (j1.step + 1) 2 5).regs = (live j1).regs ∧ ((live j1).flagBoundary 1 j1).fget (Reg.HB_FIN_PREV_VALID 1) = 1 := by
  have e : (live j1).job? 1 = some j1 := by decide +kernel
  have f := h (live j1) 1 j1 (by decide) e
  exact ⟨(f.1 true).2.1, (f.2.1 1 5 (by decide) (by decide) (by decide +kernel) (by decide +kernel)).1,
    (f.2.2.1 2 5 (by decide) (by decide)).1, (f.2.2.2 (by decide +kernel) (by decide +kernel)).2.1⟩

/-- O58. -/
theorem witness_VectorFrame (h : Obligations.VectorFrame) (i : VInst) : Runs (.viota ⟨3, 47⟩ i) State.reset :=
  done (h State.reset ⟨3, 47⟩ i (by decide +kernel) _ (List.mem_append_right _ List.mem_cons_self))

/-- O59: unset; standing still; and a count that leaves room. -/
theorem witness_TideForward (h : Obligations.TideForward) :
    m0.tick.rget Reg.TD_NOW = m0.rget Reg.TD_NOW ∧
    (m0.fset Reg.TD_STATE_STILL 1).tick.rget Reg.TD_NOW = (m0.fset Reg.TD_STATE_STILL 1).rget Reg.TD_NOW ∧
    ((tdSt 2 1 0 m0.td).m.tick.rget Reg.TD_NOW).toNat ≤ ((tdSt 2 1 0 m0.td).m.rget Reg.TD_NOW).toNat + 2 := by
  exact ⟨(h m0).2.1 (by decide +kernel), (h (m0.fset Reg.TD_STATE_STILL 1)).2.2.1 (by decide +kernel),
    ((h (tdSt 2 1 0 m0.td).m).2.2.2.1 (by decide +kernel)).2⟩

/-! Ill-formed terms: one for each check -/

theorem test_refuses_size : wellFormed (.registerWrite (.headland 0) 0 65 0) = false ∧ wellFormed (.unassignedAccess (.headland 0) 0 0 false) = false := by decide
theorem test_refuses_write_past_line : wellFormed (.nonCachingWrite (.agent 20) 63 0 (.store [1, 2])) = false ∧
    wellFormed (.nonCachingWrite (.agent 20) 4 0 (.atomic .iadd64 1)) = false := by decide
theorem test_refuses_symbol_twice : wellFormed (.demandRead 0 0 [(1, 1), (1, 2)]) = false ∧ wellFormed (.scrub 0 [(1, 0)]) = false := by decide
theorem test_refuses_codeword_past_unit : wellFormed (.codewordWrite 31 0 [1, 2]) = false := by decide
theorem test_refuses_request_of_other_length : wellFormed (.partnerRequest .write 0 2 (.store [1])) = false := by decide
theorem test_refuses_half_line : wellFormed (.cxlMemRequest 0 0 (some [1])) = false := by decide
theorem test_refuses_hops : wellFormed (.fabricFlit 0 0 0 true ⟨some ⟨0, 64, 0, []⟩, none⟩) = false := by decide
theorem test_refuses_boot_listed_twice : wellFormed (.powerOn { boot0 with badStacks := [1, 1] }) = false := by decide
theorem test_refuses_group_twice : wellFormed (.limtosFlit 0 true 0 [⟨1, 0, 0⟩, ⟨1, 0, 0⟩]) = false := by decide
theorem test_refuses_part_twice : wellFormed (.migrationComplete 0 [1, 1]) = false := by decide
theorem test_refuses_no_claimant : wellFormed (.claim []) = false ∧ wellFormed (.claim [(.headland 0), (.headland 0)]) = false := by decide
theorem test_refuses_empty_message : wellFormed (.remoteWrite 0 ⟨0, 0, 0, 0, [], none⟩) = false := by decide
theorem test_refuses_empty_shard : wellFormed (.shardOffer { offer0 with data := [] }) = false := by decide
theorem test_refuses_sensor_twice : wellFormed (.sensorSample ⟨[(1, 0), (1, 0)], []⟩) = false := by decide
theorem test_refuses_missing_source : wellFormed (.ageingFit ⟨[], [0], [0, 0, 0, 0], none⟩) = false := by decide
theorem test_refuses_empty_staging : wellFormed (.recoveryData []) = false := by decide
theorem test_refuses_certificate_offset : wellFormed (.getCertificate 0 65536 0) = false := by decide

/-! Numbers: values by hand from the formats of R25 to R34 and the operations of R93 -/

/-- FP32: 1 + 1 = 2; the least subnormal halved ties to even, 0; 2^127 × 2 is an infinity. -/
theorem test_fp32_lanes : laneOp 0x01 0 0x3F800000 0x3F800000 0 = 0x40000000 ∧ laneOp 0x03 0 0x00000001 0x3F000000 0 = 0 ∧
    laneOp 0x03 0 0x7F000000 0x40000000 0 = 0x7F800000 := by decide +kernel

/-- A fused product keeps its low bits: (1 + 2^-23)^2 − (1 + 2^-22) = 2^-46. -/
theorem test_fused : laneOp 0x04 0 0x3F800001 0x3F800001 0xBF800002 = 0x28800000 := by decide +kernel

/-- E4M3 saturates 1024 to 448, code 0x7E. -/
theorem test_e4m3_saturates : (Fmt.e4m3.encode .rne true (.fin false 1 10)).1 = 0x7E := by decide +kernel

/-- I16: −32768 − 1 wraps to 32767; −1 shifted right by 17 mod 16 stays −1. -/
theorem test_i16_lanes : laneOp 0x21 3 0x8000 1 0 = 0x7FFF ∧ laneOp 0x28 3 0xFFFF 17 0 = 0xFFFF := by decide +kernel

/-- CRC-64/XZ of the nine digits is its published check value (R377). -/
theorem test_crc64 : crc64 ([0x31, 0x32, 0x33, 0x34, 0x35, 0x36, 0x37, 0x38, 0x39] : List Byte) = 0x995DC9BBDF1939FA := by decide +kernel

/-! One command each, on a small state -/

/-- R7: an access that is not performed reads all ones and takes the log's first record. -/
theorem test_access_not_performed :
    After (.accessNotPerformed (.headland 0) 0xF00000000002 8 false) State.reset (fun m => (m.out, m.fget Reg.LH_LOG_HEAD_SEQ))
      ([.regData (BitVec.allOnes 64)], 1) = true := by decide +kernel

/-- R197: a first RDS of a line is granted Exclusive or Shared and leaves an entry. -/
theorem test_rds_tracks : After (.rds 20 5) State.reset (fun m => m.dir.ents.length) 1 = true := by decide +kernel

/-- R259: of two claims at once port 0's wins. -/
theorem test_claim_order : After (.claim [.host 1, .host 0]) State.reset (fun m => m.fget Reg.HL_DRV_OWNER_OWNER) 2 = true := by decide +kernel

/-- R258: another agent's command changes nothing but the log. -/
theorem test_not_owner : After (.create (.headland 0) 1) State.reset (fun m => (m.fget Reg.HB_JOB_STATUS_BUSY, m.fget Reg.LH_LOG_HEAD_SEQ)) (0, 1) = true := by
  decide +kernel

/-- R106: CREATE makes context 1 live. -/
theorem test_create : After (.create .lighthouse 1) (st (mem 0x1000 jd (put [(Reg.HB_FW_VER_FWVER 4, 1), (Reg.HB_JOB_ARG_DESC, 0x1000)] m0)))
    (fun m => (m.live 1, m.fget Reg.HB_JOB_STATUS_STATUS)) (true, 0) = true := by decide +kernel

/-- R106: a descriptor whose version is 0 is refused with 0x0202, and no context is live. -/
theorem test_create_version : After (.create .lighthouse 1) (st (mem 0x1000 (jd.set 15 0) (put [(Reg.HB_FW_VER_FWVER 4, 1),
    (Reg.HB_JOB_ARG_DESC, 0x1000)] m0))) (fun m => (m.live 1, m.fget Reg.HB_JOB_STATUS_STATUS)) (false, 0x0202) = true := by decide +kernel

/-- R108: a tail more than the ring past its head stops the ring and is not taken. -/
theorem test_doorbell_past_ring : After (.sqDoorbell (.headland 0) 1 0 65) (st (live j1))
    (fun m => m.fget (Reg.HB_DB_SQ_HEAD_STOPPED 1 0)) 1 = true := by decide +kernel

/-- R113: a NOP completes at once: no command is left. -/
theorem test_nop : After (.nop .harbour) (cmds [cmd 1 192 0 .queued (seqBody 1 0 0)]) (fun m => m.js.cmds.length) 0 = true := by
  decide +kernel

/-- R121: FILL takes its place in the mover. -/
theorem test_fill_runs : After (.fill ⟨0, 0⟩) (atHead0 0 4 (dmBody 2)) (fun m => m.js.cmds.length) 1 = true := by decide +kernel

/-- R181: a walk fills the TLB; one that meets an empty entry does not. -/
theorem test_walk : After (.pageWalk (.engine ⟨0, 0⟩ .mover) 1 0 .read) (st (paged (live j1))) (fun m => decide (m.xl.tlb.length = 0)) false = true ∧
    After (.pageWalk (.harbour 22) 1 0x80000000000 .read) (st (paged (live j1))) (fun m => m.xl.tlb.length) 0 = true := by decide +kernel

/-- R308: light lost on a lane takes it out with cause 2. -/
theorem test_loss_of_light : After (.lossOfLight 63) (laneSt 2 0 m0.sw)
    (fun m => (m.fget (Reg.SW_LANE_STATE 63), m.fget (Reg.SW_LANE_CAUSE 63))) (3, 2) = true := by decide +kernel

/-- R325: a PRIMARY that hears no lower key becomes master in generation 1. -/
theorem test_master : After .electWaitExpiry (tdSt 0 2 0 m0.td) (fun m => (m.fget Reg.TD_STATE_STATE, m.fget Reg.TD_STATE_GENERATION)) (2, 1) = true := by
  decide +kernel

/-- R365: a version above IFMAX is refused with 0x0202 and SELECT stays. -/
theorem test_interface : After (.interfaceSelect (.headland 0) 15) (st (put [(Reg.HB_FW_IFACE_IFMAX, 3), (Reg.HB_FW_IFACE_IFMIN, 1),
    (Reg.HB_FW_IFACE_SELECT, 2)] m0)) (fun m => (m.fget Reg.HB_FW_IFACE_SELECT, m.fget Reg.HB_FW_IFACE_STATUS)) (2, 0x0202) = true := by decide +kernel

/-- R362: a third fault within 60 s holds the component. -/
theorem test_third_fault : After (.componentFault 194) (fwArgs [] none [0, 0]) (fun m => m.fget (Reg.HB_FW_FAULT_HELD 194)) 1 = true := by
  decide +kernel

/-- R374: ARM of a plan that passes: the context is ARMED. -/
theorem test_arm : After (.tidemarkArm (.headland 0) 1) (tmSt tmFresh [] none) (fun m => (m.fget (Reg.HB_TM_STATE_STATE 1),
    m.fget (Reg.HB_TM_STATE_STATUS 1))) (1, 0) = true := by decide +kernel

/-- R376: TAKE at step 0 sets the target of step 2. -/
theorem test_take : After (.take (.headland 0) 1) (tmSt tmj [] none) (fun m => (m.fget (Reg.HB_TM_STATE_STATE 1),
    m.fget (Reg.HB_TM_STATE_TARGET 1))) (2, 2) = true := by decide +kernel

/-- R423: 44.9 V for 2 ms takes the module down; for less it does nothing. -/
theorem test_under_voltage : After (.underVoltage 44900 2000) State.reset (fun m => m.down) true = true ∧
    After (.underVoltage 44900 1999) State.reset (fun m => m.down) false = true := by decide +kernel

/-- R447: a short press at OFF selects bay 0. -/
theorem test_short_press : After .shortPress (frSt 0 3 []) (fun m => (m.front, m.frontBay)) (1, 0) = true := by decide +kernel

/-- R418: STAGE in target 3 is refused with 0x0203. -/
theorem test_stage_target : After (.updateStage .lighthouse 3) State.reset (fun m => m.fget Reg.LH_UPD_STATUS_STATUS) 0x0203 = true := by decide +kernel

/-- R391: with nothing on the flash, POWER_ON ends in ROM recovery. -/
theorem test_power_on_empty : After (.powerOn boot0) (pwSt .off []) (fun m => m.lh.power) .rom = true := by decide +kernel

/-- A step takes the front command and leaves the rest. -/
theorem test_step_queue : (match step ⟨m0, [.snap (.headland 0), .electWaitExpiry]⟩ with
    | .next t => decide (t.pending = [.electWaitExpiry])
    | _ => false) = true := by decide +kernel

/-- The table gives no row any bits: no word spells a command. -/
theorem test_decode_none : decodeTableWord 64 0 = none := rfl

/-- R294: bicubic weights with a = −0.5, half a pixel along, are −1/16, 9/16, 9/16, −1/16; the bilinear ones a quarter along 3/4, 1/4, in
units of 2^-14. -/
theorem test_scale_weights : tapWeights true 128 = (-1, [-1024, 9216, 9216, -1024]) ∧ tapWeights false 64 = (0, [12288, 4096]) := by
  decide +kernel

/-- FIPS 180-4's examples, on the message abc. -/
theorem test_sha384 : beNat (sha384 [0x61, 0x62, 0x63]) =
    0xcb00753f45a35e8bb5a03d699ac65007272c32ab0eded1631a8b605a43ff5bed8086072ba1e7cc2358baeca134c825a7 := by decide +kernel
theorem test_sha256 : beNat (sha256 [0x61, 0x62, 0x63]) =
    0xba7816bf8f01cfea414140de5dae2223b00361a396177a9cb410ff61f20015ad := by decide +kernel

/-- The base point of P-384 is a point of the curve, and its double has the published abscissa. -/
theorem test_curve : ecKey ([0x04] ++ beBytes 48 (ecG.getD (0, 0)).1 ++ beBytes 48 (ecG.getD (0, 0)).2) = ecG ∧
    (ecAdd ecG ecG).map Prod.fst = some
      0x08D999057BA3D2D969260045C55B97F089025959A6F434D651D207D19FB96E9E4FE0E86EBE0E64F85B96A9C75295DF61 := by decide +kernel

/-- R310: a message of 481 bytes takes three flits; an acknowledgement through the second leaves the third in the replay buffer, and a
refusal of the second sends it and the third again. -/
theorem test_replay :
    let s := st ((put [(Reg.SW_LANE_STATE 0, 2), (Reg.SW_PORT_VERSION 0, 1), (Reg.SW_PORT_LANES 0, 1)] m0).fabSend 0 [3] (List.replicate 481 1))
    After (.fabricFlit 0 0 0 true ⟨none, some (1, true)⟩) s (fun m => (sget [] 0 m.sw.replay).map (fun f => (f.seq, f.data.length))) [(2, 1)] = true ∧
    After (.fabricFlit 0 0 0 true ⟨none, some (1, false)⟩) s (fun m => m.out.length) (s.m.out.length + 3) = true := by decide +kernel

end Sys2Proof.Tests
end

section
/-!
PROOFS. Register accesses: what a record in the event log leaves of the machine, what an access that is turned away leaves, which
half of a register a write reaches, and the statements O1, O50 and O51 (R7, R8, R15, R18, R19, R252, R458).
-/

namespace Sys2Proof.Machine

/-! The event log (R413) -/

/-- A record changes nothing but the log, its registers and the interrupts that wait. -/
theorem logD_frame (m : Mach) (event status unit job addr : Nat) (data : List Nat) :
    ∃ r l q, m.logD event status unit job addr data = { m with regs := r, log := l, irq := q } := by
  simp only [Mach.logD, Mach.raise]
  repeat' split
  all_goals exact ⟨_, _, _, rfl⟩

@[simp] theorem logE_mem (m : Mach) (event status unit job addr : Nat) : (m.logE event status unit job addr).mem = m.mem := by
  obtain ⟨r, l, q, e⟩ := logD_frame m event status unit job addr []; rw [Mach.logE, e]
@[simp] theorem logE_dir (m : Mach) (event status unit job addr : Nat) : (m.logE event status unit job addr).dir = m.dir := by
  obtain ⟨r, l, q, e⟩ := logD_frame m event status unit job addr []; rw [Mach.logE, e]
@[simp] theorem logE_js (m : Mach) (event status unit job addr : Nat) : (m.logE event status unit job addr).js = m.js := by
  obtain ⟨r, l, q, e⟩ := logD_frame m event status unit job addr []; rw [Mach.logE, e]
@[simp] theorem logE_xl (m : Mach) (event status unit job addr : Nat) : (m.logE event status unit job addr).xl = m.xl := by
  obtain ⟨r, l, q, e⟩ := logD_frame m event status unit job addr []; rw [Mach.logE, e]
@[simp] theorem logE_nv (m : Mach) (event status unit job addr : Nat) : (m.logE event status unit job addr).nv = m.nv := by
  obtain ⟨r, l, q, e⟩ := logD_frame m event status unit job addr []; rw [Mach.logE, e]
@[simp] theorem logE_out (m : Mach) (event status unit job addr : Nat) : (m.logE event status unit job addr).out = m.out := by
  obtain ⟨r, l, q, e⟩ := logD_frame m event status unit job addr []; rw [Mach.logE, e]

theorem rget_fadd_ne (m : Mach) (f : Fld) (n b : Nat) (h : b ≠ f.reg) : (m.fadd f n).rget b = m.rget b :=
  rget_fset_ne m f _ b h

/-- A record moves three registers of Lighthouse and no other. -/
theorem logD_rget (m : Mach) (event status unit job addr : Nat) (data : List Nat) (r : Nat) (head : r ≠ Reg.LH_LOG_HEAD)
    (lost : r ≠ Reg.LH_LOG_LOST) (alert : r ≠ Reg.LH_ALERT) : (m.logD event status unit job addr data).rget r = m.rget r := by
  have dropped (x : Mach) : ((x.fadd Reg.LH_LOG_LOST_LOST 1).fset Reg.LH_ALERT_LOG 1).rget r = x.rget r :=
    (rget_fset_ne _ _ _ _ alert).trans (rget_fadd_ne _ _ _ _ lost)
  simp only [Mach.logD]
  split
  · split
    · rw [raise_rget, dropped]; rfl
    · rw [dropped]; rfl
  · rw [rget_fadd_ne _ _ _ _ head]; rfl

/-- While the buffer has room it takes the record at its end. -/
theorem logE_buf (m : Mach) (event status unit job addr : Nat) (room : m.log.buf.length < 4096) :
    (m.logE event status unit job addr).log.buf =
      m.log.buf ++ [⟨m.fget Reg.LH_LOG_HEAD_SEQ, m.now, m.tideUnset, event, status, unit, job, addr, []⟩] := by
  simp only [Mach.logE, Mach.logD, if_neg (Nat.not_le.mpr room)]
  rfl

/-! Accesses that are turned away (R7, R15, R252) -/

/-- An access fault changes the state of the harts alone. -/
theorem accessFault_frame (m : Mach) (h code : Nat) (addr : Word) : ∃ x, m.accessFault h code addr = m.setHl x := by
  obtain ⟨c, pc, q, e⟩ := hartTrap_frame (m.setHl { m.hl with
    trap := sset none h (some (code, addr.toNat)) m.hl.trap
    resv := sset none h none m.hl.resv
    broken := sset false h false m.hl.broken
    waiting := sset false h false m.hl.waiting }) h false code addr
  exact ⟨_, by rw [Mach.accessFault, e, setHl_setHl]⟩

/-- A hart of Headland takes an access fault for the access. -/
theorem turnedAway_headland (m : Mach) (h : Fin 64) (addr : Nat) (wr : Bool) :
    m.turnedAway (.headland h) addr wr =
      (m.notPerformed addr wr).accessFault h.val (if wr then 7 else 5) (BitVec.ofNat 64 addr) := rfl

/-- No other agent takes one. -/
theorem turnedAway_other (m : Mach) (a : Agent) (addr : Nat) (wr : Bool) (other : ∀ h : Fin 64, a ≠ .headland h) :
    m.turnedAway a addr wr = m.notPerformed addr wr := by
  cases a with
  | headland h => exact absurd rfl (other h)
  | _ => rfl

/-- Beyond the record and a read's answer, an access that is turned away changes at most the state of the harts. -/
theorem turnedAway_frame (m : Mach) (a : Agent) (addr : Nat) (wr : Bool) :
    ∃ x, m.turnedAway a addr wr = (m.notPerformed addr wr).setHl x := by
  cases a with
  | headland h => exact accessFault_frame _ _ _ _
  | _ => exact ⟨(m.notPerformed addr wr).hl, rfl⟩

theorem notPerformed_write (m : Mach) (addr : Nat) : m.notPerformed addr true = m.logE 0x01 0 0 noJob addr := rfl
theorem notPerformed_read (m : Mach) (addr : Nat) :
    m.notPerformed addr false = (m.logE 0x01 0 0 noJob addr).emit (.regData (BitVec.allOnes 64)) := rfl

/-- What R7 says of an access that is not performed: nothing changes but the log and its registers, a read answers all ones, and the
log takes a record that names the address. -/
theorem turnedAway_effect (m : Mach) (a : Agent) (addr : Nat) (wr : Bool) :
    (m.turnedAway a addr wr).mem = m.mem ∧ (m.turnedAway a addr wr).dir = m.dir ∧ (m.turnedAway a addr wr).js = m.js ∧
    (m.turnedAway a addr wr).xl = m.xl ∧ (m.turnedAway a addr wr).nv = m.nv ∧
    (∀ r : Nat, r ≠ Reg.LH_LOG_HEAD → r ≠ Reg.LH_LOG_LOST → r ≠ Reg.LH_ALERT → (m.turnedAway a addr wr).rget r = m.rget r) ∧
    (m.turnedAway a addr wr).out = (if wr then m.out else .regData (BitVec.allOnes 64) :: m.out) ∧
    (m.log.buf.length < 4096 → ∃ e : LogEnt, (m.turnedAway a addr wr).log.buf = m.log.buf ++ [e] ∧ e.addr = addr) := by
  obtain ⟨x, e⟩ := turnedAway_frame m a addr wr
  rw [e]
  have logged (r : Nat) (head : r ≠ Reg.LH_LOG_HEAD) (lost : r ≠ Reg.LH_LOG_LOST) (alert : r ≠ Reg.LH_ALERT) :
      (m.logE 0x01 0 0 noJob addr).rget r = m.rget r := logD_rget m _ _ _ _ _ _ r head lost alert
  cases wr with
  | true =>
    rw [notPerformed_write]
    exact ⟨logE_mem .., logE_dir .., logE_js .., logE_xl .., logE_nv .., logged, logE_out ..,
      fun room => ⟨_, logE_buf _ _ _ _ _ _ room, rfl⟩⟩
  | false =>
    rw [notPerformed_read]
    exact ⟨logE_mem .., logE_dir .., logE_js .., logE_xl .., logE_nv .., logged, congrArg _ (logE_out ..),
      fun room => ⟨_, logE_buf _ _ _ _ _ _ room, rfl⟩⟩

/-- ACCESS_NOT_PERFORMED where its condition holds. -/
theorem accessNotPerformed_gives (s : State) (a : Agent) (addr : BitVec 52) (size : Nat) (wr : Bool) (on : On s)
    (tier : tierOf addr.toNat = .registers) (bad : accessOk addr.toNat size = false) :
    Gives (.accessNotPerformed a addr size wr) s (s.m.turnedAway a addr.toNat wr) := by
  rw [Gives, exec_accessNotPerformed, execAccessNotPerformed, act_on _ _ on, if_pos ⟨tier, by simp [bad]⟩]

/-- UNASSIGNED_ACCESS where its condition holds. -/
theorem unassignedAccess_gives (s : State) (a : Agent) (addr : BitVec 52) (size : Nat) (wr : Bool) (on : On s)
    (tier : tierOf addr.toNat = .registers) (ok : accessOk addr.toNat size = true) (free : Reg.rowAt (addr.toNat / 8 * 8) = none)
    (outside : addr.toNat < apertureBase ∨ apertureBase + 0x800000 ≤ addr.toNat) :
    Gives (.unassignedAccess a addr size wr) s (s.m.turnedAway a addr.toNat wr) := by
  have o : (!(decide (apertureBase ≤ addr.toNat) && decide (addr.toNat < apertureBase + 0x800000))) = true := by
    simp only [Bool.not_eq_true', Bool.and_eq_false_iff, decide_eq_false_iff_not]; omega
  rw [Gives, exec_unassignedAccess, execUnassignedAccess, act_on _ _ on, if_pos ⟨tier, ok, free, o⟩]

/-! Ranges that no table gives a place, and Shingle (R18, R19, R252) -/

section
variable {s : State} {a : Agent} {addr : BitVec 52}

theorem reservedRange_write (on : On s) (coherent : Agent.coherent a = true)
    (tier : tierOf addr.toNat = .reserved ∨ tierOf addr.toNat = .shingleBeyond) :
    Gives (.reservedRangeAccess a addr true) s (s.m.logE 0x02 0 0 noJob addr.toNat) := by
  rw [Gives, exec_reservedRangeAccess, execReservedRangeAccess, act_on _ _ on]
  simp only [if_pos (And.intro coherent (or_assoc.mp (Or.inl tier)))]
  rfl

theorem reservedRange_read_other (on : On s) (coherent : Agent.coherent a = true)
    (tier : tierOf addr.toNat = .reserved ∨ tierOf addr.toNat = .shingleBeyond) (other : ∀ h : Fin 64, a ≠ .headland h) :
    Gives (.reservedRangeAccess a addr false) s
      ((s.m.logE 0x02 0 0 noJob addr.toNat).emit (.data 63 addr.toNat [] true)) := by
  rw [Gives, exec_reservedRangeAccess, execReservedRangeAccess, act_on _ _ on]
  simp only [if_pos (And.intro coherent (or_assoc.mp (Or.inl tier)))]
  cases a with
  | headland h => exact absurd rfl (other h)
  | _ => rfl

theorem reservedRange_read_headland (h : Fin 64) (on : On s)
    (tier : tierOf addr.toNat = .reserved ∨ tierOf addr.toNat = .shingleBeyond) :
    Gives (.reservedRangeAccess (.headland h) addr false) s
      (((s.m.logE 0x02 0 0 noJob addr.toNat).emit (.data 63 addr.toNat [] true)).accessFault h.val 5 (addr.setWidth 64)) := by
  have coherent : Agent.coherent (.headland h) = true := rfl
  rw [Gives, exec_reservedRangeAccess, execReservedRangeAccess, act_on _ _ on]
  simp only [if_pos (And.intro coherent (or_assoc.mp (Or.inl tier)))]
  rfl

theorem shingleWriteDiscard_gives (on : On s) (coherent : Agent.coherent a = true) (tier : tierOf addr.toNat = .shingle) :
    Gives (.shingleWriteDiscard a addr) s (s.m.logE 0x02 0 0 noJob addr.toNat) := by
  rw [Gives, exec_shingleWriteDiscard, execShingleWriteDiscard, act_on _ _ on, if_pos ⟨coherent, tier⟩]

end

/-! Widths and alignments (R7) -/

theorem accessOk_iff (addr size : Nat) : accessOk addr size = true ↔ (size = 8 ∧ 8 ∣ addr) ∨ (size = 4 ∧ 4 ∣ addr) := by
  simp only [accessOk, Bool.or_eq_true, Bool.and_eq_true, beq_iff_eq, Nat.dvd_iff_mod_eq_zero]

/-- A 32-bit access at a register's address writes its lower half. -/
theorem regWriteOf_four_low (addr : Nat) (v : Word) (aligned : 8 ∣ addr) :
    regWriteOf addr 4 v = ⟨addr, (v.setWidth 32).setWidth 64, 0x00000000FFFFFFFF#64⟩ := by
  have whole : addr / 8 * 8 = addr := Nat.div_mul_cancel aligned
  have low : addr % 8 = 0 := Nat.mod_eq_zero_of_dvd aligned
  have val : BitVec.ofNat 64 (v.toNat % 2 ^ 32 * 2 ^ 0) = (v.setWidth 32).setWidth 64 := by
    apply BitVec.eq_of_toNat_eq; simp
  simp [regWriteOf, whole, low, ← val]

/-- One four bytes further on writes its upper half. -/
theorem regWriteOf_four_high (addr : Nat) (v : Word) (aligned : 8 ∣ addr) :
    (regWriteOf (addr + 4) 4 v).reg = addr ∧ (regWriteOf (addr + 4) 4 v).mask = 0xFFFFFFFF00000000#64 := by
  have whole : (addr + 4) / 8 * 8 = addr := by omega
  have high : (addr + 4) % 8 = 4 := by omega
  simp [regWriteOf, whole, high]

/-- Settles O50: the widths by arithmetic, and every other access by what an access that is turned away leaves. -/
theorem registerWidths : Obligations.RegisterWidths := by
  refine ⟨accessOk_iff, fun addr v => ⟨rfl, rfl⟩, fun addr v aligned => ?_, fun s a addr size on tier bad wr => ?_⟩
  · obtain ⟨reg, mask⟩ := regWriteOf_four_high addr v aligned
    rw [regWriteOf_four_low addr v aligned]
    exact ⟨rfl, rfl, reg, mask⟩
  · exact ⟨_, accessNotPerformed_gives s a addr size wr on tier bad, turnedAway_effect s.m a addr.toNat wr⟩

/-! Access codes (R8) -/

/-- A bit of the mixed word: the new one where the mask has a 1, the old one elsewhere. -/
theorem getLsbD_mix (old new mask : Word) (i : Nat) :
    (mix old new mask).getLsbD i = if mask.getLsbD i then new.getLsbD i else old.getLsbD i := by
  by_cases h : i < 64
  · simp only [mix, BitVec.getLsbD_or, BitVec.getLsbD_and, BitVec.getLsbD_not, h, decide_true, Bool.true_and]
    cases mask.getLsbD i <;> simp
  · simp [BitVec.getLsbD_of_ge _ i (Nat.le_of_not_lt h)]

/-- Whether a write sets a bit: one of an RW field, or of an RWL field that Lighthouse has not locked. -/
def Mach.writable (m : Mach) (d : RegDef) (i : Nat) : Bool :=
  (accMask d .rw).getLsbD i || (!m.lh.booted && (accMask d .rwl).getLsbD i)

/-- Each bit of the value a write leaves. -/
theorem getLsbD_written (m : Mach) (d : RegDef) (w : RegWrite) (i : Nat) (hi : i < 64) :
    (m.written d w).getLsbD i =
      ((if w.mask.getLsbD i && m.writable d i then w.val.getLsbD i else (m.rget w.reg).getLsbD i) &&
        !(w.val.getLsbD i && w.mask.getLsbD i && (accMask d .w1c).getLsbD i)) := by
  have masked : (w.mask &&& (accMask d .rw ||| (if m.lh.booted then 0 else accMask d .rwl))).getLsbD i =
      (w.mask.getLsbD i && m.writable d i) := by
    cases b : m.lh.booted <;> simp [Mach.writable, b]
  simp only [Mach.written, BitVec.getLsbD_and, BitVec.getLsbD_not, getLsbD_mix, hi, decide_true, Bool.true_and, ← masked]

/-- Settles O51, bit by bit from what a write leaves of each. -/
theorem accessCodes : Obligations.AccessCodes := by
  intro m d w i hi
  rw [getLsbD_written m d w i hi]
  refine ⟨fun rw w1c rwl => ?_, fun unmasked => ?_, fun rw w1c masked => ?_, fun w1c rw rwl masked => ?_⟩
  · have kept : m.writable d i = false := by
      rcases rwl with rwl | booted
      · simp [Mach.writable, rw, rwl]
      · simp [Mach.writable, rw, booted]
    simp [kept, w1c]
  · simp [unmasked]
  · simp [Mach.writable, rw, w1c, masked]
  · have kept : m.writable d i = false := by simp [Mach.writable, rw, rwl]
    simp [kept, w1c, masked]

end Sys2Proof.Machine
end

section
/-!
PROOFS. Register writes: a write that only sets its register, one that triggers a command, and the statement O1 (R7, R8, R15, R458).
-/

namespace Sys2Proof.Machine

/-! A write that sets its register (R8) -/

/-- What a quiet register is not. -/
theorem quietReg_iff (r : Nat) : quietReg r = true ↔
    ownerOnly r = false ∧ (∀ c ∈ codeFields, c.1 ≠ r) ∧ r ≠ Reg.LH_LIFE_CMD ∧ r ≠ Reg.HB_DIE_CMD ∧ r ≠ Reg.SG_CQ_HEAD ∧
      r ≠ Reg.SG_CQ_BASE ∧ r ≠ Reg.HB_TM_AREA_LEN ∧ r ≠ Reg.PW_MODE ∧ ¬(Reg.BW_ID < r ∧ r < Reg.HL_ID) ∧ r ≠ Reg.LW_FLINE 0 ∧
      r ≠ Reg.LW_FLINE 1 ∧ ¬(Reg.HB_DB_SQ_TAIL 0 0 ≤ r ∧ r < Reg.HB_DB_SQ_TAIL 64 0) := by
  simp only [quietReg, Bool.and_eq_true, Bool.not_eq_true', bne_iff_ne, List.all_eq_true, Bool.and_eq_false_iff, decide_eq_false_iff_not,
    not_and_or, and_assoc]

/-- A quiet register whose locked bits the write leaves alone takes the bits written. -/
theorem plainWrite_quiet (m : Mach) (d : RegDef) (w : RegWrite) (quiet : quietReg w.reg = true)
    (unlocked : m.lh.booted = false ∨ w.mask &&& accMask d .rwl = 0) : m.plainWrite d w = m.rset w.reg (m.written d w) := by
  obtain ⟨-, codes, life, die, cqHead, cqBase, area, mode, -⟩ := (quietReg_iff w.reg).mp quiet
  have nolog : ¬(m.lh.booted ∧ (w.mask &&& accMask d .rwl) ≠ 0) := by
    rintro ⟨booted, locked⟩
    rcases unlocked with u | u
    · simp [u] at booted
    · exact locked u
  have nocode : codeFields.find? (fun c => c.1 == w.reg) = none :=
    List.find?_eq_none.mpr fun c hc => by simpa using codes c hc
  simp only [Mach.plainWrite, if_neg nolog, Mach.reservedCode, if_neg life, if_neg die, nocode, Mach.afterWrite, cqHead, cqBase, area, mode,
    or_self, false_and, if_false]

/-- Any agent that reaches a quiet register may write it. -/
theorem mayWrite_quiet (m : Mach) (a : Agent) (d : RegDef) (w : RegWrite) (quiet : quietReg w.reg = true) :
    m.mayWrite a d w = m.plainWrite d w := by
  obtain ⟨free, -, -, -, -, -, -, -, partner, line0, line1, page⟩ := (quietReg_iff w.reg).mp quiet
  have inside : ¬(Reg.HB_DB_SQ_TAIL 0 0 ≤ w.reg ∧ (w.reg - Reg.HB_DB_SQ_TAIL 0 0) / 0x10000 < 64) := by
    simp only [Reg.HB_DB_SQ_TAIL] at page ⊢; omega
  simp only [Mach.mayWrite]
  rw [if_neg (fun h => partner ⟨h.1, h.2.1⟩), if_neg (by simp [line0, line1]), if_neg (fun h => inside ⟨h.1, h.2.1⟩),
    if_neg (by simp [free])]

section
variable {s : State} {a : Agent} {addr : BitVec 52} {size : Nat} {v : Word} {d : RegDef}
  (tier : tierOf addr.toNat = .registers) (ok : accessOk addr.toNat size = true)
  (row : Reg.rowAt (regWriteOf addr.toNat size v).reg = some d) (own : s.m.rowFor a (regWriteOf addr.toNat size v) = none)
  (up : s.m.lostWindow (regWriteOf addr.toNat size v).reg = false)
include tier ok row own up

/-- REGISTER_WRITE to a register that no row takes and that triggers nothing. -/
theorem registerWrite_plain (on : On s) (idle : triggers a (.registerWrite a addr size v) (regWriteOf addr.toNat size v) = [])
    (reach : Agent.reaches a (regWriteOf addr.toNat size v).reg = true) :
    Gives (.registerWrite a addr size v) s (s.m.mayWrite a d (regWriteOf addr.toNat size v)) := by
  rw [Gives, exec_registerWrite]
  simp only [execRegisterWrite, tier, ok, row, own, idle, act_on _ _ on, Mach.byAgent, reach, up]
  rfl

/-- REGISTER_WRITE to a register that no row takes and that triggers commands. -/
theorem registerWrite_triggers {f : State → Host.Outcome State Fault Refusal} {fs : List (State → Host.Outcome State Fault Refusal)}
    (cmds : triggers a (.registerWrite a addr size v) (regWriteOf addr.toNat size v) = f :: fs) :
    exec (.registerWrite a addr size v) s = runAll (f :: fs) s := by
  rw [exec_registerWrite]
  simp only [execRegisterWrite, tier, ok, row, own, cmds, up]
  rfl

/-- A write that only sets its register. -/
theorem registerWrite_quiet (on : On s) (idle : triggers a (.registerWrite a addr size v) (regWriteOf addr.toNat size v) = [])
    (reach : Agent.reaches a (regWriteOf addr.toNat size v).reg = true) (quiet : quietReg (regWriteOf addr.toNat size v).reg = true)
    (unlocked : s.m.lh.booted = false ∨ (regWriteOf addr.toNat size v).mask &&& accMask d .rwl = 0) :
    Gives (.registerWrite a addr size v) s
      (s.m.rset (regWriteOf addr.toNat size v).reg (s.m.written d (regWriteOf addr.toNat size v))) := by
  rw [← plainWrite_quiet s.m d _ quiet unlocked, ← mayWrite_quiet s.m a d _ quiet]
  exact registerWrite_plain tier ok row own up on idle reach

end

theorem runAll_singleton (f : State → Host.Outcome State Fault Refusal) (s : State) : runAll [f] s = f s := by
  simp only [runAll]; cases f s <;> rfl

/-! The doorbell pages (R117) -/

/-- An address past the last of the registers a stride apart has no place among them. -/
theorem idxOf_of_past (base stride n r : Nat) (pos : 0 < stride) (past : base + n * stride ≤ r) : idxOf base stride n r = none := by
  have far : n ≤ (r - base) / stride := (Nat.le_div_iff_mul_le pos).mpr (by omega)
  exact if_neg fun h => Nat.not_lt.mpr far h.2.2

/-- A register of a doorbell page is none of those below the pages. -/
theorem ne_of_below_pages {r x : Nat} (page : Reg.HB_DB_SQ_TAIL 0 0 ≤ r) (below : x < Reg.HB_DB_SQ_TAIL 0 0) : (r = x) = False :=
  eq_false fun h => absurd page (by omega)

/-- No command register of the whole module lies in a doorbell page. -/
theorem blockTriggers_of_page (a : Agent) (again : Instr) (r : Nat) (v : Word) (page : Reg.HB_DB_SQ_TAIL 0 0 ≤ r) :
    blockTriggers a again r v = [] := by
  simp (disch := decide) only [blockTriggers, ne_of_below_pages page, if_false]

theorem lostWindow_of_page (m : Mach) (r : Nat) (page : Reg.HB_DB_SQ_TAIL 0 0 ≤ r) : m.lostWindow r = false := by
  have beyond : ¬r < 0xF00010000000 := by simp only [Reg.HB_DB_SQ_TAIL] at page; omega
  simp [Mach.lostWindow, beyond]

theorem page_le_dbEvent (job : Fin 64) : Reg.HB_DB_SQ_TAIL 0 0 ≤ Reg.HB_DB_EVENT job.val := by
  simp only [Reg.HB_DB_SQ_TAIL, Reg.HB_DB_EVENT]; omega

/-- HB_DB_EVENT of a context stands at offset 0x98 of its page. -/
theorem dbEvent_page (job : Fin 64) : (Reg.HB_DB_EVENT job.val - Reg.HB_DB_SQ_TAIL 0 0) / 0x10000 = job.val := by
  simp only [Reg.HB_DB_SQ_TAIL, Reg.HB_DB_EVENT]; omega
theorem dbEvent_offset (job : Fin 64) : (Reg.HB_DB_EVENT job.val - Reg.HB_DB_SQ_TAIL 0 0) % 0x10000 = 0x98 := by
  simp only [Reg.HB_DB_SQ_TAIL, Reg.HB_DB_EVENT]; omega

theorem rowAt_dbEvent : ∀ job : Fin 64, (Reg.rowAt (Reg.HB_DB_EVENT job.val)).isSome = true := by decide +kernel

theorem tierOf_dbEvent (job : Fin 64) : tierOf (Reg.HB_DB_EVENT job.val) = .registers := by
  revert job; decide +kernel

/-- No row of its own takes the value of HB_DB_EVENT. -/
theorem rowFor_dbEvent (m : Mach) (a : Agent) (w : RegWrite) (job : Fin 64) (reg : w.reg = Reg.HB_DB_EVENT job.val) :
    m.rowFor a w = none := by
  have page : Reg.HB_DB_SQ_TAIL 0 0 ≤ w.reg := reg ▸ page_le_dbEvent job
  have tx : idxOf (Reg.SW_ETH_TX 0) 0x40 2 w.reg = none := idxOf_of_past _ _ _ _ (by decide) (le_trans (by decide) page)
  have win : idxOf (Reg.BW_WIN_BASE 4) 8 24 w.reg = none := idxOf_of_past _ _ _ _ (by decide) (le_trans (by decide) page)
  have offset : (w.reg - Reg.HB_DB_SQ_TAIL 0 0) % 0x10000 = 0x98 := reg ▸ dbEvent_offset job
  simp (disch := decide) only [Mach.rowFor, ne_of_below_pages page, false_and, if_false, tx, win, if_neg (Nat.not_lt.mpr page), offset]
  rfl

/-- A write to HB_DB_EVENT triggers the signal, with the event and the value of the word written. -/
theorem triggers_dbEvent (a : Agent) (again : Instr) (w : RegWrite) (job : Fin 64) (reg : w.reg = Reg.HB_DB_EVENT job.val) :
    triggers a again w = [execHbDbEvent a job (w.val.setWidth 8) ((w.val >>> 16).setWidth 48)] := by
  have page : Reg.HB_DB_SQ_TAIL 0 0 ≤ w.reg := reg ▸ page_le_dbEvent job
  have pf : idxOf (Reg.HB_PF_CTRL 0) 0x40 64 w.reg = none := idxOf_of_past _ _ _ _ (by decide) (le_trans (by decide) page)
  have tm : idxOf (Reg.HB_TM_CTRL 0) 0x40 64 w.reg = none := idxOf_of_past _ _ _ _ (by decide) (le_trans (by decide) page)
  have offset : (w.reg - Reg.HB_DB_SQ_TAIL 0 0) % 0x10000 = 0x98 := reg ▸ dbEvent_offset job
  have number : Fin.ofNat 64 ((w.reg - Reg.HB_DB_SQ_TAIL 0 0) / 0x10000) = job := by
    rw [reg, dbEvent_page]; exact Fin.ofNat_val_eq_self job
  simp only [triggers, blockTriggers_of_page a again w.reg w.val page, unitTriggers, pf, tm, if_pos page, offset, if_true, number]

/-- A write to HB_DB_EVENT is the signal of its row (R458). -/
theorem registerWrite_dbEvent (s : State) (a : Agent) (addr : BitVec 52) (size : Nat) (v : Word) (job : Fin 64)
    (place : addr.toNat = Reg.HB_DB_EVENT job.val) (ok : accessOk addr.toNat size = true)
    (reg : (regWriteOf addr.toNat size v).reg = Reg.HB_DB_EVENT job.val) :
    exec (.registerWrite a addr size v) s = exec (.hbDbEvent a job ((regWriteOf addr.toNat size v).val.setWidth 8)
      (((regWriteOf addr.toNat size v).val >>> 16).setWidth 48)) s := by
  obtain ⟨d, row⟩ := Option.isSome_iff_exists.mp (rowAt_dbEvent job)
  rw [registerWrite_triggers (place ▸ tierOf_dbEvent job) ok (reg ▸ row) (rowFor_dbEvent s.m a _ job reg)
    (lostWindow_of_page s.m _ (reg ▸ page_le_dbEvent job)) (triggers_dbEvent a _ _ job reg), runAll_singleton, exec_hbDbEvent]

theorem dvd_dbEvent (job : Fin 64) : 8 ∣ Reg.HB_DB_EVENT job.val := by
  simp only [Reg.HB_DB_EVENT]; omega

theorem registerWrite_dbEvent_eight (s : State) (a : Agent) (addr : BitVec 52) (v : Word) (job : Fin 64)
    (place : addr.toNat = Reg.HB_DB_EVENT job.val) :
    exec (.registerWrite a addr 8 v) s = exec (.hbDbEvent a job (v.setWidth 8) ((v >>> 16).setWidth 48)) s :=
  registerWrite_dbEvent s a addr 8 v job place ((accessOk_iff _ _).mpr (.inl ⟨rfl, place ▸ dvd_dbEvent job⟩)) place

/-- The half that a 32-bit write leaves out counts as zeros. -/
theorem registerWrite_dbEvent_four (s : State) (a : Agent) (addr : BitVec 52) (v : Word) (job : Fin 64)
    (place : addr.toNat = Reg.HB_DB_EVENT job.val) :
    exec (.registerWrite a addr 4 v) s =
      exec (.hbDbEvent a job (v.setWidth 8) (((v.setWidth 32 : BitVec 32) >>> 16).setWidth 48)) s := by
  have aligned : 8 ∣ addr.toNat := place ▸ dvd_dbEvent job
  have half := regWriteOf_four_low addr.toNat v aligned
  have event : ((v.setWidth 32).setWidth 64).setWidth 8 = v.setWidth 8 := by
    apply BitVec.eq_of_toNat_eq; simp
  have value : (((v.setWidth 32).setWidth 64 : Word) >>> 16).setWidth 48 = ((v.setWidth 32 : BitVec 32) >>> 16).setWidth 48 := by
    apply BitVec.eq_of_toNat_eq
    simp only [BitVec.toNat_setWidth, BitVec.toNat_ushiftRight, Nat.shiftRight_eq_div_pow]
    omega
  have ok : accessOk addr.toNat 4 = true := (accessOk_iff _ _).mpr (.inr ⟨rfl, Nat.dvd_trans (by decide) aligned⟩)
  rw [registerWrite_dbEvent s a addr 4 v job place ok (by rw [half]; exact place), half, event, value]

/-! The statement -/

theorem rset_onlyRegs (s : State) (r : Nat) (v : Word) : OnlyRegs s (s.m.rset r v) := rfl

/-- Settles O1: a quiet register is set and no more, HB_DB_EVENT is its row, and each access that reaches nothing has its equation. -/
theorem registerAccesses : Obligations.RegisterAccesses := by
  intro s a addr size on
  refine ⟨fun v d tier ok row own idle up reach quiet unlocked => ?_, fun job v place => ?_, fun i tier kind => ?_,
    fun coherent tier => ?_, fun coherent tier => ?_⟩
  · exact ⟨_, registerWrite_quiet tier ok row own up on idle reach quiet unlocked, rset_onlyRegs s _ _, rget_rset _ _ _,
      fun r other => rget_rset_ne _ _ _ _ other⟩
  · exact ⟨registerWrite_dbEvent_eight s a addr v job place, registerWrite_dbEvent_four s a addr v job place⟩
  · have gives (wr : Bool) : Gives (i wr) s (s.m.turnedAway a addr.toNat wr) := by
      rcases kind with ⟨bad, rfl⟩ | ⟨ok, free, outside, rfl⟩
      · exact accessNotPerformed_gives s a addr size wr on tier bad
      · exact unassignedAccess_gives s a addr size wr on tier ok free outside
    have same : BitVec.ofNat 64 addr.toNat = addr.setWidth 64 := BitVec.ofNat_toNat 64 addr
    refine ⟨fun other => ?_, fun h hart => ?_⟩
    · rw [← notPerformed_read, ← notPerformed_write, ← turnedAway_other _ a _ _ other, ← turnedAway_other _ a _ _ other]
      exact ⟨gives true, gives false⟩
    · subst hart
      have fault := turnedAway_headland s.m h addr.toNat
      rw [← notPerformed_read, ← notPerformed_write, ← same]
      exact ⟨fault true ▸ gives true, fault false ▸ gives false⟩
  · refine ⟨reservedRange_write on coherent tier, reservedRange_read_other on coherent tier, fun h hart => ?_⟩
    subst hart
    exact reservedRange_read_headland h on tier
  · exact shingleWriteDiscard_gives on coherent tier

end Sys2Proof.Machine
end

section
/-!
PROOFS. Vector instructions that write lanes: what each leaves when it is its program's current one, and the statement O13 (R25, R49,
R80, R93).
-/

namespace Sys2Proof.Machine

/-- What an instruction that writes lanes leaves when it is the current one of the running program. -/
theorem vRegOp_current {m : Mach} {tgt op : Nat} {i : VInst} {j : Job} {k : Cmd} (l : Nat) (f : Cmd → Nat → List (Nat × Bool))
    (current : m.vCurrent tgt op i = some (j, k)) : m.vRegOp tgt op i l f = lanesOut m k i l (f k (viCount i)) := by
  simp only [Mach.vRegOp, current, lanesOut]

theorem map_vread {α : Type} (k : Cmd) (l r n : Nat) (g : Nat → α) :
    (k.vread l r n).map g = (List.range n).map (fun e => g (k.vget l r e)) := by
  simp [Cmd.vread, Function.comp_def]

theorem marked_map (l : Nat) (vs : List Nat) (g : Nat → Nat) : marked l (vs.map g) = vs.map (fun v => (g v, laneBad l (g v))) := by
  simp [marked, Function.comp_def]

/-- The indices of VPERM, repeated or from a group, as the function that gives each element its own. -/
theorem permIndices_eq (k : Cmd) (i : VInst) (n : Nat) (ix : Nat → Nat)
    (index : ∀ e, ix e = if i.sb = 1 then immLane (viLane i % 2 + 2) i.imm.toNat else k.vget (viLane i) i.vb.toNat e) :
    (if i.sb = 1 then List.replicate n (immLane (viLane i % 2 + 2) i.imm.toNat) else k.vread (viLane i) i.vb.toNat n) =
      (List.range n).map ix := by
  rw [funext index]
  split
  · simp only [List.map_const', List.length_range]
  · rfl

/-- A row that writes lanes gives, where its instruction is the current one, those its function computes. -/
theorem gives_vRegOp {s : State} {x : Instr} {tgt op : Nat} {i : VInst} {j : Job} {k : Cmd} {l : Nat}
    {f : Cmd → Nat → List (Nat × Bool)} {vs : List (Nat × Bool)} (on : On s) (current : s.m.vCurrent tgt op i = some (j, k))
    (row : exec x s = s.act (fun m => m.vRegOp tgt op i l f)) (values : f k (viCount i) = vs) :
    Gives x s (lanesOut s.m k i l vs) := by
  rw [Gives, row, act_on _ _ on, vRegOp_current l f current, values]

/-- A reduction gives its one value in element 0. -/
theorem gives_vReduce {s : State} {x : Instr} {tgt op : Nat} {i : VInst} {j : Job} {k : Cmd} (isMax : Bool) (on : On s)
    (current : s.m.vCurrent tgt op i = some (j, k)) (row : exec x s = s.act (fun m => m.vReduce tgt op i))
    (kind : (op == 0x39) = isMax) :
    Gives x s (lanesOut s.m k i (viLane i) (marked (viLane i) [reduceLanes isMax (viLane i) 17
      (k.vget (viLane i) i.vc.toNat 0) ((List.range (viCount i)).map (fun e => k.vget (viLane i) i.va.toNat e))])) := by
  rw [Gives, row, act_on _ _ on, Mach.vReduce, vRegOp_current _ _ current, kind, Cmd.vread]

/-- Settles O13, row by row: each writes the lanes its function computes, and those are the values listed. -/
theorem laneMovesAndReductions : Obligations.LaneMovesAndReductions := by
  intro s c i j k on
  refine ⟨fun current => ?_, fun current => ?_, fun current => ?_, fun current => ?_, fun current => ?_, fun current => ?_,
    fun ix current index => ?_⟩
  · exact gives_vRegOp on current (exec_viota s) rfl
  · exact gives_vRegOp on current (exec_vcvt s) (map_vread ..)
  · exact gives_vReduce false on current (exec_vrsum s) rfl
  · exact gives_vReduce true on current (exec_vrmax s) rfl
  · exact gives_vRegOp on current (exec_vmov s) ((marked_map ..).trans (map_vread ..))
  · exact gives_vRegOp on current (exec_vbcast s) List.map_replicate
  · refine gives_vRegOp on current (exec_vperm s) ?_
    simp only [permIndices_eq k i _ ix index, marked_map, List.map_map, Function.comp_def]

end Sys2Proof.Machine
end

section
/-!
PROOFS. The all-finite flag at the three moments that move it, the end of the LAST collective, a counted result and the step
boundary, and the statement O56 (R43, R45, R47).
-/

namespace Sys2Proof.Machine

/-! Register fields -/

theorem fget_lt (m : Mach) (f : Fld) : m.fget f < 2 ^ f.w := Nat.mod_lt _ (Nat.two_pow_pos _)

/-- A field added to reads the sum, at most its greatest value. -/
theorem fget_fadd (m : Mach) (f : Fld) (n : Nat) (h : f.lo + f.w ≤ 64) :
    (m.fadd f n).fget f = min (m.fget f + n) (2 ^ f.w - 1) := by
  have pos : 0 < 2 ^ f.w := Nat.two_pow_pos _
  rw [Mach.fadd, fget_fset m f _ h, Nat.mod_eq_of_lt (by omega)]

/-- A field of a word that a number gives. -/
theorem fld_of_ofNat (f : Fld) (x : Nat) (h : f.lo + f.w ≤ 64) : Fld.of f (BitVec.ofNat 64 x) = x / 2 ^ f.lo % 2 ^ f.w := by
  have split : 2 ^ 64 = 2 ^ f.lo * (2 ^ f.w * 2 ^ (64 - (f.lo + f.w))) := by
    rw [← pow_add, ← pow_add]; congr 1; omega
  rw [Fld.of, BitVec.toNat_ofNat, split, Nat.mod_mul_right_div_self, Nat.mod_mul_right_mod]

/-- A field of a register whose word a number gives. -/
theorem fget_of_rget {m : Mach} {r x : Nat} (word : m.rget r = BitVec.ofNat 64 x) (lo w : Nat) (fits : lo + w ≤ 64) :
    m.fget ⟨r, lo, w⟩ = x / 2 ^ lo % 2 ^ w := by
  rw [Mach.fget, word, fld_of_ofNat ⟨r, lo, w⟩ x fits]

/-! The all-finite flag (R45, R47) -/

/-- The flag's three registers of a job stand apart. -/
theorem finCount_ne_finState (jn : Nat) : Reg.HB_FIN_COUNT jn ≠ Reg.HB_FIN_STATE jn := by
  simp only [Reg.HB_FIN_STATE, Reg.HB_FIN_COUNT]; omega
theorem finPrev_ne_finState (jn : Nat) : Reg.HB_FIN_PREV jn ≠ Reg.HB_FIN_STATE jn := by
  simp only [Reg.HB_FIN_PREV, Reg.HB_FIN_STATE]; omega
theorem finPrev_ne_finCount (jn : Nat) : Reg.HB_FIN_PREV jn ≠ Reg.HB_FIN_COUNT jn := by
  simp only [Reg.HB_FIN_PREV, Reg.HB_FIN_COUNT]; omega

/-- The end of the LAST collective (R45): final, FINITE the inverse of the reduced bit, and every other register as it was. -/
theorem flagFinal_effect (m : Mach) (jn : Nat) (nf : Bool) :
    (m.flagFinal jn nf).fget (Reg.HB_FIN_STATE_FINAL jn) = 1 ∧
    (m.flagFinal jn nf).fget (Reg.HB_FIN_STATE_FINITE jn) = (if nf then 0 else 1) ∧
    ∀ r : Nat, r ≠ Reg.HB_FIN_STATE jn → (m.flagFinal jn nf).rget r = m.rget r := by
  simp only [Mach.flagFinal]
  refine ⟨?_, ?_, fun r other => ?_⟩
  · rw [fget_fset_beside _ (Reg.HB_FIN_STATE_FINITE jn) (Reg.HB_FIN_STATE_FINAL jn) _ rfl (by simp [Reg.HB_FIN_STATE_FINITE])
      (by simp [Reg.HB_FIN_STATE_FINITE, Reg.HB_FIN_STATE_FINAL]), fget_fset _ _ _ (by simp [Reg.HB_FIN_STATE_FINAL])]
    rfl
  · rw [fget_fset _ _ _ (by simp [Reg.HB_FIN_STATE_FINITE])]
    cases nf <;> rfl
  · rw [rget_fset_ne _ _ _ _ other, rget_fset_ne _ _ _ _ other]

/-- The field of HB_FIN_COUNT that holds a class's count. -/
def finCountFld (jn cls : Nat) : Fld := if cls = 1 then Reg.HB_FIN_COUNT_GRAD_NF jn else Reg.HB_FIN_COUNT_LOSS_NF jn

theorem finCountFld_reg (jn cls : Nat) : (finCountFld jn cls).reg = Reg.HB_FIN_COUNT jn := by
  unfold finCountFld; split <;> rfl
theorem finCountFld_w (jn cls : Nat) : (finCountFld jn cls).w = 32 := by
  unfold finCountFld; split <;> rfl
theorem finCountFld_fits (jn cls : Nat) : (finCountFld jn cls).lo + (finCountFld jn cls).w ≤ 64 := by
  unfold finCountFld; split <;> simp [Reg.HB_FIN_COUNT_GRAD_NF, Reg.HB_FIN_COUNT_LOSS_NF]

/-- The machine in which `n` results of a class are counted and LOCAL_NF is set. -/
def Mach.countOpenStep (m : Mach) (jn cls n : Nat) : Mach :=
  (m.fadd (finCountFld jn cls) n).fset (Reg.HB_FIN_STATE_LOCAL_NF jn) 1

section
variable (m : Mach) (jn cls n : Nat)

theorem countOpenStep_localNf : (m.countOpenStep jn cls n).fget (Reg.HB_FIN_STATE_LOCAL_NF jn) = 1 :=
  fget_fset _ _ _ (by simp [Reg.HB_FIN_STATE_LOCAL_NF])

/-- Every other field of the flag stays. -/
theorem countOpenStep_finState (f : Fld) (reg : f.reg = Reg.HB_FIN_STATE jn) (beside : 35 ≤ f.lo ∨ f.lo + f.w ≤ 34) :
    (m.countOpenStep jn cls n).fget f = m.fget f := by
  rw [Mach.countOpenStep, fget_fset_beside _ (Reg.HB_FIN_STATE_LOCAL_NF jn) f _ reg (by simp [Reg.HB_FIN_STATE_LOCAL_NF]) beside, Mach.fadd,
    fget_fset_ne _ _ _ _ (by rw [reg, finCountFld_reg]; exact (finCount_ne_finState jn).symm)]

/-- The class's count rises, at most to its greatest value. -/
theorem countOpenStep_count :
    (m.countOpenStep jn cls n).fget (finCountFld jn cls) = min (m.fget (finCountFld jn cls) + n) (2 ^ 32 - 1) := by
  rw [Mach.countOpenStep, fget_fset_ne _ _ _ _ (by rw [finCountFld_reg]; exact finCount_ne_finState jn),
    fget_fadd _ _ _ (finCountFld_fits jn cls), finCountFld_w]

end

section
variable {m : Mach} {jn cls n : Nat} {j : Job} (job : m.job? jn = some j) (nonzero : n ≠ 0) (counted : cls = 1 ∨ cls = 2)
include job nonzero counted

/-- Results of the open step, before its LAST header is sent and its flag is final (R43, R45). -/
theorem addStepNf_openStep (unsent : j.lastSent = false) (undecided : m.flag (Reg.HB_FIN_STATE_FINAL jn) = false) :
    m.addStepNf jn j.step cls n = m.countOpenStep jn cls n := by
  have taken : ¬(n = 0 ∨ (cls ≠ 1 ∧ cls ≠ 2)) := by omega
  have added : (if cls = 1 then m.fadd (Reg.HB_FIN_COUNT_GRAD_NF jn) n else m.fadd (Reg.HB_FIN_COUNT_LOSS_NF jn) n) =
      m.fadd (finCountFld jn cls) n := by
    unfold finCountFld; split <;> rfl
  have still : (m.countOpenStep jn cls n).flag (Reg.HB_FIN_STATE_FINAL jn) = false := by
    rw [Mach.flag, countOpenStep_finState m jn cls n _ rfl (by simp [Reg.HB_FIN_STATE_FINAL])]
    exact undecided
  rw [Mach.countOpenStep] at still ⊢
  simp [Mach.addStepNf, taken, job, added, unsent, still]

/-- Results of the step after are kept with the job (R47). -/
theorem addStepNf_nextStep :
    m.addStepNf jn (j.step + 1) cls n = m.setJob jn (some { j with nextNf :=
      if cls = 1 then { j.nextNf with grad := min (j.nextNf.grad + n) (2 ^ 32 - 1) }
      else { j.nextNf with loss := min (j.nextNf.loss + n) (2 ^ 32 - 1) } }) := by
  have taken : ¬(n = 0 ∨ (cls ≠ 1 ∧ cls ≠ 2)) := by omega
  simp [Mach.addStepNf, taken, job]

end

theorem job?_setJob (m : Mach) (jn : Nat) (b : Option Job) : (m.setJob jn b).job? jn = b := sget_sset_same ..

/-! The step boundary (R47) -/

/-- FINITE as the boundary records it: that of a flag which is final, and 0 where none was decided. -/
def Mach.finDecided (m : Mach) (jn : Nat) : Nat :=
  if m.flag (Reg.HB_FIN_STATE_FINAL jn) then m.fget (Reg.HB_FIN_STATE_FINITE jn) else 0

section
variable (m : Mach) (jn : Nat) (j : Job)

theorem flagBoundary_finPrev : (m.flagBoundary jn j).rget (Reg.HB_FIN_PREV jn) =
    BitVec.ofNat 64 (m.fget (Reg.HB_FIN_STATE_STEP jn) + 2 ^ 32 + m.finDecided jn * 2 ^ 33 +
      m.fget (Reg.HB_FIN_STATE_FINAL jn) * 2 ^ 34) := by
  have bit : m.fget (Reg.HB_FIN_STATE_FINAL jn) < 2 := fget_lt m _
  have decided : (if m.flag (Reg.HB_FIN_STATE_FINAL jn) then 2 ^ 34 else 0) = m.fget (Reg.HB_FIN_STATE_FINAL jn) * 2 ^ 34 := by
    simp only [Mach.flag, bne_iff_ne]; split <;> omega
  rw [← decided, Mach.flagBoundary, rget_rset_ne _ _ _ _ (finPrev_ne_finState jn), rget_rset_ne _ _ _ _ (finPrev_ne_finCount jn),
    rget_rset, Mach.finDecided]

theorem flagBoundary_finCount : (m.flagBoundary jn j).rget (Reg.HB_FIN_COUNT jn) =
    BitVec.ofNat 64 (j.nextNf.grad + j.nextNf.loss * 2 ^ 32) := by
  rw [Mach.flagBoundary, rget_rset_ne _ _ _ _ (finCount_ne_finState jn), rget_rset]

theorem flagBoundary_finState : (m.flagBoundary jn j).rget (Reg.HB_FIN_STATE jn) =
    BitVec.ofNat 64 ((j.step + 1) % 2 ^ 32 + 2 ^ 33 + (if j.nextNf.grad + j.nextNf.loss = 0 then 0 else 1) * 2 ^ 34) := by
  rw [Mach.flagBoundary, rget_rset]
  split <;> rfl

/-- HB_FIN_PREV after the boundary: the flag of the step that ends. -/
theorem flagBoundary_copies :
    (m.flagBoundary jn j).fget (Reg.HB_FIN_PREV_STEP jn) = m.fget (Reg.HB_FIN_STATE_STEP jn) ∧
    (m.flagBoundary jn j).fget (Reg.HB_FIN_PREV_VALID jn) = 1 ∧
    (m.flagBoundary jn j).fget (Reg.HB_FIN_PREV_DECIDED jn) = m.fget (Reg.HB_FIN_STATE_FINAL jn) ∧
    (m.flagBoundary jn j).fget (Reg.HB_FIN_PREV_FINITE jn) = m.finDecided jn := by
  have step : m.fget (Reg.HB_FIN_STATE_STEP jn) < 2 ^ 32 := fget_lt m _
  have final : m.fget (Reg.HB_FIN_STATE_FINAL jn) < 2 := fget_lt m _
  have finite : m.finDecided jn < 2 := by
    unfold Mach.finDecided; split
    · exact fget_lt m _
    · decide
  have field := fget_of_rget (flagBoundary_finPrev m jn j)
  refine ⟨(field 0 32 (by decide)).trans ?_, (field 32 1 (by decide)).trans ?_, (field 34 1 (by decide)).trans ?_,
    (field 33 1 (by decide)).trans ?_⟩ <;> omega

/-- HB_FIN_STATE after the boundary: the next step's flag, open and finite. -/
theorem flagBoundary_opens :
    (m.flagBoundary jn j).fget (Reg.HB_FIN_STATE_STEP jn) = (j.step + 1) % 2 ^ 32 ∧
    (m.flagBoundary jn j).fget (Reg.HB_FIN_STATE_FINAL jn) = 0 ∧ (m.flagBoundary jn j).fget (Reg.HB_FIN_STATE_FINITE jn) = 1 ∧
    (m.flagBoundary jn j).fget (Reg.HB_FIN_STATE_LATE_NF jn) = 0 ∧
    (m.flagBoundary jn j).fget (Reg.HB_FIN_STATE_LOCAL_NF jn) = (if j.nextNf.grad + j.nextNf.loss = 0 then 0 else 1) := by
  have field := fget_of_rget (flagBoundary_finState m jn j)
  refine ⟨(field 0 32 (by decide)).trans ?_, (field 32 1 (by decide)).trans ?_, (field 33 1 (by decide)).trans ?_,
    (field 35 1 (by decide)).trans ?_, (field 34 1 (by decide)).trans ?_⟩ <;> split <;> omega

/-- HB_FIN_COUNT after the boundary: the counts kept for the next step. -/
theorem flagBoundary_counts (grad : j.nextNf.grad < 2 ^ 32) (loss : j.nextNf.loss < 2 ^ 32) :
    (m.flagBoundary jn j).fget (Reg.HB_FIN_COUNT_GRAD_NF jn) = j.nextNf.grad ∧
    (m.flagBoundary jn j).fget (Reg.HB_FIN_COUNT_LOSS_NF jn) = j.nextNf.loss := by
  have field := fget_of_rget (flagBoundary_finCount m jn j)
  refine ⟨(field 0 32 (by decide)).trans ?_, (field 32 32 (by decide)).trans ?_⟩ <;> omega

end

/-- Settles O56: the flag made final, a result counted in the open step or kept for the next, and the boundary, each by what it leaves. -/
theorem flagRules : Obligations.FlagRules := by
  intro m jn j _ job
  refine ⟨flagFinal_effect m jn, fun cls n nonzero counted unsent undecided => ?_, fun cls n nonzero counted => ?_,
    fun grad loss => ?_⟩
  · rw [addStepNf_openStep job nonzero counted unsent undecided]
    exact ⟨countOpenStep_localNf m jn cls n,
      countOpenStep_finState m jn cls n _ rfl (by simp [Reg.HB_FIN_STATE_FINITE]),
      countOpenStep_finState m jn cls n _ rfl (by simp [Reg.HB_FIN_STATE_LATE_NF]), countOpenStep_count m jn cls n, rfl⟩
  · rw [addStepNf_nextStep job nonzero counted]
    exact ⟨rfl, job?_setJob m jn _⟩
  · obtain ⟨step, valid, decided, finite⟩ := flagBoundary_copies m jn j
    obtain ⟨next, final, opened, late, localNf⟩ := flagBoundary_opens m jn j
    exact ⟨step, valid, decided, finite, next, final, opened, late, localNf, flagBoundary_counts m jn j grad loss⟩

end Sys2Proof.Machine
end

section
/-!
PROOFS. What registers read right after reset, and the statement O60 (R47, R109, R163, R232, R258, R278, R323).
-/

namespace Sys2Proof.Machine

/-- A register at reset reads its table's value, but the two of the partner site that is not fitted, which read 0 (R232). -/
theorem rget_reset (r : Nat) :
    State.reset.m.rget r = if r ∈ [Reg.BW_CFG, Reg.BW_RATE] then 0 else BitVec.ofNat 64 (Reg.resetOf r) := by
  have order : Reg.BW_CFG < Reg.BW_RATE := by decide
  have listed : State.reset.m.rget r = sget (BitVec.ofNat 64 (Reg.resetOf r)) r [(Reg.BW_CFG, 0), (Reg.BW_RATE, 0)] := rfl
  rw [listed]
  simp only [sget, List.mem_cons, List.not_mem_nil, or_false]
  by_cases cfg : r = Reg.BW_CFG
  · subst cfg; simp
  by_cases rate : r = Reg.BW_RATE
  · subst rate; simp [order.ne', order.le]
  · simp [cfg, rate]

/-- A field whose table gives 0 reads 0 at reset. -/
theorem fget_reset_zero (f : Fld) (unlisted : f.reg ∉ [Reg.BW_CFG, Reg.BW_RATE])
    (zero : Fld.of f (BitVec.ofNat 64 (Reg.resetOf f.reg)) = 0) : State.reset.m.fget f = 0 := by
  rw [Mach.fget, rget_reset, if_neg unlisted, zero]

/-- Settles O60: what waits is listed empty, and the registers named read what their tables give. -/
theorem resetValues : Obligations.ResetValues := by
  refine ⟨rfl, rfl, rfl, rfl, fget_reset_zero _ ?_ ?_, fget_reset_zero _ ?_ ?_, fget_reset_zero _ ?_ ?_, fget_reset_zero _ ?_ ?_,
    fget_reset_zero _ ?_ ?_, fget_reset_zero _ ?_ ?_, rget_reset, bne_eq_false_iff_eq.mpr (fget_reset_zero _ ?_ ?_)⟩
  all_goals decide +kernel

end Sys2Proof.Machine
end

section
/-!
PROOFS. The matrix engine and the matrix-vector unit: where each command's decode, its next pass and its end lead, the counters and the
plans, and the statement O11 (R46, R62, R63, R70, R72, R78, R141).
-/

namespace Sys2Proof.Machine

/-! At the queue head (R46, R141) -/

section
variable {m : Mach} {tgt eng : Nat} {j : Job} {k : Cmd}

/-- A command that is ready and reads no KEEP header begins once it is decoded. -/
theorem mxDecode_ready (passes : m.stateAux k false = none) (taken : m.condSkips k = false) (fresh : k.mxInit ≠ 2) :
    m.mxDecode j k = m.mxBegin j k := by
  simp [Mach.mxDecode, passes, taken, fresh]

/-- At its queue head a command of the kind asked for, whose descriptor passes its checks, begins. -/
theorem mxHead_ready {mine : Nat → Bool} (ready : headReady m tgt eng false k) (kind : mine k.mxKind = true)
    (job : m.job? k.job = some j) (valid : mxCheck m k = none) (fresh : k.mxInit ≠ 2) :
    m.mxHead tgt eng mine = m.mxBegin j k := by
  obtain ⟨head, queued, passes, taken⟩ := ready
  simp [Mach.mxHead, head, kind, job, queued, valid, mxDecode_ready passes taken fresh]

/-! Passes (R63) -/

/-- The machine whose RF_MX_STATE shows the pass after `pass` of a command, or its last (R78). -/
def Mach.showPass (m : Mach) (c : Cmd) (pass : Nat) : Mach :=
  m.fset (Reg.RF_MX_STATE_PASS (c.tgt / 48) (c.tgt % 48)) (min (pass + 1) (c.mxPasses - 1))

section
variable {k1 : Cmd} {m1 : Mach} (job : m.job? k.job = some j) (nofault : k.fault = none) (nostatus : k.status = none)
  (stage : k.mxStage = 2) (drained : m.mxDrainLast j k = (m1, .ok k1))
include job nofault nostatus stage drained

/-- A command past its passes ends once the pass before has drained. -/
theorem mxAdvance_past (past : k1.mxPasses ≤ k1.prog) : m.mxAdvance k = m1.mxEnd j k.id := by
  simp [Mach.mxAdvance, job, nofault, nostatus, stage, drained, past]

/-- Another's next pass goes on the machine that the drain of the pass before leaves, and the command ends with its last. -/
theorem mxAdvance_pass {k2 : Cmd} {m2 : Mach} (kind : k.mxKind ≠ 2) (before : k1.prog < k1.mxPasses)
    (pass : m1.mxPass j k1 = (m2, .ok k2)) : m.mxAdvance k =
      if k2.prog = k.mxPasses then (m2.showPass k k1.prog).mxEnd j k.id else m2.showPass k k1.prog := by
  have goes : ¬k1.mxPasses ≤ k1.prog := Nat.not_le.mpr before
  simp [Mach.mxAdvance, Mach.showPass, job, nofault, nostatus, stage, drained, goes, pass, kind]

end
end

/-! The rows -/

section
variable {s : State} {c : CoreId} {j : Job} {k : Cmd} (on : On s)
include on

/-- MATRIX_PASS advances the command that runs on the engine. -/
theorem matrixPass_gives (running : s.m.running c.flat 1 = some k) : Gives (.matrixPass c) s (s.m.mxAdvance k) := by
  simp only [Gives, exec_matrixPass, execMatrixPass, act_on _ _ on, running]

/-- PLAN_FLUSH, where the engine is idle: the core's plans are gone at once (R78). -/
theorem planFlush_idle {a : Agent} (reach : Agent.reaches a (Reg.RF_MX_CTRL c.die.val c.core.val) = true)
    (idle : s.m.flag (Reg.RF_MX_STATE_BUSY c.die.val c.core.val) = false) :
    Gives (.planFlush a c) s { s.m with js := { s.m.js with plans := s.m.js.plans.filter (fun p => p.1 != c.flat) } } := by
  simp [Gives, exec_planFlush, execPlanFlush, act_on _ _ on, Mach.byAgent, reach, idle]

/-- PLAN_FLUSH, where a command is in the engine: it waits for that command's end (R78). -/
theorem planFlush_busy {a : Agent} (reach : Agent.reaches a (Reg.RF_MX_CTRL c.die.val c.core.val) = true)
    (busy : s.m.flag (Reg.RF_MX_STATE_BUSY c.die.val c.core.val) = true) :
    Gives (.planFlush a c) s { s.m with js := { s.m.js with
      planFlush := c.flat :: s.m.js.planFlush.filter (fun t => t != c.flat) } } := by
  simp [Gives, exec_planFlush, execPlanFlush, act_on _ _ on, Mach.byAgent, reach, busy]

/-- CNT_CLR by an agent that reaches the core's matrix registers. -/
theorem mxCntClr_gives {a : Agent} (reach : Agent.reaches a (Reg.RF_MX_CTRL c.die.val c.core.val) = true) :
    Gives (.mxCntClr a c) s (s.m.mxClear c.flat) := by
  rw [Gives, exec_mxCntClr, execMxCntClr, act_on _ _ on, Mach.byAgent, if_pos reach]

section
variable (job : s.m.job? k.job = some j) (valid : mxCheck s.m k = none) (fresh : k.mxInit ≠ 2)
include job valid fresh

theorem gemm_begins (ready : headReady s.m c.flat 1 false k) (kind : k.mxKind ≠ 1) : Gives (.gemm c) s (s.m.mxBegin j k) := by
  rw [Gives, exec_gemm, execGemm, act_on _ _ on, mxHead_ready (mine := (· != 1)) ready (bne_iff_ne.mpr kind) job valid fresh]

theorem conv_begins (ready : headReady s.m c.flat 1 false k) (kind : k.mxKind = 1) : Gives (.conv c) s (s.m.mxBegin j k) := by
  rw [Gives, exec_conv, execConv, act_on _ _ on, mxHead_ready (mine := (· == 1)) ready (beq_iff_eq.mpr kind) job valid fresh]

/-- MV begins and runs its groups of outputs in the same command (R72). -/
theorem mv_runs (ready : headReady s.m c.flat 2 false k) : Gives (.mv c) s ((s.m.mxBegin j k).mvRun c.flat 66) := by
  rw [Gives, exec_mv, execMv, act_on _ _ on, mxHead_ready ready rfl job valid fresh]

end
end

/-- Settles O11: each command begins as its head decodes it, each pass goes or ends as the drain of the one before leaves it, and the
counters and the plans answer the agents that reach them. -/
theorem matrixRowsComplete : Obligations.MatrixRowsComplete := by
  intro s c on
  refine ⟨fun j k ready job valid fresh => ⟨gemm_begins on job valid fresh ready, conv_begins on job valid fresh ready⟩,
    fun j k ready job valid fresh => mv_runs on job valid fresh ready,
    fun j k k1 m1 running job nofault nostatus stage kind drained => ?_,
    fun a reach => ⟨mxCntClr_gives on reach, planFlush_idle on reach, planFlush_busy on reach⟩⟩
  have gives := matrixPass_gives on running
  refine ⟨fun past => ?_, fun k2 m2 before pass => ?_⟩
  · rwa [mxAdvance_past job nofault nostatus stage drained past] at gives
  · rw [mxAdvance_pass job nofault nostatus stage drained kind before pass] at gives
    refine ⟨fun more => ?_, fun last => ?_⟩
    · rwa [if_neg more, Mach.showPass] at gives
    · rwa [if_pos last, Mach.showPass] at gives

end Sys2Proof.Machine
end

section
/-!
PROOFS. The encoding of a vector instruction: each field read back from the words it is packed into, and the statement O49 (R92).
-/

namespace Sys2Proof.Machine

section
variable (op : Nat) (i : VInst)

/-- The first word holds the opcode and every field up to the slot side by side, and nothing above them. -/
theorem bits_encodeVInst_fst (byte : op < 256) :
    bits (encodeVInst op i).1 0 8 = op ∧ bits (encodeVInst op i).1 8 2 = i.fmt.toNat ∧
    bits (encodeVInst op i).1 10 5 = i.vd.toNat ∧ bits (encodeVInst op i).1 15 5 = i.va.toNat ∧
    bits (encodeVInst op i).1 20 5 = i.vb.toNat ∧ bits (encodeVInst op i).1 25 5 = i.vc.toNat ∧
    bits (encodeVInst op i).1 30 12 = i.cntm1.toNat ∧ bits (encodeVInst op i).1 42 1 = i.sb.toNat ∧
    bits (encodeVInst op i).1 43 1 = i.cnt.toNat ∧ bits (encodeVInst op i).1 44 2 = i.rnd.toNat ∧
    bits (encodeVInst op i).1 46 1 = i.sat.toNat ∧ bits (encodeVInst op i).1 47 4 = i.fmt2.toNat ∧
    bits (encodeVInst op i).1 51 3 = i.slot.toNat ∧ bits (encodeVInst op i).1 54 10 = 0 := by
  have fmt := i.fmt.isLt; have vd := i.vd.isLt; have va := i.va.isLt; have vb := i.vb.isLt; have vc := i.vc.isLt
  have cntm1 := i.cntm1.isLt; have sb := i.sb.isLt; have cnt := i.cnt.isLt; have rnd := i.rnd.isLt; have sat := i.sat.isLt
  have fmt2 := i.fmt2.isLt; have slot := i.slot.isLt
  simp only [encodeVInst, bits, BitVec.toNat_ofNat]
  refine ⟨?_, ?_, ?_, ?_, ?_, ?_, ?_, ?_, ?_, ?_, ?_, ?_, ?_, ?_⟩ <;> omega

/-- The second word holds the immediate, the stride and the version. -/
theorem bits_encodeVInst_snd :
    bits (encodeVInst op i).2 0 32 = i.imm.toNat ∧ bits (encodeVInst op i).2 32 24 = i.stride.toNat ∧
    bits (encodeVInst op i).2 56 4 = 0 ∧ bits (encodeVInst op i).2 60 4 = 1 := by
  have imm := i.imm.isLt; have stride := i.stride.isLt
  simp only [encodeVInst, bits, BitVec.toNat_ofNat]
  refine ⟨?_, ?_, ?_, ?_⟩ <;> omega

theorem decodeVInst_encodeVInst (byte : op < 256) :
    decodeVInst (encodeVInst op i).1 (encodeVInst op i).2 = some (op, i) := by
  obtain ⟨opcode, fmt, vd, va, vb, vc, cntm1, sb, cnt, rnd, sat, fmt2, slot, reserved⟩ := bits_encodeVInst_fst op i byte
  obtain ⟨imm, stride, reserved', version⟩ := bits_encodeVInst_snd op i
  rw [decodeVInst, if_neg (by simp [reserved, reserved', version])]
  simp only [opcode, fmt, vd, va, vb, vc, cntm1, sb, cnt, rnd, sat, fmt2, slot, imm, stride, BitVec.ofNat_toNat, BitVec.setWidth_eq]

end

/-- Settles O49: the fields read back are those packed, so that decoding undoes encoding, which is then one to one. -/
theorem vectorEncoding : Obligations.VectorEncoding := by
  intro op i byte
  refine ⟨decodeVInst_encodeVInst op i byte, fun op' i' byte' same => ?_⟩
  have both : some (op, i) = some (op', i') := by
    rw [← decodeVInst_encodeVInst op i byte, same, decodeVInst_encodeVInst op' i' byte']
  exact Prod.mk.inj (Option.some.inj both)

end Sys2Proof.Machine
end

section
/-!
PROOFS. Element-wise vector instructions, what an instruction that writes lanes moves, and the statements O12 and O58 (R80, R81, R91, R93,
R100).
-/

namespace Sys2Proof.Machine

/-! Element-wise instructions (R80, R93) -/

/-- An operand that an opcode uses is read from its group; one that it does not use is zeros. -/
theorem operand_eq_map (used : Bool) (k : Cmd) (l r n : Nat) :
    (if used then k.vread l r n else List.replicate n 0) = (List.range n).map (fun e => if used then k.vget l r e else 0) := by
  cases used
  · simp
  · rfl

/-- Operand b, where an opcode uses it, is IMM repeated or its group. -/
theorem operandB_eq_map (used : Bool) (k : Cmd) (i : VInst) (n : Nat) :
    (if used then k.vOperandB i n else List.replicate n 0) = (List.range n).map (fun e =>
      if used then (if i.sb = 1 then immLane (viLane i) i.imm.toNat else k.vget (viLane i) i.vb.toNat e) else 0) := by
  cases used
  · simp
  · rw [if_pos rfl, Cmd.vOperandB]
    split
    · simp
    · rfl

/-- Each element-wise row runs the operation of its opcode. -/
theorem exec_elementwise (s : State) (c : CoreId) (i : VInst) :
    ∀ p ∈ elementwiseRows, exec (p.2 c i) s = s.act (fun m => m.vElementwise c.flat p.1 i) := by
  simp only [elementwiseRows, List.forall_mem_cons, List.not_mem_nil, false_imp_iff, implies_true, and_true]
  exact ⟨exec_vadd s, exec_vsub s, exec_vmul s, exec_vfma s, exec_vfnma s, exec_vdiv s, exec_vsqrt s, exec_vrcp s, exec_vrsq s,
    exec_vexp2 s, exec_vlog2 s, exec_vexp s, exec_vlog s, exec_vtanh s, exec_vsigm s, exec_verf s, exec_vmin s, exec_vmax s,
    exec_vabs s, exec_vneg s, exec_vcmpeq s, exec_vcmplt s, exec_vcmple s, exec_visnf s, exec_vsel s, exec_viadd s, exec_visub s,
    exec_vimul s, exec_vand s, exec_vor s, exec_vxor s, exec_vshl s, exec_vshr s, exec_vsra s, exec_vimin s, exec_vimax s⟩

/-- Settles O12: each operand is a list over the elements, so that the results are the operation of each element's operands. -/
theorem elementwiseInstructions : Obligations.ElementwiseInstructions := by
  intro s c i j k on p row current
  rw [Gives, exec_elementwise s c i p row, act_on _ _ on]
  rw [Mach.vElementwise, vRegOp_current _ _ current, operand_eq_map, operandB_eq_map, operand_eq_map]
  simp only [marked, List.zip_map', List.zipWith_map, List.zipWith_self, List.map_map, Function.comp_def]

/-! What an instruction that writes lanes moves (R80, R81, R100) -/

/-- The element-wise operations and the reductions are instructions that write lanes. -/
theorem vElementwise_eq_vRegOp (tgt op : Nat) (i : VInst) : ∃ l f, ∀ m : Mach, m.vElementwise tgt op i = m.vRegOp tgt op i l f :=
  ⟨_, _, fun m => by rw [Mach.vElementwise]⟩
theorem vReduce_eq_vRegOp (tgt op : Nat) (i : VInst) : ∃ l f, ∀ m : Mach, m.vReduce tgt op i = m.vRegOp tgt op i l f :=
  ⟨_, _, fun m => by rw [Mach.vReduce]⟩

/-- Every row that writes lanes runs one instruction form. -/
theorem exec_laneRow (s : State) (c : CoreId) (i : VInst) :
    ∀ x ∈ elementwiseRows.map (fun p => p.2 c i) ++ [.viota c i, .vcvt c i, .vrsum c i, .vrmax c i, .vmov c i, .vbcast c i, .vperm c i],
      ∃ op l f, exec x s = s.act (fun m => m.vRegOp c.flat op i l f) := by
  have form {x : Instr} {op : Nat} {g : Mach → Mach} (row : exec x s = s.act g)
      (lanes : ∃ l f, ∀ m : Mach, g m = m.vRegOp c.flat op i l f) : ∃ op l f, exec x s = s.act (fun m => m.vRegOp c.flat op i l f) := by
    obtain ⟨l, f, same⟩ := lanes
    exact ⟨op, l, f, by rw [row, funext same]⟩
  simp only [List.forall_mem_append, List.forall_mem_map, List.forall_mem_cons, List.not_mem_nil, false_imp_iff, implies_true, and_true]
  exact ⟨fun p row => form (exec_elementwise s c i p row) (vElementwise_eq_vRegOp ..), ⟨_, _, _, exec_viota s⟩, ⟨_, _, _, exec_vcvt s⟩,
    form (exec_vrsum s) (vReduce_eq_vRegOp ..), form (exec_vrmax s) (vReduce_eq_vRegOp ..), ⟨_, _, _, exec_vmov s⟩,
    ⟨_, _, _, exec_vbcast s⟩, ⟨_, _, _, exec_vperm s⟩⟩

theorem flat_div (c : CoreId) : c.flat / 48 = c.die.val := by
  have core := c.core.isLt
  simp only [CoreId.flat]; omega
theorem flat_mod (c : CoreId) : c.flat % 48 = c.core.val := by
  have core := c.core.isLt
  simp only [CoreId.flat]; omega

theorem mem_of_firstQ {cs : List Cmd} {k : Cmd} (first : firstQ cs = some k) : k ∈ cs := by
  induction cs with
  | nil => cases first
  | cons d ds ih =>
    simp only [firstQ] at first
    split at first
    · cases first; exact List.mem_cons_self
    · next rest =>
      split at first <;> cases first
      · exact List.mem_cons_of_mem _ (ih rest)
      · exact List.mem_cons_self

/-- The command that runs on an engine is one of the engine's core. -/
theorem running_tgt {m : Mach} {tgt eng : Nat} {k : Cmd} (running : m.running tgt eng = some k) : k.tgt = tgt := by
  have head : m.queueHead tgt eng = some k := (Option.filter_eq_some_iff.mp running).1
  have listed := List.of_mem_filter (mem_of_firstQ head)
  simp only [Bool.and_eq_true, beq_iff_eq, and_assoc] at listed
  exact listed.1

/-- The current instruction is one of the command that runs on the vector engine. -/
theorem running_of_vCurrent {m : Mach} {tgt op : Nat} {i : VInst} {j : Job} {k : Cmd} (current : m.vCurrent tgt op i = some (j, k)) :
    m.running tgt 3 = some k := by
  simp only [Mach.vCurrent] at current
  split at current
  · cases current
  · next q running =>
    split at current
    · cases current
    · split at current <;> cases current
      exact running

/-- Where no instruction of the kind is the current one, nothing happens. -/
theorem vRegOp_none {m : Mach} {tgt op : Nat} {i : VInst} (l : Nat) (f : Cmd → Nat → List (Nat × Bool))
    (current : m.vCurrent tgt op i = none) : m.vRegOp tgt op i l f = m := by
  simp only [Mach.vRegOp, current]

/-- From one machine to another nothing moves but registers of a core's vector engine and the command of one fetch number. -/
structure OnlyVx (c : CoreId) (id : Nat) (m m' : Mach) : Prop where
  shape : ∃ x cs, m' = { m with regs := x, js := { m.js with cmds := cs } }
  regs : ∀ r : Nat, r ∉ vxRegs c → m'.rget r = m.rget r
  cmds : ∀ q ∈ m.js.cmds, q.id ≠ id → q ∈ m'.js.cmds

namespace OnlyVx
variable {c : CoreId} {id : Nat} {m m' m'' : Mach}

theorem refl (c : CoreId) (id : Nat) (m : Mach) : OnlyVx c id m m := ⟨⟨_, _, rfl⟩, fun _ _ => rfl, fun _ h _ => h⟩

theorem trans (h : OnlyVx c id m m') (h' : OnlyVx c id m' m'') : OnlyVx c id m m'' := by
  obtain ⟨⟨x, cs, rfl⟩, regs, cmds⟩ := h
  obtain ⟨⟨x', cs', rfl⟩, regs', cmds'⟩ := h'
  exact ⟨⟨x', cs', rfl⟩, fun r other => (regs' r other).trans (regs r other), fun q mem other => cmds' q (cmds q mem other) other⟩

theorem rset (h : OnlyVx c id m m') {r : Nat} (v : Word) (core : r ∈ vxRegs c) : OnlyVx c id m (m'.rset r v) :=
  h.trans ⟨⟨_, _, rfl⟩, fun b other => rget_rset_ne m' r b v (fun e => other (e ▸ core)), fun _ mem _ => mem⟩

theorem fset (h : OnlyVx c id m m') {f : Fld} (x : Nat) (core : f.reg ∈ vxRegs c) : OnlyVx c id m (m'.fset f x) := h.rset _ core

theorem fadd (h : OnlyVx c id m m') {f : Fld} (n : Nat) (core : f.reg ∈ vxRegs c) : OnlyVx c id m (m'.fadd f n) := h.fset _ core

theorem putCmd (h : OnlyVx c id m m') (k : Cmd) (same : k.id = id) : OnlyVx c id m (m'.putCmd k) :=
  h.trans ⟨⟨_, _, rfl⟩, fun _ _ => rfl, fun q mem other =>
    List.mem_map.mpr ⟨q, mem, if_neg (same ▸ other)⟩⟩

/-- Counting (R100) moves the core's counters. -/
theorem countNf (h : OnlyVx c id m m') (cls eng jn step n : Nat) : OnlyVx c id m (m'.countNf c.flat cls eng jn step n) := by
  simp only [Mach.countNf, flat_div, flat_mod]
  split
  · exact h
  · refine rset (rset ?_ _ (by simp [vxRegs])) _ (by simp [vxRegs])
    split
    · exact h.fadd _ (by simp [vxRegs, Reg.RF_NF_GRAD_COUNT])
    · split
      · exact h.fadd _ (by simp [vxRegs, Reg.RF_NF_LOSS_COUNT])
      · exact h.fadd _ (by simp [vxRegs, Reg.RF_NF_MON_COUNT])

theorem countFor (h : OnlyVx c id m m') (k : Cmd) (eng n : Nat) (core : k.tgt = c.flat) : OnlyVx c id m (m'.countFor k eng n).1 := by
  rw [Mach.countFor, core]
  exact h.countNf ..

/-- Going on to the next instruction (R91) moves the command, its core's state and its lane operations. -/
theorem vNext (h : OnlyVx c id m m') {k : Cmd} (n : Nat) (core : k.tgt = c.flat) (same : k.id = id) : OnlyVx c id m (m'.vNext k n) := by
  unfold Mach.vNext
  rw [core, flat_div, flat_mod]
  extract_lets d n' wrapped k1 ends k2 m1
  have same2 : k2.id = id := by simp only [k2]; split <;> exact same
  have moved : OnlyVx c id m m1 := (h.putCmd k2 same2).fadd n (by simp [vxRegs, Reg.RF_VX_LANEOPS_COUNT, d, n'])
  split
  · exact moved
  · exact (moved.fset _ (by simp [vxRegs, Reg.RF_VX_STATE_PC, d, n'])).fset _ (by simp [vxRegs, Reg.RF_VX_STATE_REPEAT, d, n'])

end OnlyVx

/-- An instruction that writes lanes moves registers of its core and the running command. -/
theorem lanesOut_onlyVx (c : CoreId) (m : Mach) (k : Cmd) (i : VInst) (l : Nat) (vs : List (Nat × Bool)) (core : k.tgt = c.flat) :
    OnlyVx c k.id m (lanesOut m k i l vs) := by
  have start := OnlyVx.refl c k.id m
  rw [lanesOut, Mach.vCount]
  split
  · exact (start.countFor k 2 _ core).vNext _ core rfl
  · exact start.vNext _ core rfl

/-- Settles O58: where no instruction of the kind is the current one nothing moves, and otherwise what the lanes' writing moves. -/
theorem vectorFrame : Obligations.VectorFrame := by
  intro s c i on x row
  obtain ⟨op, l, f, run⟩ := exec_laneRow s c i x row
  refine ⟨s.m.vRegOp c.flat op i l f, by rw [Gives, run, act_on _ _ on], ?_⟩
  rcases current : s.m.vCurrent c.flat op i with - | ⟨j, k⟩
  · rw [vRegOp_none l f current]
    exact ⟨rfl, rfl, rfl, rfl, rfl, rfl, rfl, rfl, fun _ _ => rfl, rfl, fun _ mem _ => mem⟩
  · have running := running_of_vCurrent current
    rw [vRegOp_current l f current]
    obtain ⟨⟨r, cs, shape⟩, regs, cmds⟩ := lanesOut_onlyVx c s.m k i l (f k (viCount i)) (running_tgt running)
    refine ⟨?_, ?_, ?_, ?_, ?_, ?_, ?_, ?_, regs, ?_, fun q mem other => cmds q mem (other k running)⟩
    all_goals rw [shape]

end Sys2Proof.Machine
end

section
/-!
PROOFS. Integer lanes as bit vectors, and the statement O57 (R93).
-/

namespace Sys2Proof.Machine

/-! Lanes as bit vectors (R93) -/

theorem laneW_pos (l : Nat) : 0 < laneW l := by
  unfold laneW; split <;> decide

/-- A lane's integer is that of its bit vector. -/
theorem sext_toNat {l : Nat} (a : BitVec (laneW l)) : sext (laneW l) a.toNat = a.toInt := by
  have double : 2 ^ laneW l = 2 ^ (laneW l - 1) * 2 := by
    rw [← pow_succ, Nat.sub_add_cancel (laneW_pos l)]
  simp only [sext, Nat.mod_eq_of_lt a.isLt, BitVec.toInt_eq_toNat_cond]
  split <;> split <;> omega

/-- An integer wrapped to a width is its bit vector. -/
theorem wrap_eq_toNat (w : Nat) (x : Int) : wrap w x = (BitVec.ofInt w x).toNat := (BitVec.toNat_ofInt x).symm

/-- The smaller and the greater of two lanes' integers, as one of the lanes. -/
theorem ofInt_min_toInt {w : Nat} (a b : BitVec w) : BitVec.ofInt w (min a.toInt b.toInt) = if a.slt b then a else b := by
  split
  case isTrue less => rw [min_eq_left (BitVec.slt_iff_toInt_lt.mp less).le, BitVec.ofInt_toInt]
  case isFalse more => rw [min_eq_right (not_lt.mp (mt BitVec.slt_iff_toInt_lt.mpr more)), BitVec.ofInt_toInt]
theorem ofInt_max_toInt {w : Nat} (a b : BitVec w) : BitVec.ofInt w (max a.toInt b.toInt) = if a.slt b then b else a := by
  split
  case isTrue less => rw [max_eq_right (BitVec.slt_iff_toInt_lt.mp less).le, BitVec.ofInt_toInt]
  case isFalse more => rw [max_eq_left (not_lt.mp (mt BitVec.slt_iff_toInt_lt.mpr more)), BitVec.ofInt_toInt]

/-- In each integer lane format the operation of an opcode is that of bit vectors of the lane's width. -/
theorem laneOp_intLaneOps (l c : Nat) (a b : BitVec (laneW l)) :
    ∀ p ∈ intLaneOps (laneW l), laneOp p.1 l a.toNat b.toNat c = (p.2 a b).toNat := by
  have small (x : BitVec (laneW l)) : x.toNat % 2 ^ laneW l = x.toNat := Nat.mod_eq_of_lt x.isLt
  simp only [intLaneOps, List.forall_mem_cons, List.not_mem_nil, false_imp_iff, implies_true, and_true, laneOp, sext_toNat, wrap_eq_toNat,
    small]
  refine ⟨?viadd, ?visub, ?vimul, ?vand, ?vor, ?vxor, ?vshl, ?vshr, ?vsra, ?vimin, ?vimax⟩
  case viadd => rw [BitVec.ofInt_add, BitVec.ofInt_toInt, BitVec.ofInt_toInt]
  case visub => rw [sub_eq_add_neg, BitVec.ofInt_add, BitVec.ofInt_neg, BitVec.ofInt_toInt, BitVec.ofInt_toInt, BitVec.sub_eq_add_neg]
  case vimul => rw [BitVec.ofInt_mul, BitVec.ofInt_toInt, BitVec.ofInt_toInt]
  case vand => exact (BitVec.toNat_and ..).symm
  case vor => exact (BitVec.toNat_or ..).symm
  case vxor => exact (BitVec.toNat_xor ..).symm
  case vshl => rw [BitVec.toNat_shiftLeft, Nat.shiftLeft_eq]
  case vshr => rw [BitVec.toNat_ushiftRight, Nat.shiftRight_eq_div_pow]
  case vsra => rw [BitVec.sshiftRight, Int.shiftRight_eq_div_pow]
  case vimin => rw [ofInt_min_toInt]
  case vimax => rw [ofInt_max_toInt]

/-- Settles O57: lane format 2 is 32 bits wide and lane format 3 is 16. -/
theorem integerLanes : Obligations.IntegerLanes :=
  ⟨fun p row a b c => laneOp_intLaneOps 2 c a b p row, fun p row a b c => laneOp_intLaneOps 3 c a b p row⟩

end Sys2Proof.Machine
end

section
/-!
PROOFS. Vector memory instructions and the commands of the vector engine, and the statements O14 and O15 (R83, R87, R91, R94, R95, R99 to
R101).
-/

namespace Sys2Proof.Machine

/-! Loads, stores, gathers and scatters (R94, R95, R99) -/

section
variable {s : State} {c : CoreId} {i : VInst} {j : Job} {k : Cmd} {m1 : Mach} (on : On s)
include on

/-- VLD fills its group with the elements read. -/
theorem vld_gives {raws : List Nat} (current : s.m.vCurrent c.flat 0x48 i = some (j, k))
    (read : s.m.vFetch j k i ((List.range (viCount i)).map (fun e => k.vPlain i e)) = (m1, .ok raws)) :
    Gives (.vld c i) s (lanesOut m1 k i (viLane i) (marked (viLane i) (raws.map (fun v => vIn (viLane i) i.fmt2.toNat v)))) := by
  rw [Gives, exec_vld, execVld, act_on _ _ on]
  simp only [Mach.vLoad, current, read, lanesOut, marked, List.filter_map, List.map_map, List.length_map, Function.comp_def]

/-- VST goes on to the next instruction once its elements are written. -/
theorem vst_gives {k1 : Cmd} (current : s.m.vCurrent c.flat 0x49 i = some (j, k))
    (written : s.m.vStore j k i ((k.vStored j i 0 (viCount i)).mapIdx (fun e v => (k.vPlain i e, v.1))) = (m1, .ok ()))
    (found : m1.cmdOf k.id = some k1) :
    Gives (.vst c i) s ((m1.vCount k1 i ((k.vStored j i 0 (viCount i)).filter Prod.snd).length).1.vNext
      (m1.vCount k1 i ((k.vStored j i 0 (viCount i)).filter Prod.snd).length).2 (viCount i)) := by
  rw [Gives, exec_vst, execVst, act_on _ _ on]
  simp only [Mach.vPut, current, written, found]

/-- An indexed instruction goes row by row from the first. -/
theorem gives_vIndexedOp {x : Instr} {op : Nat} (current : s.m.vCurrent c.flat op i = some (j, k))
    (row : exec x s = s.act (fun m => m.vIndexedOp c.flat op i)) : Gives x s (s.m.vRows j op i k.id (viCount i + 1)) := by
  rw [Gives, row, act_on _ _ on]
  simp only [Mach.vIndexedOp, current]

end

/-- Settles O14: the load and the store by what their accesses answer, the indexed rows by the one form they share. -/
theorem vectorMemoryInstructions : Obligations.VectorMemoryInstructions := by
  intro s c i j k on
  exact ⟨fun _ _ current read => vld_gives on current read, fun _ _ current written found => vst_gives on current written found,
    fun current => gives_vIndexedOp on current (exec_vgather s), fun current => gives_vIndexedOp on current (exec_vscatter s),
    fun current => gives_vIndexedOp on current (exec_vscadd s)⟩

/-! Chains and programs (R83, R87, R91, R100, R101) -/

/-- A command that is ready at its queue head and whose descriptor passes its check begins. -/
theorem atHead_ready {m : Mach} {tgt eng : Nat} {excl : Bool} {k : Cmd} {is : Cmd → Bool} {check : Mach → Cmd → Option Nat}
    (go : Mach → Cmd → Mach) (ready : headReady m tgt eng excl k) (kind : is k = true) (valid : check m k = none) :
    m.atHead tgt eng is check excl go = go m k := by
  obtain ⟨head, queued, passes, taken⟩ := ready
  simp [Mach.atHead, head, queued, kind, valid, passes, taken]

section
variable {s : State} {c : CoreId} {j : Job} {k : Cmd} (on : On s)
include on

theorem chain_begins (ready : headReady s.m c.flat 3 false k) (kind : bits (wd k.body 0) 0 2 = 0) (valid : chainCheck s.m k = none) :
    Gives (.chain c) s (s.m.vxBegin k) := by
  rw [Gives, exec_chain, execChain, act_on _ _ on, atHead_ready _ ready (by simp [kind]) (by simp [vxKind, kind, valid])]

theorem program_begins (ready : headReady s.m c.flat 3 false k) (kind : bits (wd k.body 0) 0 2 = 1) (valid : programCheck s.m k = none)
    (job : s.m.job? k.job = some j) : Gives (.program c) s (s.m.vxBegin (k.withBlock (s.m.pgBlockWords j k))) := by
  rw [Gives, exec_program, execProgram, act_on _ _ on, atHead_ready _ ready (by simp [kind]) valid]
  simp only [job]

end

section
variable {m : Mach} {j : Job} {k : Cmd} (job : m.job? k.job = some j) (kind : bits (wd k.body 0) 0 2 = 0) (nofault : k.fault = none)
  (nostatus : k.status = none)
include job kind nofault nostatus

/-- A chunk computed before writes. -/
theorem chunk_computed (computed : sget 0 1 k.run = 1) : m.chunk k = m.chWrite j k := by
  simp [Mach.chunk, job, kind, nofault, nostatus, computed]

/-- A chunk not yet computed reads, computes, counts, and then writes. -/
theorem chunk_fresh {m1 m2 : Mach} {els : List (List RdEl)} {items : List WItem} {n acc : Nat} (fresh : sget 0 1 k.run ≠ 1)
    (read : m.chReads j k (k.chunkAt k.prog).1 (k.chunkAt k.prog).2.1 (k.chunkAt k.prog).2.2.1 (k.chunkAt k.prog).2.2.2 = (m1, .ok els))
    (computes : m1.chCompute j k (k.chunkAt k.prog).1 (k.chunkAt k.prog).2.1 (k.chunkAt k.prog).2.2.1 (k.chunkAt k.prog).2.2.2 els =
      (m2, .ok (items, n, acc))) :
    m.chunk k = ((m2.countFor k 2 n).1.fadd (Reg.RF_VX_LANEOPS_COUNT (k.tgt / 48) (k.tgt % 48))
      ((k.chunkAt k.prog).2.1 * k.chStages)).chWrite j
        { (m2.countFor k 2 n).2 with saved := saveItems (mergeItems items), run := sset 0 1 1 (sset 0 0 acc k.run) } := by
  simp [Mach.chunk, job, kind, nofault, nostatus, fresh, read, computes]

end

theorem chainChunk_gives {s : State} {c : CoreId} {k : Cmd} (on : On s) (running : s.m.running c.flat 3 = some k) :
    Gives (.chainChunk c) s (s.m.chunk k) := by
  simp only [Gives, exec_chainChunk, execChainChunk, act_on _ _ on, running]

/-- Settles O15: the two kinds begin at their queue head, a chunk goes by whether it has been computed, and the counters clear for an
agent that reaches them. -/
theorem vectorCommandsComplete : Obligations.VectorCommandsComplete := by
  intro s c on
  refine ⟨fun k ready kind valid => chain_begins on ready kind valid,
    fun k j ready kind valid job => program_begins on ready kind valid job, fun k j running job kind nofault nostatus computed => ?_,
    fun k j m1 m2 els items n acc running job kind nofault nostatus fresh read computes => ?_, fun a reach => ⟨?_, ?_⟩⟩
  · exact chunk_computed job kind nofault nostatus computed ▸ chainChunk_gives on running
  · exact chunk_fresh job kind nofault nostatus fresh read computes ▸ chainChunk_gives on running
  · rw [Gives, exec_vxCntClr, execVxCntClr, act_on _ _ on, Mach.byAgent, if_pos reach]
    rfl
  · rw [Gives, exec_nfClr, execNfClr, act_on _ _ on, Mach.byAgent, if_pos reach]
    rfl

end Sys2Proof.Machine
end

section
/-!
PROOFS. Job commands and the doorbell page: what a row leaves whose agent may write, what CREATE opens, and the statements O6 and O7 (R109,
R110, R125, R127, R130, R131, R142, R258, R462).
-/

namespace Sys2Proof.Machine

/-! Rows whose agent may write -/

section
variable {s : State} {i : Instr} {m' : Mach} (on : On s)
include on

/-- A row of a module that is on gives what its function makes of the machine. -/
theorem gives_act {f : Mach → Mach} (row : exec i s = s.act f) (result : f s.m = m') : Gives i s m' := by
  rw [Gives, row, act_on _ _ on, result]

/-- A write of the owner's registers by an agent that may make it (R258). -/
theorem gives_owned {a : Agent} {addr : Nat} {f : Mach → Mach} (may : MayOwn s.m a)
    (row : exec i s = s.act (fun m => m.owned a addr f)) (result : f s.m = m') : Gives i s m' :=
  gives_act on row ((owned_owner s.m a addr f may).trans result)

/-- A write by an agent that reaches the register (R15). -/
theorem gives_byAgent {a : Agent} {addr : Nat} {f : Mach → Mach} (reach : Agent.reaches a addr = true)
    (row : exec i s = s.act (fun m => m.byAgent a addr f)) (result : f s.m = m') : Gives i s m' :=
  gives_act on row ((if_pos reach).trans result)

end

/-! CREATE and DESTROY (R109, R110) -/

/-- The first check of CREATE asks where the descriptor stands. -/
theorem createCheck_place {m : Mach} {desc jn : Nat} {ws : List Word} {bad : Bool} (passes : m.createCheck desc jn ws bad = none) :
    ¬(desc % 128 ≠ 0 ∨ !inStackOrShelf desc 128) := by
  intro misplaced
  rw [Mach.createCheck, if_pos misplaced] at passes
  cases passes

section
variable {m : Mach} {jn : Nat} (idle : m.flag Reg.HB_JOB_STATUS_BUSY = false) (runs : m.harbourRuns = true)
include idle runs

/-- CREATE opens the job whose descriptor it reads, once the descriptor passes its checks. -/
theorem create_opens {m1 : Mach} {ws : List Word} {bad : Bool}
    (read : m.hubWords 26 (m.fget Reg.HB_JOB_ARG_DESC) 16 = (m1, some (ws, bad)))
    (passes : m1.createCheck (m.fget Reg.HB_JOB_ARG_DESC) jn ws bad = none) :
    m.create jn = (opened m m1 jn ws).slackWake ((opened m m1 jn ws).fget Reg.PW_MODE_PREV) := by
  simp only [Mach.create, opened, idle, runs, if_neg (createCheck_place passes), read, passes, Bool.not_true, Bool.false_eq_true, if_false]

/-- DESTROY of a live job marks it dying and ends its commands. -/
theorem destroy_cancels {j : Job} (job : m.job? jn = some j) :
    m.destroy jn = (m.dying jn j).cancel 0x0102 (m.js.cmds.filter (fun c => c.job == jn)) := by
  simp only [Mach.destroy, idle, runs, job, Bool.not_true, Bool.false_eq_true, if_false]

end

/-- A destroyed job that has neither a command nor a record left is forgotten. -/
theorem destroyDone_forgets {m : Mach} {jn : Nat} {j : Job} (job : m.job? jn = some j) (dying : j.dying = true)
    (written : j.overflow = []) (ended : ∀ c ∈ m.js.cmds, c.job ≠ jn) : m.destroyDone jn = m.forget jn j := by
  have none_left : m.js.cmds.any (fun c => c.job == jn) = false := by simpa using ended
  simp [Mach.destroyDone, job, dying, written, none_left]

/-- Settles O6: each row by what its command does once its guards are met. -/
theorem jobCommandsComplete : Obligations.JobCommandsComplete := by
  intro s a job on
  refine ⟨fun m1 ws bad may idle runs read passes => ?_, fun j may idle runs live => ?_, fun j live dying written ended => ?_⟩
  · exact gives_owned on may (exec_create s) (create_opens idle runs read passes)
  · exact gives_owned on may (exec_destroy s) (destroy_cancels idle runs live)
  · exact gives_act on (exec_destroyComplete s) (destroyDone_forgets live dying written ended)

/-! The doorbell page (R125, R462) -/

section
variable {m : Mach} {jn r : Nat} {j : Job} (job : m.job? jn = some j)
include job

section
variable (enabled : j.ringEn r = true)
include enabled

/-- A tail no more than its ring's size ahead of HEAD is taken, and one of a failed job stops nothing. -/
theorem sqTail_within {tail : Nat}
    (within : j.failed = true ∨ (tail + 2 ^ 32 - m.fget (Reg.HB_DB_SQ_HEAD_HEAD jn r)) % 2 ^ 32 ≤ j.sqSize r) :
    m.sqTail jn r tail = (m.fset (Reg.HB_DB_SQ_TAIL_TAIL jn r) tail).doorbellWake := by
  rcases within with failed | within
  · simp [Mach.sqTail, job, enabled, failed]
  · simp only [Mach.sqTail, job, enabled, Nat.not_lt.mpr within, Bool.not_true, Bool.false_eq_true, if_false, ite_self]

/-- A tail further ahead stops the ring. -/
theorem sqTail_beyond {tail : Nat} (works : j.failed = false)
    (beyond : j.sqSize r < (tail + 2 ^ 32 - m.fget (Reg.HB_DB_SQ_HEAD_HEAD jn r)) % 2 ^ 32) :
    m.sqTail jn r tail = (m.fset (Reg.HB_DB_SQ_TAIL_TAIL jn r) tail).doorbellWake.stopRing jn r 0x0208 := by
  simp only [Mach.sqTail, job, enabled, works, beyond, Bool.not_true, Bool.false_eq_true, if_false, if_true]

/-- RESUME clears STOPPED where the tail stands within the ring. -/
theorem ringResume_within (within : j.failed = true ∨
    (m.fget (Reg.HB_DB_SQ_TAIL_TAIL jn r) + 2 ^ 32 - m.fget (Reg.HB_DB_SQ_HEAD_HEAD jn r)) % 2 ^ 32 ≤ j.sqSize r) :
    m.ringResume jn r = m.fset (Reg.HB_DB_SQ_HEAD_STOPPED jn r) 0 := by
  rcases within with failed | within
  · simp [Mach.ringResume, job, enabled, failed]
  · simp only [Mach.ringResume, job, enabled, Nat.not_lt.mpr within, Bool.not_true, Bool.false_eq_true, if_false, ite_self]

/-- Where the tail stands further ahead, the ring stops again. -/
theorem ringResume_beyond (works : j.failed = false) (beyond : j.sqSize r <
    (m.fget (Reg.HB_DB_SQ_TAIL_TAIL jn r) + 2 ^ 32 - m.fget (Reg.HB_DB_SQ_HEAD_HEAD jn r)) % 2 ^ 32) :
    m.ringResume jn r = (m.fset (Reg.HB_DB_SQ_HEAD_STOPPED jn r) 0).stopRing jn r 0x0208 := by
  simp only [Mach.ringResume, job, enabled, works, beyond, Bool.not_true, Bool.false_eq_true, if_false, if_true]

/-- RESET moves HEAD to TAIL, clears STOPPED and ends what the ring has fetched and not dispatched. -/
theorem ringReset_enabled : m.ringReset jn r =
    ((m.fset (Reg.HB_DB_SQ_HEAD_HEAD jn r) (m.fget (Reg.HB_DB_SQ_TAIL_TAIL jn r))).fset (Reg.HB_DB_SQ_HEAD_STOPPED jn r) 0).retireAll
      0x0102 (m.js.cmds.filter (fun c => c.job == jn && c.ring == r && c.phase == .pending)) := by
  simp [Mach.ringReset, job, enabled]

end

/-- A signal of one of Harbour's events raises the event to the value (R117). -/
theorem dbEvent_harbour {event value : Nat} (harbour : event < 224) : m.dbEvent jn event value =
    (m.fset (Reg.HB_EVENT_VALUE jn event) (max (m.fget (Reg.HB_EVENT_VALUE jn event)) value)).doorbellWake := by
  simp [Mach.dbEvent, Mach.live, Mach.signal, job, harbour]

end

section
variable {s : State} {a : Agent} {job : Fin 64} {j : Job} {t : BitVec 32} (on : On s) (live : s.m.job? job.val = some j)
include on live

/-- A head of the completion ring lets waiting records into it (R130). -/
theorem cqHeadWrite_drains (reach : Agent.reaches a (Reg.HB_DB_CQ_HEAD job.val) = true) :
    Gives (.cqHeadWrite a job t) s (((s.m.fset (Reg.HB_DB_CQ_HEAD_HEAD job.val) t.toNat).setJob job.val
      (some { j with cqFullSent := false })).cqDrain job.val j.overflow) :=
  gives_byAgent on reach (exec_cqHeadWrite s) (by simp only [live])

/-- A head of the event ring, where no record was lost. -/
theorem eqHeadWrite_kept (reach : Agent.reaches a (Reg.HB_DB_EQ_HEAD job.val) = true) (kept : j.eventsLost = 0) :
    Gives (.eqHeadWrite a job t) s (s.m.fset (Reg.HB_DB_EQ_HEAD_HEAD job.val) t.toNat) :=
  gives_byAgent on reach (exec_eqHeadWrite s) (by simp [live, kept])

/-- A head of the event ring that makes room, where records were lost, writes their number (R131). -/
theorem eqHeadWrite_lost (reach : Agent.reaches a (Reg.HB_DB_EQ_HEAD job.val) = true) (lost : j.eventsLost ≠ 0)
    (room : (s.m.fset (Reg.HB_DB_EQ_HEAD_HEAD job.val) t.toNat).eqFull job.val j = false) :
    Gives (.eqHeadWrite a job t) s (((s.m.fset (Reg.HB_DB_EQ_HEAD_HEAD job.val) t.toNat).setJob job.val
      (some { j with eventsLost := 0 })).postEvent job.val 0x07 0 0 0 0 j.eventsLost) :=
  gives_byAgent on reach (exec_eqHeadWrite s) (by simp [live, lost, room])

/-- A batch that is not full interrupts at its time-out (R125). -/
theorem cqBatchTimeout_raises (partly : j.batch ≠ 0) (asked : s.m.flag (Reg.HB_DB_IRQ_CQ_EN job.val) = true) :
    Gives (.cqBatchTimeout job) s ((s.m.setJob job.val (some { j with batch := 0 })).raise job.val) :=
  gives_act on (exec_cqBatchTimeout s) (by simp [live, partly, asked])

end

/-- Settles O7, write by write: the tail and RESUME by where the tail stands, the event ring's head by whether records were lost. -/
theorem doorbellRowsComplete : Obligations.DoorbellRowsComplete := by
  intro s a job ring j t on live
  refine ⟨fun reach enabled => ⟨fun within => ?_, fun works beyond => ?_⟩, fun e v reach harbour => ?_,
    fun reach enabled => ⟨fun within => ?_, fun works beyond => ?_⟩, fun reach enabled => ?_,
    cqHeadWrite_drains on live, eqHeadWrite_kept on live, eqHeadWrite_lost on live, cqBatchTimeout_raises on live⟩
  · exact gives_byAgent on reach (exec_sqDoorbell s) (sqTail_within live enabled within)
  · exact gives_byAgent on reach (exec_sqDoorbell s) (sqTail_beyond live enabled works beyond)
  · exact gives_byAgent on reach (exec_hbDbEvent s) (dbEvent_harbour live harbour)
  · exact gives_byAgent on reach (exec_ringResume s) (ringResume_within live enabled within)
  · exact gives_byAgent on reach (exec_ringResume s) (ringResume_beyond live enabled works beyond)
  · exact gives_byAgent on reach (exec_ringReset s) (ringReset_enabled live enabled)

end Sys2Proof.Machine
end

section
/-!
PROOFS. The way of a command from its ring to its record: how a fetched command is taken in, what its engine leaves at its end, what its
limits do, the step boundary, and the statement O8 (R104, R112, R114, R132, R137, R139, R140, R144, R460).
-/

namespace Sys2Proof.Machine

/-! Fetch (R112, R460) -/

/-- Harbour reads the header and the body of a command that the tail covers, and takes it. -/
theorem fetch_takes {m m1 m2 : Mach} {jn r head pos left slots : Nat} {j : Job} {h b : List Word} (job : m.job? jn = some j)
    (enabled : j.ringEn r = true) (goes : m.flag (Reg.HB_DB_SQ_HEAD_STOPPED jn r) = false) (works : j.failed = false)
    (lives : j.dying = false) (headEq : head = m.fget (Reg.HB_DB_SQ_HEAD_HEAD jn r)) (posEq : pos = head % j.sqSize r)
    (leftEq : left = j.sqSize r - pos)
    (covered : 1 + slots ≤ (m.fget (Reg.HB_DB_SQ_TAIL_TAIL jn r) + 2 ^ 32 - head) % 2 ^ 32) (fits : 1 + slots ≤ left)
    (header : m.hubWords 26 (j.sqBase r + pos * 64) 8 = (m1, some (h, false)))
    (body : m1.hubWords 26 (j.sqBase r + (pos + 1) % j.sqSize r * 64) (8 * slots) = (m2, some (b, false)))
    (command : bits (wd h 0) 0 4 ≠ 15) (slotsEq : slots = bits (wd h 0) 10 4) :
    m.fetch jn r = m2.take j jn r head (1 + slots) h b false := by
  subst headEq posEq leftEq slotsEq
  have some_avail := (Nat.lt_of_lt_of_le (Nat.add_pos_left Nat.one_pos _) covered).ne'
  simp only [Mach.fetch, job, enabled, goes, works, lives, beq_eq_false_iff_ne.mpr some_avail, header, command, min_eq_left fits,
    Nat.not_lt.mpr covered, Nat.add_sub_cancel_left, body, Bool.not_true, Bool.or_self, Bool.false_eq_true, if_false]

/-- A command that passes its header checks, for a die in service and a buffer with a place, enters the buffer. -/
theorem take_takesIn {m : Mach} {j : Job} {jn r head len tgt : Nat} {h b : List Word} {c : Cmd}
    (tgtEq : tgt = if j.ringTarget r = 4 then 192 else j.ringTarget r * 48 + bits (wd h 0) 4 6)
    (passes : headerCheck jn (j.ringTarget r) (j.sqSize r - head % j.sqSize r) h b = none)
    (serves : ¬(j.ringTarget r < 4 ∧ m.fget (Reg.HB_DIE_STATE_STATE (j.ringTarget r)) ≠ dieInService))
    (place : m.bufferUsed tgt < 64)
    (cEq : c = { newCmd m.js.nextId jn r (head % j.sqSize r) tgt (bits (wd h 0) 0 4) h b with task := m.taskNow jn tgt })
    (goesOn : (m.accept jn r head len).taskFails c = none) :
    m.take j jn r head len h b false = (m.accept jn r head len).takeIn c := by
  subst tgtEq cEq
  simp only [Mach.take, passes, if_neg serves, Nat.not_le.mpr place, goesOn, Bool.false_eq_true, if_false]

/-! Dispatch and the end of a command (R104, R132, R140) -/

/-- The command chosen takes a place in a queue that has one. -/
theorem dispatch_enqueues {m : Mach} {tgt eng jn : Nat} {c : Cmd} (place : (m.entries tgt eng).length < 32)
    (chosen : m.choose tgt eng ((sget none (tgt * 8 + eng) m.js.rr).getD ⟨0, []⟩) = some jn)
    (first : m.candidate tgt eng jn = some c) : m.dispatch tgt eng = m.enqueue tgt eng jn c := by
  simp only [Mach.dispatch, if_neg (Nat.not_le.mpr place), chosen, first]

/-- A command whose work has ended and whose writes are home completes with its status. -/
theorem commandDone_finishes {m : Mach} {c : Cmd} {st : Nat} (settled : c.status = some st) (home : sget 0 c.id m.js.outst = 0)
    (flushed : c.flushing = false) : m.commandDone c = (m.countDone c).finish c st 0 c.va c.skipped := by
  simp [Mach.commandDone, settled, home, flushed]

section
variable {s : State} (on : On s)
include on

/-- COMMAND_COMPLETE of a queue whose engine runs one command at a time. -/
theorem commandComplete_running {t : Seq} {e : Engine} {c : Cmd} (one : t = .harbour → e = .sequencer)
    (running : s.m.running t.tgt e.code = some c) : Gives (.commandComplete t e) s (s.m.commandDone c) :=
  gives_act on (exec_commandComplete s) (by
    simp only [if_neg (show ¬(t = .harbour ∧ e ≠ .sequencer) from fun several => several.2 (one several.1)), running])

/-- COMMAND_COMPLETE of the collective engine or Intake takes the first settled command whose turn has come (R128). -/
theorem commandComplete_harbour {e : Engine} {c : Cmd} (several : e ≠ .sequencer)
    (found : s.m.js.cmds.find? (fun k => k.tgt == 192 && k.eng == e.code && k.phase == .running && k.status.isSome && !s.m.waitsTurn k) =
      some c) : Gives (.commandComplete .harbour e) s (s.m.commandDone c) :=
  gives_act on (exec_commandComplete s) (by simp only [ne_eq, several, not_false_eq_true, and_self, if_true, found])

/-! Faults and limits (R137, R139, R144) -/

/-- SWITCH_OUT of an engine whose command waits on a fault. -/
theorem switchOut_faulted {c : CoreId} {e : Engine} {k : Cmd} {f : CmdFault} (running : s.m.running c.flat e.code = some k)
    (fault : k.fault = some f) (unsettled : k.status = none) : Gives (.switchOut c e) s (s.m.switchOut k) :=
  gives_act on (exec_switchOut s) (by simp [running, fault, unsettled])

/-- A fault that outlasts its limit ends the command named with 0x0405. -/
theorem faultLimitExpiry_ends {t : Seq} {e : Engine} {i : Fin 64} {k : Cmd} {f : CmdFault} (fault : k.fault = some f)
    (named : (s.m.js.cmds.filter (fun k => k.tgt == t.tgt && k.eng == e.code && k.fault.isSome && k.phase != .ended))[i.val]? =
      some k) : Gives (.faultLimitExpiry t ⟨e, i⟩) s ((s.m.leaveFaults k).endFaulted k 0x0405 f.va) :=
  gives_act on (exec_faultLimitExpiry s) (by simp only [named, fault])

/-- The watchdog gives the command named its status and logs it; the record's STATUS and ADDR are those of log entry 19. -/
theorem watchdogExpiry_stops {t : Seq} {e : Engine} {i : Fin 8} {c : Cmd} (timed : e ≠ .sequencer)
    (named : (s.m.timed t.tgt e.code)[i.val]? = some c) :
    Gives (.watchdogExpiry t ⟨e, i⟩) s ((s.m.putCmd { c with status := some 0x0F03 }).logE 0x1A 0x0F03 e.code c.job 0) :=
  gives_act on (exec_watchdogExpiry s) (by simp only [if_neg timed, named])

end

/-! The step boundary (R116) -/

/-- A boundary at which no replay ends falls once the data of a Tidemark due are read. -/
theorem stepBoundary_falls {m : Mach} {jn : Nat} {j : Job} {ds : List (List Byte)} (job : m.job? jn = some j) (lives : j.dying = false)
    (works : j.failed = false) (due : m.atBoundary jn j = true) (plain : m.replayCheck? jn j = (m, .ok none))
    (read : m.sealRead jn j = (m, .ok ds)) : m.stepBoundary jn =
      ((m.crossBoundary jn j 0).tmBoundary jn j.step (m.sealDue jn j) ds).boundaryActions jn j := by
  simp [Mach.stepBoundary, job, lives, works, due, plain, read]

/-- Settles O8 along a command's way: fetched, dispatched, completed by its engine or by a limit, and its step's boundary. -/
theorem commandFlowComplete : Obligations.CommandFlowComplete := by
  intro s on
  refine ⟨fun job ring j live enabled goes works lives head pos left slots tgt h b m1 m2 c headEq posEq leftEq covered fits header body
      command slotsEq tgtEq passes serves place cEq goesOn => ?_,
    fun t e jn c place chosen first => gives_act on (exec_commandDispatch s) (dispatch_enqueues place chosen first),
    fun t e c st one running settled home flushed => ?_, fun e c st several settled home flushed found => ?_,
    fun c e k f running fault unsettled => switchOut_faulted on running fault unsettled,
    fun t e i k f fault named => faultLimitExpiry_ends on fault named,
    fun t e i c timed named => watchdogExpiry_stops on timed named,
    fun job j ds live lives works due plain read =>
      gives_act on (exec_stepBoundary s) (stepBoundary_falls live lives works due plain read)⟩
  · refine gives_act on (exec_commandFetch s) ((fetch_takes live enabled goes works lives headEq posEq leftEq covered fits header body
      command slotsEq).trans ?_)
    subst posEq leftEq
    exact take_takesIn tgtEq passes serves place cEq goesOn
  · exact commandDone_finishes settled home flushed ▸ commandComplete_running on one running
  · exact commandDone_finishes settled home flushed ▸ commandComplete_harbour on several found

end Sys2Proof.Machine
end

section
/-!
PROOFS. Commands at their queue heads: the sequencer's own and the data mover's, and the statements O9 and O10 (R113 to R116, R121, R122,
R135, R140).
-/

namespace Sys2Proof.Machine

/-- Where the head of a queue is still queued, its engine runs no command. -/
theorem running_of_queuedHead {m : Mach} {tgt eng : Nat} {c : Cmd} (head : m.queueHead tgt eng = some c) (queued : c.phase = .queued) :
    m.running tgt eng = none := by
  simp [Mach.running, head, queued]

/-! The sequencer's own commands (R113 to R116) -/

/-- A sequencer command of the row's opcode that is ready and passes its checks begins. -/
theorem seqHead_ready {m : Mach} {tgt op : Nat} {excl : Bool} {c : Cmd} (go : Mach → Cmd → Mach) (valid : seqCheck c = none)
    (ready : headReady m tgt 0 excl c) (opcode : c.seqOp = op) : m.seqHead tgt op excl go = go m c :=
  atHead_ready go ready (by simp [opcode]) valid

section
variable {s : State} {c : Cmd} {t : Seq} (on : On s) (valid : seqCheck c = none)
include on valid

/-- FLUSH begins at a head that is queued, since no other command of the queue runs. -/
theorem flush_begins (ready : headReady s.m t.tgt 0 false c) (opcode : c.seqOp = 3) :
    Gives (.flush t) s ((s.m.run c).flushRun { c with phase := .running }) := by
  refine gives_act on (exec_flush s) ?_
  obtain ⟨head, queued, -⟩ := id ready
  simp only [running_of_queuedHead head queued]
  exact seqHead_ready _ valid ready opcode

/-- STEPEND is parked until its boundary; its COND is not consulted (R46). -/
theorem stepend_parks (head : s.m.queueHead t.tgt 0 = some c) (queued : c.phase = .queued) (kind : c.isStepend = true)
    (passes : s.m.stateAux c.uncond false = none) : Gives (.stepend t) s (s.m.run c) :=
  gives_act on (exec_stepend s) (by simp [head, queued, kind, valid, passes])

end

/-- Settles O9: each row begins the command at its head, FLUSH since nothing runs there and STEPEND by its own checks. -/
theorem sequencerCommandsComplete : Obligations.SequencerCommandsComplete := by
  intro s c on valid
  exact ⟨fun t ready opcode => gives_act on (exec_nop s) (seqHead_ready _ valid ready opcode),
    fun t ready opcode => gives_act on (exec_fence s) (seqHead_ready _ valid ready opcode),
    fun t ready opcode => flush_begins on valid ready opcode,
    fun t head queued kind passes => stepend_parks on valid head queued kind passes,
    fun k pass ready opcode => gives_act on (exec_selftest s) (seqHead_ready _ valid ready opcode),
    fun k ready opcode => gives_act on (exec_poolclear s) (seqHead_ready _ valid ready opcode)⟩

/-! The data mover (R121, R122) -/

/-- A data mover command of the row's kind that is ready and passes its checks runs its units. -/
theorem dmGo_ready {m : Mach} {tgt : Nat} {k : Cmd} {mine : Nat → Bool} (ready : headReady m tgt 4 false k) (valid : dmCheck m k = none)
    (kind : mine k.dmKind = true) :
    m.dmGo tgt mine = (m.putCmd { k with phase := .running }).dmRun { k with phase := .running } := by
  obtain ⟨head, queued, -⟩ := id ready
  simp only [Mach.dmGo, running_of_queuedHead head queued]
  exact atHead_ready _ ready kind valid

/-- Settles O10: the three kinds share the way they begin. -/
theorem moverCommandsComplete : Obligations.MoverCommandsComplete := by
  intro s c k on ready valid
  exact ⟨fun kind => gives_act on (exec_copy s) (dmGo_ready ready valid (by simp [kind])),
    fun kind => gives_act on (exec_stage s) (dmGo_ready ready valid (by simp [kind])),
    fun kind => gives_act on (exec_fill s) (dmGo_ready ready valid (by simp [kind]))⟩

end Sys2Proof.Machine
end

section
/-!
PROOFS. Memory: what a write under a key leaves of every other byte, what is read back, what keeps the canonical form, and the statement
O54 (R156, R160, R162).
-/

namespace Sys2Proof.Machine

/-! Bytes read one after another -/

theorem peeks_eq_map (m : Mach) (key : Nat) : ∀ n pa : Nat, m.peeks key pa n = (List.range n).map (fun i => m.peek key (pa + i))
  | 0, _ => rfl
  | n + 1, pa => by
    simp only [Mach.peeks, peeks_eq_map m key n, List.range_succ_eq_map, List.map_cons, List.map_map, Nat.add_zero, Function.comp_def,
      Nat.succ_eq_add_one, Nat.add_right_comm pa 1, Nat.add_assoc]

theorem peeks_congr {m m' : Mach} {key pa n : Nat} (same : ∀ x, pa ≤ x → x < pa + n → m'.peek key x = m.peek key x) :
    m'.peeks key pa n = m.peeks key pa n := by
  rw [peeks_eq_map, peeks_eq_map]
  refine List.map_congr_left fun i hi => same _ (Nat.le_add_right _ _) ?_
  have := List.mem_range.mp hi
  omega

theorem peeks_add (m : Mach) (key k : Nat) : ∀ n pa : Nat, m.peeks key pa (n + k) = m.peeks key pa n ++ m.peeks key (pa + n) k
  | 0, _ => by simp [Mach.peeks]
  | n + 1, pa => by
    rw [Nat.add_right_comm, Mach.peeks, Mach.peeks, peeks_add m key k n, List.cons_append, Nat.add_assoc, Nat.add_comm 1]

/-- Bytes are read where they stand once their first and their last ones are. -/
theorem peeks_of_parts {m : Mach} {key pa n : Nat} {bs : List Byte} (within : n ≤ bs.length) (first : m.peeks key pa n = bs.take n)
    (rest : m.peeks key (pa + n) (bs.drop n).length = bs.drop n) : m.peeks key pa bs.length = bs := by
  rw [List.length_drop] at rest
  rw [← Nat.add_sub_cancel' within, peeks_add, first, rest, List.take_append_drop]

theorem getD_peeks (m : Mach) {key pa n i : Nat} (within : i < n) (d : Byte) : (m.peeks key pa n).getD i d = m.peek key (pa + i) := by
  simp [peeks_eq_map, List.getD_eq_getElem?_getD, List.getElem?_range within]

/-! What a read depends on (R162) -/

/-- Under the key its block stands under, a byte is read as it is stored. -/
theorem peek_of_tag {m : Mach} {key x : Nat} (tag : sget 0 (x / 16) m.mem.ktag = key) : m.peek key x = sget 0 x m.mem.bytes := by
  simp only [Mach.peek, tag, if_true]

/-- Whatever the key, a read depends on its own cipher block alone. -/
theorem peek_congr {m m' : Mach} {key x : Nat} (tag : sget 0 (x / 16) m'.mem.ktag = sget 0 (x / 16) m.mem.ktag)
    (bytes : ∀ y, y / 16 = x / 16 → sget (0 : Byte) y m'.mem.bytes = sget 0 y m.mem.bytes) : m'.peek key x = m.peek key x := by
  have block : m'.cipherBlock (x / 16) = m.cipherBlock (x / 16) :=
    List.map_congr_left fun i hi => bytes _ (by have := List.mem_range.mp hi; omega)
  simp only [Mach.peek, tag, block, bytes x rfl]

/-! Bytes stored under the keys that stand -/

@[simp] theorem pokes_ktag : ∀ (bs : List Byte) (m : Mach) (pa : Nat), (m.pokes pa bs).mem.ktag = m.mem.ktag
  | [], _, _ => rfl
  | _ :: bs, m, pa => pokes_ktag bs (m.poke pa _) (pa + 1)

theorem sget_poke_ne (m : Mach) {pa x : Nat} (b : Byte) (other : x ≠ pa) :
    sget (0 : Byte) x (m.poke pa b).mem.bytes = sget 0 x m.mem.bytes := sget_sset_ne _ _ _ other _ _

theorem sget_pokes_outside {x : Nat} : ∀ {bs : List Byte} {m : Mach} {pa : Nat}, x < pa ∨ pa + bs.length ≤ x →
    sget (0 : Byte) x (m.pokes pa bs).mem.bytes = sget 0 x m.mem.bytes
  | [], _, _, _ => rfl
  | b :: bs, m, pa, outside => by
    rw [List.length_cons] at outside
    rw [Mach.pokes, sget_pokes_outside (by omega), sget_poke_ne m b (by omega)]

theorem sget_pokes_within {i : Nat} : ∀ {bs : List Byte} {m : Mach} {pa : Nat}, i < bs.length →
    sget (0 : Byte) (pa + i) (m.pokes pa bs).mem.bytes = bs.getD i 0
  | [], _, _, within => absurd within (Nat.not_lt_zero _)
  | b :: bs, m, pa, within => by
    rw [Mach.pokes]
    cases i with
    | zero => rw [sget_pokes_outside (.inl (by omega))]; exact sget_sset_same ..
    | succ i =>
      rw [Nat.add_comm i, ← Nat.add_assoc, sget_pokes_within (Nat.lt_of_succ_lt_succ within), Nat.add_comm 1, List.getD_cons_succ]

/-- What a write of a range leaves: a byte outside it, read under the key of the write or in a cipher block that the range does not
meet. -/
def LeftAlone (key pa n k x : Nat) : Prop := (x < pa ∨ pa + n ≤ x) ∧ (k = key ∨ x / 16 < pa / 16 ∨ (pa + n - 1) / 16 < x / 16)

section
variable {key pa : Nat} {bs : List Byte} {m : Mach}
  (stands : ∀ b, pa / 16 ≤ b → b ≤ (pa + bs.length - 1) / 16 → sget 0 b m.mem.ktag = key)
include stands

/-- Bytes stored in cipher blocks that stand under a key leave every other byte. -/
theorem peek_pokes_leftAlone {k x : Nat} (alone : LeftAlone key pa bs.length k x) : (m.pokes pa bs).peek k x = m.peek k x := by
  obtain ⟨outside, apart⟩ := alone
  by_cases block : x / 16 < pa / 16 ∨ (pa + bs.length - 1) / 16 < x / 16
  · refine peek_congr (by rw [pokes_ktag]) fun y same => sget_pokes_outside ?_
    omega
  · obtain rfl : k = key := apart.resolve_right block
    have tag := stands (x / 16) (by omega) (by omega)
    rw [peek_of_tag tag, peek_of_tag (by rw [pokes_ktag, tag]), sget_pokes_outside outside]

/-- They are read back under it. -/
theorem peeks_pokes : (m.pokes pa bs).peeks key pa bs.length = bs := by
  rw [peeks_eq_map]
  refine List.ext_getElem (by simp) fun i _ within => ?_
  have tag := stands ((pa + i) / 16) (by omega) (by omega)
  rw [List.getElem_map, List.getElem_range, peek_of_tag (by rw [pokes_ktag, tag]), sget_pokes_within within,
    List.getD_eq_getElem _ _ within]

end

/-! Cipher blocks turned to a key (R160, R162) -/

/-- A block turned to a key stands under it, and every other block under the key it had. -/
theorem rekey_tag (m : Mach) (key blk b : Nat) :
    sget 0 b (m.rekey key blk).mem.ktag = if b = blk then key else sget 0 b m.mem.ktag := by
  rw [Mach.rekey]
  split
  case isTrue stands =>
    split
    case isTrue same => rw [same, stands]
    case isFalse => rfl
  case isFalse =>
    split
    case isTrue same => rw [same]; exact sget_sset_same ..
    case isFalse other => exact (sget_sset_ne _ _ _ other _ _).trans (by rw [pokes_ktag])

/-- Other blocks keep their bytes. -/
theorem peek_rekey_other (m : Mach) {key blk k x : Nat} (other : x / 16 ≠ blk) : (m.rekey key blk).peek k x = m.peek k x := by
  refine peek_congr (by rw [rekey_tag, if_neg other]) fun y same => ?_
  rw [Mach.rekey]
  split
  · rfl
  · exact sget_pokes_outside (by rw [peeks_eq_map, List.length_map, List.length_range]; omega)

/-- A read under the key turned to answers as before. -/
theorem peek_rekey_same (m : Mach) (key blk x : Nat) : (m.rekey key blk).peek key x = m.peek key x := by
  by_cases inside : x / 16 = blk
  case neg => exact peek_rekey_other m inside
  case pos =>
    rw [peek_of_tag (by rw [rekey_tag, if_pos inside]), Mach.rekey]
    split
    case isTrue stands => exact (peek_of_tag (inside ▸ stands)).symm
    case isFalse =>
      have place : x = blk * 16 + x % 16 := by omega
      have within : x % 16 < 16 := by omega
      refine Eq.trans ?_ (getD_peeks m within 0 |>.trans (by rw [← place]))
      have stored := @sget_pokes_within (x % 16) (m.peeks key (blk * 16) 16) m (blk * 16) (by simp [peeks_eq_map, within])
      rw [← place] at stored
      exact stored

section
variable (key base : Nat)

theorem rekeyAll_tag (b : Nat) : ∀ (l : List Nat) (m : Mach), sget 0 b (l.foldl (fun a i => a.rekey key (base + i)) m).mem.ktag =
    if ∃ i ∈ l, b = base + i then key else sget 0 b m.mem.ktag
  | [], _ => by simp
  | i :: l, m => by
    rw [List.foldl_cons, rekeyAll_tag b l, rekey_tag]
    by_cases first : b = base + i <;> by_cases later : ∃ i ∈ l, b = base + i <;> simp [first, later]

theorem peek_rekeyAll_same (x : Nat) : ∀ (l : List Nat) (m : Mach),
    (l.foldl (fun a i => a.rekey key (base + i)) m).peek key x = m.peek key x
  | [], _ => rfl
  | _ :: l, m => (peek_rekeyAll_same x l _).trans (peek_rekey_same m key _ x)

theorem peek_rekeyAll_other {k x : Nat} : ∀ (l : List Nat) (m : Mach), (∀ i ∈ l, x / 16 ≠ base + i) →
    (l.foldl (fun a i => a.rekey key (base + i)) m).peek k x = m.peek k x
  | [], _, _ => rfl
  | i :: l, m, other => by
    obtain ⟨first, later⟩ := List.forall_mem_cons.mp other
    exact (peek_rekeyAll_other l _ later).trans (peek_rekey_other m first)

end

section
variable (m : Mach) (key pa n : Nat)

/-- The cipher blocks that a range touches stand under the key. -/
theorem rekeys_tag {b : Nat} (low : pa / 16 ≤ b) (high : b ≤ (pa + n - 1) / 16) : sget 0 b (m.rekeys key pa n).mem.ktag = key := by
  rw [Mach.rekeys, rekeyAll_tag, if_pos ⟨b - pa / 16, List.mem_range.mpr (by omega), by omega⟩]

theorem peek_rekeys_same (x : Nat) : (m.rekeys key pa n).peek key x = m.peek key x := peek_rekeyAll_same key _ x _ m

/-- A range's blocks turned to a key leave what is outside them, and every read under that key. -/
theorem peek_rekeys_leftAlone {k x : Nat} (nonempty : n ≠ 0) (alone : LeftAlone key pa n k x) :
    (m.rekeys key pa n).peek k x = m.peek k x := by
  rcases alone.2 with rfl | block
  · exact peek_rekeys_same m k pa n x
  · refine peek_rekeyAll_other key _ _ m fun i hi => ?_
    have := List.mem_range.mp hi
    omega

end

/-! Writes (R156, R160) -/

/-- Codewords cleared of poison leave every read. -/
theorem peek_clearPoison (k x : Nat) : ∀ (cws : List Nat) (m : Mach),
    (cws.foldl (fun a cw => a.setPoison cw false) m).peek k x = m.peek k x
  | [], _ => rfl
  | cw :: cws, m => peek_clearPoison k x cws (m.setPoison cw false)

/-- A write within one unit fails and changes nothing, or stores its bytes in blocks turned to its key. -/
theorem writeCw_cases (m : Mach) (key pa : Nat) (bs : List Byte) : m.writeCw key pa bs = (m, true) ∨
    ∃ cws : List Nat, m.writeCw key pa bs =
      (((cws.foldl (fun a cw => a.setPoison cw false) m).rekeys key pa bs.length).pokes pa bs, false) := by
  simp only [Mach.writeCw]
  split
  · exact .inl rfl
  · split
    · exact .inl rfl
    · exact .inr ⟨_, rfl⟩

theorem peek_writeCw_leftAlone (m : Mach) {key pa k x : Nat} {bs : List Byte} (nonempty : bs ≠ [])
    (alone : LeftAlone key pa bs.length k x) : (m.writeCw key pa bs).1.peek k x = m.peek k x := by
  rcases writeCw_cases m key pa bs with failed | ⟨cws, stored⟩
  · rw [failed]
  · rw [stored, peek_pokes_leftAlone (fun b => rekeys_tag _ key pa bs.length) alone,
      peek_rekeys_leftAlone _ key pa _ (mt List.length_eq_zero_iff.mp nonempty) alone, peek_clearPoison]

theorem peeks_writeCw {m : Mach} {key pa : Nat} {bs : List Byte} (made : (m.writeCw key pa bs).2 = false) :
    (m.writeCw key pa bs).1.peeks key pa bs.length = bs := by
  rcases writeCw_cases m key pa bs with failed | ⟨cws, stored⟩
  · rw [failed] at made; cases made
  · rw [stored]; exact peeks_pokes fun b => rekeys_tag _ key pa bs.length

theorem writeN_nil (m : Mach) (key pa : Nat) : ∀ n : Nat, m.writeN key n pa [] = (m, false)
  | 0 => rfl
  | _ + 1 => rfl

/-- The bytes from an address to the end of its unit. -/
def unitLeft (key pa : Nat) : Nat := 32 * unitCws key - pa % (32 * unitCws key)

theorem unitCws_cases (key : Nat) : unitCws key = 1 ∨ unitCws key = 2 := by
  rw [unitCws]
  split
  · exact .inl rfl
  · exact .inr rfl

theorem unitLeft_pos (key pa : Nat) : 0 < unitLeft key pa := by
  rcases unitCws_cases key with one | two
  · simp only [unitLeft, one]; omega
  · simp only [unitLeft, two]; omega

/-- A write makes the part in its first unit and goes on with the rest. -/
theorem writeN_succ (m : Mach) (key n pa : Nat) {bs : List Byte} (nonempty : bs ≠ []) : m.writeN key (n + 1) pa bs =
    (((m.writeCw key pa (bs.take (unitLeft key pa))).1.writeN key n (pa + unitLeft key pa) (bs.drop (unitLeft key pa))).1,
      (m.writeCw key pa (bs.take (unitLeft key pa))).2 ||
        ((m.writeCw key pa (bs.take (unitLeft key pa))).1.writeN key n (pa + unitLeft key pa) (bs.drop (unitLeft key pa))).2) := by
  rw [Mach.writeN, if_neg (by simpa using nonempty)]
  rfl

/-- What a write of a range leaves, its first part leaves, and so does the rest. -/
theorem LeftAlone.take {key pa k x : Nat} {bs : List Byte} (n : Nat) (alone : LeftAlone key pa bs.length k x) :
    LeftAlone key pa (bs.take n).length k x := by
  simp only [LeftAlone, List.length_take] at alone ⊢
  omega
theorem LeftAlone.drop {key pa k x n : Nat} {bs : List Byte} (more : n < bs.length) (alone : LeftAlone key pa bs.length k x) :
    LeftAlone key (pa + n) (bs.drop n).length k x := by
  simp only [LeftAlone, List.length_drop] at alone ⊢
  omega

/-- A write of any number of units leaves what its range leaves. -/
theorem peek_writeN_leftAlone {key k x : Nat} : ∀ {n : Nat} {m : Mach} {pa : Nat} {bs : List Byte},
    LeftAlone key pa bs.length k x → (m.writeN key n pa bs).1.peek k x = m.peek k x
  | 0, _, _, _, _ => rfl
  | n + 1, m, pa, bs, alone => by
    by_cases empty : bs = []
    case pos => rw [empty, writeN_nil]
    case neg =>
      have first : (m.writeCw key pa (bs.take (unitLeft key pa))).1.peek k x = m.peek k x :=
        peek_writeCw_leftAlone m (by simp [empty, (unitLeft_pos key pa).ne']) (alone.take _)
      rw [writeN_succ m key n pa empty]
      by_cases more : unitLeft key pa < bs.length
      · rw [peek_writeN_leftAlone (alone.drop more), first]
      · rw [List.drop_of_length_le (Nat.le_of_not_lt more), writeN_nil, first]

/-- Fuel for the units that a write meets. -/
def FuelFor (key n pa len : Nat) : Prop := len + pa % (32 * unitCws key) ≤ n * (32 * unitCws key)

theorem FuelFor.drop {key n pa len : Nat} (fuel : FuelFor key (n + 1) pa len) (more : unitLeft key pa < len) :
    FuelFor key n (pa + unitLeft key pa) (len - unitLeft key pa) := by
  rcases unitCws_cases key with one | two
  · simp only [FuelFor, unitLeft, one] at fuel more ⊢; omega
  · simp only [FuelFor, unitLeft, two] at fuel more ⊢; omega

/-- Where every unit is written, the bytes are read back: a later unit leaves those of the units before it. -/
theorem peeks_writeN {key : Nat} : ∀ {n : Nat} {m : Mach} {pa : Nat} {bs : List Byte}, FuelFor key n pa bs.length →
    (m.writeN key n pa bs).2 = false → (m.writeN key n pa bs).1.peeks key pa bs.length = bs
  | 0, m, pa, bs, fuel, _ => by
    have empty : bs = [] := List.length_eq_zero_iff.mp (by simp only [FuelFor] at fuel; omega)
    rw [empty]; rfl
  | n + 1, m, pa, bs, fuel, made => by
    by_cases empty : bs = []
    case pos => rw [empty]; rfl
    case neg =>
      rw [writeN_succ m key n pa empty] at made ⊢
      obtain ⟨made1, made2⟩ := Bool.or_eq_false_iff.mp made
      have first := peeks_writeCw made1
      by_cases more : unitLeft key pa < bs.length
      · refine peeks_of_parts more.le ?_ (peeks_writeN (by rw [List.length_drop]; exact fuel.drop more) made2)
        rw [List.length_take_of_le more.le] at first
        exact (peeks_congr fun x _ before => peek_writeN_leftAlone ⟨.inl before, .inl rfl⟩).trans first
      · rw [List.drop_of_length_le (Nat.le_of_not_lt more), writeN_nil]
        rwa [List.take_of_length_le (Nat.le_of_not_lt more)] at first ⊢

/-- A write has fuel for the units it meets. -/
theorem fuelFor_memWrite (key pa len : Nat) : FuelFor key (len / 32 + 2) pa len := by
  rcases unitCws_cases key with one | two
  · simp only [FuelFor, one]; omega
  · simp only [FuelFor, two]; omega

theorem peek_memWrite_leftAlone (m : Mach) {key pa k x : Nat} {bs : List Byte} (alone : LeftAlone key pa bs.length k x) :
    (m.memWrite key pa bs).1.peek k x = m.peek k x := by
  rw [Mach.memWrite]
  split
  · rfl
  · exact peek_writeN_leftAlone alone

theorem peeks_memWrite {m : Mach} {key pa : Nat} {bs : List Byte} (made : (m.memWrite key pa bs).2 = false) :
    (m.memWrite key pa bs).1.peeks key pa bs.length = bs := by
  rw [Mach.memWrite] at made ⊢
  split
  case isTrue empty => rw [List.isEmpty_iff.mp empty]; rfl
  case isFalse nonempty =>
    rw [if_neg nonempty] at made
    exact peeks_writeN (fuelFor_memWrite key pa bs.length) made

/-! The canonical form (R155 to R163) -/

theorem lasting_mem (m : Mach) (pa pin : Nat) : (m.lasting pa pin).mem = m.mem := by
  simp only [Mach.lasting]
  split <;> rw [logE_mem] <;> rfl

/-- A correction changes no memory but the list of events. -/
theorem correction_mem (m : Mach) (pa pin : Nat) : ∃ es, (m.correction pa pin).mem = { m.mem with events := es } := by
  simp only [Mach.correction]
  split
  · exact ⟨m.mem.events, rfl⟩
  · split
    · rw [lasting_mem]; exact ⟨_, rfl⟩
    · rw [logE_mem]; exact ⟨_, rfl⟩

theorem correction_wf (m : Mach) (pa pin : Nat) (h : Memory.wf m.mem = true) : Memory.wf (m.correction pa pin).mem = true := by
  obtain ⟨es, e⟩ := correction_mem m pa pin
  rw [e]; exact h

theorem corrections_wf (pa : Nat) : ∀ (pins : List Nat) (m : Mach), Memory.wf m.mem = true →
    Memory.wf (pins.foldl (fun a pin => a.correction pa pin) m).mem = true
  | [], _, h => h
  | pin :: pins, m, h => corrections_wf pa pins _ (correction_wf m pa pin h)

theorem uncorrectable_wf (m : Mach) (pa : Nat) (h : Memory.wf m.mem = true) : Memory.wf (m.uncorrectable pa).mem = true :=
  setPoison_wf _ _ _ h

theorem readCw_wf (m : Mach) (key pa : Nat) (errs : List (Fin 36 × Byte)) (h : Memory.wf m.mem = true) :
    Memory.wf (m.readCw key pa errs).1.mem = true := by
  simp only [Mach.readCw]
  split
  · exact h
  · split
    case h_1 => exact h
    case h_2 => exact corrections_wf _ _ _ h
    case h_3 => exact uncorrectable_wf _ _ h
    case h_4 =>
      split
      · exact uncorrectable_wf _ _ h
      · exact h

theorem keyCommand_wf (m : Mach) (gen : Bool) (sel : Nat) (h : Memory.wf m.mem = true) :
    Memory.wf (m.keyCommand gen sel).mem = true := by
  simp only [Mach.keyCommand]
  repeat' split
  all_goals exact h

theorem owned_wf {m : Mach} (a : Agent) (addr : Nat) {f : Mach → Mach} (h : Memory.wf m.mem = true)
    (kept : Memory.wf (f m).mem = true) : Memory.wf (m.owned a addr f).mem = true := by
  simp only [Mach.owned]
  split
  · exact kept
  · rw [logE_mem]; exact h

/-- A row completes with what holds of the machine before and of what its function makes of it. -/
theorem completes_act {i : Instr} {s : State} {f : Mach → Mach} {P : Mach → Prop} (row : exec i s = s.act f) (before : P s.m)
    (after : P (f s.m)) : Completes i s P := by
  by_cases off : s.m.down = true
  · exact ⟨s.m, by rw [Gives, row, act_off _ _ off], before⟩
  · exact ⟨f s.m, by rw [Gives, row, act_on _ _ (by simpa using off)], after⟩

theorem wf_ite {c : Prop} [Decidable c] {m m' : Mach} (h : Memory.wf m.mem = true) (h' : Memory.wf m'.mem = true) :
    Memory.wf (if c then m else m').mem = true := by
  split
  · exact h
  · exact h'

theorem demandRead_wf {s : State} (pa : BitVec 52) (key : Fin 64) (errs : List (Fin 36 × Byte)) (h : Memory.wf s.m.mem = true) :
    Completes (.demandRead pa key errs) s (fun m => Memory.wf m.mem = true) := by
  refine completes_act (exec_demandRead s) h ?_
  dsimp only
  split
  · exact h
  · split <;> exact readCw_wf s.m _ _ errs h

theorem codewordWrite_wf {s : State} (pa : BitVec 52) (key : Fin 64) (data : List Byte) (h : Memory.wf s.m.mem = true) :
    Completes (.codewordWrite pa key data) s (fun m => Memory.wf m.mem = true) := by
  have written : Memory.wf (s.m.memWrite (s.m.keyId key.val) pa.toNat data).1.mem = true := memWrite_wf _ _ _ _ h
  exact completes_act (exec_codewordWrite s) h (wf_ite h (wf_ite written written))

theorem scrub_wf {s : State} (pa : BitVec 52) (errs : List (Fin 36 × Byte)) (h : Memory.wf s.m.mem = true) :
    Completes (.scrub pa errs) s (fun m => Memory.wf m.mem = true) := by
  exact completes_act (exec_scrub s) h (wf_ite h (readCw_wf s.m 0 pa.toNat errs h))

theorem keyCommandDone_wf {s : State} (h : Memory.wf s.m.mem = true) :
    Completes .keyCommandDone s (fun m => Memory.wf m.mem = true) := by
  refine completes_act (exec_keyCommandDone s) h ?_
  dsimp only
  split <;> exact h

/-- Settles O54: what a write leaves alone and what it stores, unit by unit, and each command of the tiers by what it does to memory. -/
theorem memoryWrites : Obligations.MemoryWrites := by
  refine ⟨fun m key pa bs => ⟨fun x k outside apart => peek_memWrite_leftAlone m ⟨outside, apart⟩, peeks_memWrite⟩,
    fun s a pa key sel errs data wf => ?_⟩
  simp only [List.forall_mem_cons, List.not_mem_nil, false_imp_iff, implies_true, and_true]
  exact ⟨demandRead_wf pa key errs wf, codewordWrite_wf pa key data wf, scrub_wf pa errs wf,
    completes_act (exec_generate s) wf (owned_wf _ _ wf (keyCommand_wf _ _ _ wf)),
    completes_act (exec_erase s) wf (owned_wf _ _ wf (keyCommand_wf _ _ _ wf)), keyCommandDone_wf wf⟩

end Sys2Proof.Machine
end

section
/-!
PROOFS. The memory tiers at their controllers and the key slots, and the statements O4 and O5 (R155, R156, R159, R160, R163, R165).
-/

namespace Sys2Proof.Machine

/-! Codewords (R155, R156, R159, R160) -/

section
variable {m : Mach} {key pa : Nat} {errs : List (Fin 36 × Byte)} (good : m.cwBad (pa / 32 * 32 / 32) = false)
include good

theorem readCw_clean (decodes : decodeRs (m.erased (pa / 32 * 32)) (wrongSymbols errs) = .clean) :
    m.readCw key pa errs = (m, some (m.peeks key (pa / 32 * 32) 32)) := by
  simp only [Mach.readCw, good, decodes, Bool.false_eq_true, if_false]

theorem readCw_corrected {pins : List Nat} (decodes : decodeRs (m.erased (pa / 32 * 32)) (wrongSymbols errs) = .corrected pins) :
    m.readCw key pa errs = (pins.foldl (fun a pin => a.correction (pa / 32 * 32) pin) (m.fadd ⟨eccReg (pa / 32 * 32), 0, 32⟩ 1),
      some (m.peeks key (pa / 32 * 32) 32)) := by
  simp only [Mach.readCw, good, decodes, Bool.false_eq_true, if_false]

theorem readCw_bad (decodes : decodeRs (m.erased (pa / 32 * 32)) (wrongSymbols errs) = .bad) :
    m.readCw key pa errs = (m.uncorrectable (pa / 32 * 32), none) := by
  simp only [Mach.readCw, good, decodes, Bool.false_eq_true, if_false]

end

section
variable {s : State} {pa : BitVec 52} {key : Fin 64} {errs : List (Fin 36 × Byte)} (on : On s)
include on

section
variable (code : coded pa.toNat = true)
include code

/-- DEMAND_READ answers the bytes that its codeword's read returns. -/
theorem demandRead_answers {m : Mach} {bs : List Byte} (read : s.m.readCw (s.m.keyId key.val) pa.toNat errs = (m, some bs)) :
    Gives (.demandRead pa key errs) s (m.emit (.data 255 (pa.toNat / 32 * 32) bs false)) :=
  gives_act on (exec_demandRead s) (by simp only [code, read, Bool.not_true, Bool.false_eq_true, if_false])

/-- One that returns none is answered with poison. -/
theorem demandRead_poisoned {m : Mach} (read : s.m.readCw (s.m.keyId key.val) pa.toNat errs = (m, none)) :
    Gives (.demandRead pa key errs) s (m.emit (.data 255 (pa.toNat / 32 * 32) [] true)) :=
  gives_act on (exec_demandRead s) (by simp only [code, read, Bool.not_true, Bool.false_eq_true, if_false])

/-- SCRUB, where its tier's scrub is enabled, leaves what the read of its codeword leaves. -/
theorem scrub_reads (enabled : (if tierOf pa.toNat = .stack then s.m.flag Reg.SK_SCRUB_CFG_EN else s.m.flag Reg.SF_SCRUB_CFG_EN) = true) :
    Gives (.scrub pa errs) s (s.m.readCw 0 pa.toNat errs).1 :=
  gives_act on (exec_scrub s) (by simp only [code, enabled, Bool.not_true, Bool.or_self, Bool.false_eq_true, if_false])

theorem codewordWrite_made {data : List Byte} (made : (s.m.memWrite (s.m.keyId key.val) pa.toNat data).2 = false) :
    Gives (.codewordWrite pa key data) s (s.m.memWrite (s.m.keyId key.val) pa.toNat data).1 :=
  gives_act on (exec_codewordWrite s) (by simp only [code, made, Bool.not_true, Bool.false_eq_true, if_false])

theorem codewordWrite_failed {data : List Byte} (failed : (s.m.memWrite (s.m.keyId key.val) pa.toNat data).2 = true) :
    Gives (.codewordWrite pa key data) s
      ((s.m.memWrite (s.m.keyId key.val) pa.toNat data).1.emit (.data 255 pa.toNat [] true)) :=
  gives_act on (exec_codewordWrite s) (by simp only [code, failed, Bool.not_true, Bool.false_eq_true, if_false, if_true])

end

/-- SHINGLE_READ while the Harbour image runs: the flash is read, and then the 256 bytes (R165). -/
theorem shingleRead_answers {a : Nat} {bad : Bool} {m : Mach} (aligned : a = pa.toNat / 256 * 256) (tier : tierOf a = .shingle)
    (runs : s.m.harbourRuns = true) (read : m = s.m.flashRead ((a - shingleBase) / 16384) bad) :
    Gives (.shingleRead pa bad) s
      (m.emit (.data 255 a (if (m.load 0 a 256).2 then [] else (m.load 0 a 256).1) (m.load 0 a 256).2)) := by
  subst aligned read
  exact gives_act on (exec_shingleRead s) (by simp only [tier, runs, ne_eq, not_true, Bool.not_true, Bool.false_eq_true, if_false])

end

/-- Settles O4: each row by what its codeword's read or its write answers, and Shingle's by its flash. -/
theorem memoryTierRowsComplete : Obligations.MemoryTierRowsComplete := by
  intro s pa key errs on
  refine ⟨fun code good clean => ?_, fun pins code good corrected => ⟨?_, fun enabled => ?_⟩, fun code good bad => ?_,
    fun data code => ⟨codewordWrite_made on code, codewordWrite_failed on code⟩, fun bad tier runs => ?_⟩
  · exact demandRead_answers on code (readCw_clean good clean)
  · exact demandRead_answers on code (readCw_corrected good corrected)
  · have gives := scrub_reads (errs := errs) on code enabled
    rwa [readCw_corrected good corrected] at gives
  · exact demandRead_poisoned on code (readCw_bad good bad)
  · exact shingleRead_answers on rfl tier runs rfl

/-! Key slots (R163) -/

/-- A key command on a slot other than 0 that no live context may use begins where none runs. -/
theorem keyCommand_begins {m : Mach} {gen : Bool} {sel : Nat} (idle : m.flag Reg.SK_KEY_STATUS_BUSY = false) (slot : sel ≠ 0)
    (unused : m.keyInUse sel = false) : m.keyCommand gen sel =
      ({ m with mem := { m.mem with keyCmd := some (gen, sel) } } : Mach).fset Reg.SK_KEY_STATUS_BUSY 1 := by
  simp only [Mach.keyCommand, idle, slot, unused, Bool.false_eq_true, if_false]

/-- The memory that the end of a key command leaves: the slot holds a fresh key, or none. -/
def MemSt.keyed (x : MemSt) (gen : Bool) (sel : Nat) : MemSt :=
  { x with
    keyCmd := none
    keys := sset 1 sel (if gen then x.keyNext else 1) x.keys
    keyNext := if gen then x.keyNext + 1 else x.keyNext }

/-- The machine that shows a slot's LOADED bit and the end of its key command. -/
def Mach.keyShown (m : Mach) (sel loaded : Nat) : Mach :=
  ((m.fset ⟨Reg.SK_KEY_LOADED, sel, 1⟩ loaded).fset Reg.SK_KEY_STATUS_STATUS 0).fset Reg.SK_KEY_STATUS_BUSY 0

theorem keyCommandDone_ends {s : State} {gen : Bool} {sel : Nat} (on : On s) (running : s.m.mem.keyCmd = some (gen, sel)) :
    Gives .keyCommandDone s (({ s.m with mem := s.m.mem.keyed gen sel } : Mach).keyShown sel (if gen then 1 else 0)) :=
  gives_act on (exec_keyCommandDone s) (by simp only [running]; rfl)

theorem keyShown_fields (m : Mach) {sel : Nat} (slot : sel < 64) (loaded : Nat) :
    (m.keyShown sel loaded).fget ⟨Reg.SK_KEY_LOADED, sel, 1⟩ = loaded % 2 ∧
    (m.keyShown sel loaded).fget Reg.SK_KEY_STATUS_STATUS = 0 ∧ (m.keyShown sel loaded).fget Reg.SK_KEY_STATUS_BUSY = 0 := by
  have apart : Reg.SK_KEY_LOADED ≠ Reg.SK_KEY_STATUS := by decide
  have status : Reg.SK_KEY_STATUS_STATUS.lo + Reg.SK_KEY_STATUS_STATUS.w ≤ Reg.SK_KEY_STATUS_BUSY.lo := by decide
  refine ⟨?_, ?_, ?_⟩
  · rw [Mach.keyShown, fget_fset_ne _ _ _ _ apart, fget_fset_ne _ _ _ _ apart]
    exact fget_fset _ _ _ slot
  · rw [Mach.keyShown, fget_fset_beside _ Reg.SK_KEY_STATUS_BUSY Reg.SK_KEY_STATUS_STATUS _ rfl (by decide) (.inr status)]
    exact fget_fset _ _ _ (by decide)
  · exact fget_fset _ _ _ (by decide)

/-- Settles O5: the two key commands begin alike, and the end of either sets its slot and its registers. -/
theorem keyCommandsComplete : Obligations.KeyCommandsComplete := by
  intro s a sel gen on
  refine ⟨fun may idle slot unused => ?_, fun running => ⟨_, keyCommandDone_ends on running, ?_⟩⟩
  · cases gen
    · exact gives_owned on may (exec_erase s) (keyCommand_begins idle slot unused)
    · exact gives_owned on may (exec_generate s) (keyCommand_begins idle slot unused)
  · obtain ⟨loaded, status, busy⟩ :=
      keyShown_fields { s.m with mem := s.m.mem.keyed gen sel } sel.isLt (if gen then 1 else 0)
    exact ⟨rfl, rfl, rfl, rfl, sget_sset_same 1 sel.val _ s.m.mem.keys, fun k other => sget_sset_ne 1 _ k other _ _,
      loaded.trans (by cases gen <;> rfl), status, busy⟩

end Sys2Proof.Machine
end

section
/-!
PROOFS. Writes that no directory line answers for and engine reads: what a write of memory leaves beside it, a line that the home serves
at once, and the statement O3 (R151, R200, R206, R207).
-/

namespace Sys2Proof.Machine

/-! What a write of memory leaves beside it -/

theorem pokes_frame : ∀ (bs : List Byte) (m : Mach) (pa : Nat), ∃ x, m.pokes pa bs = { m with mem := x }
  | [], m, _ => ⟨m.mem, rfl⟩
  | _ :: bs, m, pa => pokes_frame bs (m.poke pa _) (pa + 1)

theorem rekey_frame (m : Mach) (key blk : Nat) : ∃ x, m.rekey key blk = { m with mem := x } := by
  simp only [Mach.rekey]
  split
  · exact ⟨m.mem, rfl⟩
  · obtain ⟨x, stored⟩ := pokes_frame (m.peeks key (blk * 16) 16) m (blk * 16)
    rw [stored]
    exact ⟨_, rfl⟩

/-- Steps that move memory alone move memory alone together. -/
theorem foldl_frame {α : Type} {f : Mach → α → Mach} (step : ∀ m a, ∃ x, f m a = { m with mem := x }) :
    ∀ (l : List α) (m : Mach), ∃ x, l.foldl f m = { m with mem := x }
  | [], m => ⟨m.mem, rfl⟩
  | a :: l, m => by
    obtain ⟨x, first⟩ := step m a
    obtain ⟨y, rest⟩ := foldl_frame step l (f m a)
    exact ⟨y, by rw [List.foldl_cons, rest, first]⟩

theorem writeCw_frame (m : Mach) (key pa : Nat) (bs : List Byte) : ∃ x, (m.writeCw key pa bs).1 = { m with mem := x } := by
  rcases writeCw_cases m key pa bs with failed | ⟨cws, stored⟩
  · exact ⟨m.mem, by rw [failed]⟩
  · obtain ⟨x, cleared⟩ := foldl_frame (f := fun a cw => a.setPoison cw false) (fun _ _ => ⟨_, rfl⟩) cws m
    obtain ⟨y, turned⟩ := foldl_frame (fun a i => rekey_frame a key (pa / 16 + i))
      (List.range ((pa + bs.length - 1) / 16 - pa / 16 + 1)) (cws.foldl (fun a cw => a.setPoison cw false) m)
    obtain ⟨z, written⟩ := pokes_frame bs ((cws.foldl (fun a cw => a.setPoison cw false) m).rekeys key pa bs.length) pa
    exact ⟨z, by rw [stored, written, Mach.rekeys, turned, cleared]⟩

theorem writeN_frame (key : Nat) : ∀ (n : Nat) (m : Mach) (pa : Nat) (bs : List Byte),
    ∃ x, (m.writeN key n pa bs).1 = { m with mem := x }
  | 0, m, _, _ => ⟨m.mem, rfl⟩
  | n + 1, m, pa, bs => by
    by_cases empty : bs = []
    · exact ⟨m.mem, by rw [empty, writeN_nil]⟩
    · obtain ⟨x, first⟩ := writeCw_frame m key pa (bs.take (unitLeft key pa))
      obtain ⟨y, rest⟩ := writeN_frame key n (m.writeCw key pa (bs.take (unitLeft key pa))).1 (pa + unitLeft key pa)
        (bs.drop (unitLeft key pa))
      exact ⟨y, by rw [writeN_succ m key n pa empty, rest, first]⟩

/-- A write of memory moves memory alone. -/
theorem memWrite_frame (m : Mach) (key pa : Nat) (bs : List Byte) : ∃ x, (m.memWrite key pa bs).1 = { m with mem := x } := by
  rw [Mach.memWrite]
  split
  · exact ⟨m.mem, rfl⟩
  · exact writeN_frame ..

@[simp] theorem memWrite_dir (m : Mach) (key pa : Nat) (bs : List Byte) : (m.memWrite key pa bs).1.dir = m.dir := by
  obtain ⟨x, e⟩ := memWrite_frame m key pa bs
  rw [e]

/-! A line that the home serves at once (R200, R202) -/

section
variable {m : Mach} {line : Nat}

/-- A directory with room gives no entry up (R198). -/
theorem dirRelieve_room (room : m.dir.lru.length ≤ 16) : m.dirRelieve line = m := by
  rw [Mach.dirRelieve, if_pos room]

/-- No one is asked for a line that no agent holds. -/
theorem toSnoop_unheld (unheld : m.ent line = none) (r : HomeReq) : (m.toSnoop line r).1 = [] := by
  cases r <;> simp only [Mach.toSnoop, unheld]

/-- A request for a line that no agent holds completes, and blocks the line where its answer is acknowledged (R202). -/
theorem serve_unheld (unheld : m.ent line = none) (r : HomeReq) : m.serve line 1 [r] =
    (m.complete line r none).setTxn line (if r.auto then none else some ⟨r, [], none, false, true, []⟩) := by
  have settled : m.settleEnt line = m := by simp only [Mach.settleEnt, unheld]
  simp only [Mach.serve, settled, toSnoop_unheld unheld, List.isEmpty_nil, if_true]
  split <;> rfl

/-- A request reaches a line that nothing blocks. -/
theorem requestAt_free {r : HomeReq} (heard : r.pos.any m.quarantined = false) (reach : m.reach (line * 64) = true)
    (free : m.txn line = none) : m.requestAt line r = m.serve line 1 [r] := by
  simp only [Mach.requestAt, heard, reach, free, Bool.not_true, Bool.false_and, Bool.or_self, Bool.false_eq_true, if_false]

/-! Non-caching writes (R200, R207) -/

theorem breakResv_dir (m : Mach) (who : Option Nat) (line : Nat) : (m.breakResv who line).dir = m.dir := by
  simp only [Mach.breakResv]; split <;> rfl

/-- The memory and its flag that a non-caching write of bytes leaves at the home: its line is no agent's any more. -/
def Mach.ncStored (m : Mach) (who : Option Nat) (pa key : Nat) (bs : List Byte) : Mach × Bool :=
  ((m.breakResv who (pa / 64)).setEnt (pa / 64) none).memWrite key pa bs

theorem ncStored_room (m : Mach) (who : Option Nat) (pa key : Nat) (bs : List Byte) :
    (m.ncStored who pa key bs).1.dir.lru.length ≤ m.dir.lru.length := by
  rw [Mach.ncStored, memWrite_dir, ← breakResv_dir m who (pa / 64)]
  exact List.length_filter_le _ _

section
variable {pa key : Nat} {bs : List Byte} (near : tierOf pa = .stack ∨ tierOf pa = .shelf)
include near

theorem complete_agentWrite (x : Nat) : m.complete (pa / 64) (.ncw (some x) pa key (.store bs) none) none =
    (m.ncStored (some x) pa key bs).1.grant x (pa / 64) 0 none (m.ncStored (some x) pa key bs).2 := by
  rcases near with near | near <;> simp [Mach.complete, near, Mach.homeWrite, Mach.accessDone, Mach.ncStored]

theorem complete_engineWrite : m.complete (pa / 64) (.ncw none pa key (.store bs) none) none = (m.ncStored none pa key bs).1 := by
  rcases near with near | near <;> simp [Mach.complete, near, Mach.homeWrite, Mach.accessDone, Mach.ncStored]

end
end

/-! Bytes of one line -/

/-- Every row of the address map ends at a line's end (R17). -/
theorem tierOf_line (pa : Nat) : tierOf (pa / 64 * 64) = tierOf pa := by
  have below {c : Nat} (whole : c % 64 = 0) : pa / 64 * 64 < c ↔ pa < c := by omega
  have above {c : Nat} (whole : c % 64 = 0) : c ≤ pa / 64 * 64 ↔ c ≤ pa := by omega
  simp (disch := decide) only [tierOf, below, above]

theorem reach_line (m : Mach) (pa : Nat) : m.reach (pa / 64 * 64) = m.reach pa := by
  have die : dieOfStack (pa / 64 * 64) = dieOfStack pa := by simp only [dieOfStack, stackOf]; omega
  rw [Mach.reach, Mach.reach, tierOf_line, die]

theorem cutsAt_nil (u n pa : Nat) : cutsAt u n pa [] = [] := by
  cases n <;> rfl

/-- Bytes that lie in one line are one piece. -/
theorem writePieces_inLine {pa : Nat} {bs : List Byte} (nonempty : bs ≠ []) (within : pa % 64 + bs.length ≤ 64) :
    writePieces pa (.store bs) = [(pa, .store bs)] := by
  have whole : bs.length ≤ 64 - pa % 64 := by omega
  rw [writePieces, lineCuts, cutsAt, if_neg (by simpa using nonempty), List.take_of_length_le whole, List.drop_of_length_le whole,
    cutsAt_nil]
  rfl

section
variable {s : State} {pa : BitVec 52} {key : Fin 64} {bs : List Byte} (on : On s)
  (near : tierOf pa.toNat = .stack ∨ tierOf pa.toNat = .shelf) (nonempty : bs ≠ []) (within : pa.toNat % 64 + bs.length ≤ 64)
include on near nonempty within

/-- An agent's write of bytes of one line is one request to the line's home. -/
theorem nonCachingWrite_agent {p : Pos} (other : p.val ≠ 15) (present : s.m.absent p.val = false)
    (armed : p.val = 13 ∨ p.val = 14 → s.m.armed (p.val - 13) = true) : Gives (.nonCachingWrite (.agent p) pa key (.store bs)) s
      (s.m.request (pa.toNat / 64) (.ncw (some p.val) pa.toNat (s.m.keyId key.val) (.store bs) none)) := by
  refine gives_act on (exec_nonCachingWrite s) ?_
  have served : ¬((p.val = 13 ∨ p.val = 14) ∧ (s.m.armed (p.val - 13) = false)) := fun h => by simp [armed h.1] at h
  rcases near with near | near <;> simp [other, served, present, near, writePieces_inLine nonempty within, Mach.farAfter]

/-- An engine's is one too, and its die's far cache takes the bytes (R151). -/
theorem nonCachingWrite_engine (c : CoreId) : Gives (.nonCachingWrite (.engine c) pa key (.store bs)) s
    ((s.m.request (pa.toNat / 64) (.ncw none pa.toNat (s.m.keyId key.val) (.store bs) none)).farUpdate c.die.val pa.toNat bs) := by
  refine gives_act on (exec_nonCachingWrite s) ?_
  rcases near with near | near <;> simp [near, writePieces_inLine nonempty within, Mach.farAfter]

end

/-- A non-caching write of bytes to a line that nothing blocks and no agent holds. -/
theorem request_ncw {m : Mach} {who : Option Nat} {pa key : Nat} {bs : List Byte} (heard : who.any m.quarantined = false)
    (near : tierOf pa = .stack ∨ tierOf pa = .shelf) (reach : m.reach (pa / 64 * 64) = true) (free : m.txn (pa / 64) = none)
    (unheld : m.ent (pa / 64) = none) (room : m.dir.lru.length < 16) :
    m.request (pa / 64) (.ncw who pa key (.store bs) none) =
      (m.complete (pa / 64) (.ncw who pa key (.store bs) none) none).setTxn (pa / 64)
        (if who.isNone then none else some ⟨.ncw who pa key (.store bs) none, [], none, false, true, []⟩) := by
  rw [Mach.request, requestAt_free heard reach free, serve_unheld unheld]
  cases who with
  | none =>
    rw [complete_engineWrite near]
    exact dirRelieve_room ((ncStored_room m none pa key bs).trans room.le)
  | some x =>
    rw [complete_agentWrite near]
    exact dirRelieve_room ((ncStored_room m (some x) pa key bs).trans room.le)

/-- Settles O3: a write of one line is one request, which its home serves at once, and an engine's read is that of its piece. -/
theorem nonCachingRowsComplete : Obligations.NonCachingRowsComplete := by
  intro s pa key on
  refine ⟨fun p bs home nonempty within unheld => ?_, fun c bs near reach nonempty within unheld free room => ?_,
    fun c job m1 bs read => ?_⟩
  · obtain ⟨near, other, present, armed, heard, reach, free, room⟩ := home
    rw [tierOf_line] at near
    have gives := nonCachingWrite_agent (key := key) on near nonempty within other present armed
    rw [request_ncw (who := some p.val) heard near reach free unheld room, complete_agentWrite near] at gives
    exact gives
  · have gives := nonCachingWrite_engine (key := key) on near nonempty within c
    rw [request_ncw (who := none) rfl near ((reach_line s.m _).trans reach) free unheld room, complete_engineWrite near] at gives
    exact gives
  · exact gives_act on (exec_engineRead s) (by simp only [Mach.engineRead, read])

end Sys2Proof.Machine
end

section
/-!
PROOFS. Shingle's queue and its upkeep, and the statement O41 (R166 to R171, R179, R258).
-/

namespace Sys2Proof.Machine

/-! The queue (R166, R168) -/

/-- Taking a descriptor leaves whether Shingle's component is held. -/
theorem compHeld_wqHead (m : Mach) (x : Nat) : (m.fset Reg.SG_WQ_HEAD_HEAD x).compHeld 2 = m.compHeld 2 := by
  have apart : Reg.HB_FW_FAULT 2 ≠ Reg.SG_WQ_HEAD := by decide
  rw [Mach.compHeld, Mach.compHeld, Mach.flag, Mach.flag, fget_fset_ne _ _ _ _ apart]

/-- A descriptor that is taken leaves the queue, and what its row does follows. -/
theorem sgTake_taken {m0 m : Mach} {ws : List Word} {mine : Nat → Bool} (go : Mach → List Word → Mach) (taken : sgTaken m0 m ws)
    (kind : mine (sgOp ws) = true) :
    m0.sgTake mine go = go (m.fset Reg.SG_WQ_HEAD_HEAD (m0.fget Reg.SG_WQ_HEAD_HEAD + 1)) ws := by
  obtain ⟨settled, ready, read, passes, unlocked, serves⟩ := taken
  simp [Mach.sgTake, settled, ready, read, kind, passes, unlocked, serves, compHeld_wqHead]

section
variable {s : State} {ws : List Word} (on : On s)
include on

section
variable {m1 m : Mach} (taken : sgTaken s.m m1 ws) (head : m = m1.fset Reg.SG_WQ_HEAD_HEAD (s.m.fget Reg.SG_WQ_HEAD_HEAD + 1))
include taken head

/-- WRITE runs from its first unit. -/
theorem sgWrite_runs (op : sgOp ws = 0) (unlocked : m.flag Reg.SG_STATE_WRITE_LOCK = false) :
    Gives .write s { m with sg := { m.sg with cur := some (ws, 0) } } := by
  refine gives_act on (exec_write s) ((sgTake_taken _ taken (by simp [op])).trans ?_)
  rw [← head, if_neg (by simp [unlocked])]

/-- A locked layer completes it. -/
theorem sgWrite_locked (op : sgOp ws = 0) (locked : m.flag Reg.SG_STATE_WRITE_LOCK = true) :
    Gives .write s (m.sgRecord ws 0x0705 0) := by
  refine gives_act on (exec_write s) ((sgTake_taken _ taken (by simp [op])).trans ?_)
  rw [← head, if_pos locked]

end

section
variable {done : Nat} {bs : List Byte} {m1 : Mach} (running : s.m.sg.cur = some (ws, done)) (cool : s.m.sgHot = false)
  (current : (s.m.current 24 (sgSrc ws + done * 65536) 65536).2 = true)
  (read : s.m.load (s.m.keyId (bits (wd ws 0) 8 6)) (sgSrc ws + done * 65536) 65536 = (bs, false))
  (committed : m1 = s.m.commitUnit (sgDst ws / 65536 + done) bs)
include running cool current read committed

/-- A unit that is not the last is committed, and the WRITE stands at the next. -/
theorem unitCommit_more (more : done + 1 ≠ sgUnits ws) :
    Gives .unitCommit s { m1 with sg := { m1.sg with cur := some (ws, done + 1) } } := by
  subst committed
  exact gives_act on (exec_unitCommit s) (by simp [running, cool, current, read, more])

/-- With the last the WRITE ends, and its record follows. -/
theorem unitCommit_last (last : done + 1 = sgUnits ws) :
    Gives .unitCommit s (({ m1 with sg := { m1.sg with cur := none } } : Mach).sgRecord ws 0 (done + 1)) := by
  subst committed
  exact gives_act on (exec_unitCommit s) (by simp [running, cool, current, read, last])

end

/-! Upkeep (R164, R169, R170) -/

section
variable {b : Nat} (serves : (s.m.block b).retired = false)
include serves

theorem wearLevelling_moves (worn : (s.m.block b).erases + 500 < s.m.meanErases) : Gives (.wearLevelling b) s (s.m.relocate b) :=
  gives_act on (exec_wearLevelling s) (by simp [serves, worn])

theorem readDisturbRefresh_moves (read : 60000 ≤ (s.m.block b).reads) : Gives (.readDisturbRefresh b) s (s.m.relocate b) :=
  gives_act on (exec_readDisturbRefresh s) (by simp [serves, read])

theorem blockRetire_shows (flash : b < flashBlocks) :
    Gives (.blockRetire b) s ((s.m.setBlock b { s.m.block b with retired := true }).relocate b).showSpare :=
  gives_act on (exec_blockRetire s) (by simp [serves, flash])

end
end

/-- The spare of 3 TB less the blocks retired and those found bad; the size of the spare and of a block is the model's, log entry 29. -/
def Mach.spareLeft (m : Mach) : Nat := 3000000000000 - ((m.sg.blocks.filter (fun p => p.2.retired)).length + m.sg.spareBad) * 65536

/-- The spare is shown in GB, and writes lock at 0.5 TB or less. -/
theorem showSpare_eq (m : Mach) : m.showSpare =
    if m.spareLeft ≤ 500000000000 then
      (m.fset Reg.SG_STATE_SPARE_GB (m.spareLeft / 1000000000)).fset Reg.SG_STATE_WRITE_LOCK 1
    else m.fset Reg.SG_STATE_SPARE_GB (m.spareLeft / 1000000000) := rfl

/-- Settles O41: a descriptor taken does what its row does, a commit ends with the last unit, and a retired block shows the spare that is
left. -/
theorem shingleRowsComplete : Obligations.ShingleRowsComplete := by
  intro s a on
  refine ⟨fun ws m1 m taken head => ⟨sgWrite_runs on taken head, sgWrite_locked on taken head, fun op f freed => ?_⟩,
    fun ws done bs m1 running cool current read committed =>
      ⟨unitCommit_more on running cool current read committed, unitCommit_last on running cool current read committed⟩,
    fun may => ⟨fun tail => gives_owned on may (exec_shingleDoorbell s) rfl, gives_owned on may (exec_qreset s) rfl,
      gives_owned on may (exec_sanitize s) rfl⟩,
    fun asked ended empty => gives_act on (exec_sanitizeDone s) (if_pos ⟨asked, ended, empty⟩),
    fun b serves => ⟨wearLevelling_moves on serves, readDisturbRefresh_moves on serves, fun m left flash retired spare => ?_⟩⟩
  · subst freed head
    exact gives_act on (exec_trim s) (sgTake_taken _ taken (by simp [op]))
  · have shown := blockRetire_shows on serves flash
    rw [← retired, showSpare_eq, Mach.spareLeft, ← spare] at shown
    refine ⟨fun enough => ?_, fun short => ?_⟩
    · rwa [if_neg (Nat.not_le.mpr enough)] at shown
    · rwa [if_pos short] at shown

end Sys2Proof.Machine
end

section
/-!
PROOFS. Prefetch schedules: how a run is started and resumed, what an entry that may start becomes, how the oldest one ends, and the
statement O42 (R172 to R175, R258).
-/

namespace Sys2Proof.Machine

/-! Entries that begin (R173) -/

/-- An entry that may start is taken, and what its row does follows. -/
theorem pfBegin_ready {m0 m : Mach} {jn kind : Nat} {j : Job} {e : PfEnt} {mine : Nat → Bool} (go : Mach → Job → PfEnt → Mach)
    (ready : pfReady m0 jn kind m j e) (own : mine kind = true) : m0.pfBegin jn mine go = go (m.pfTake e) j e := by
  obtain ⟨next, job, rfl, passes, waited⟩ := ready
  simp only [Mach.pfBegin, next, job, own, passes, Nat.not_lt.mpr waited, Bool.not_true, Bool.false_eq_true, if_false]

section
variable {s : State} {job : Fin 64} {m : Mach} {j : Job} {e : PfEnt} (on : On s)
include on

/-- PREFETCH_COPY where no entry of the job runs: the one that may start is copied. -/
theorem prefetchCopy_starts (ready : pfReady s.m job.val 1 m j e) (idle : s.m.pfOf job.val = []) :
    Gives (.prefetchCopy job) s ((m.pfTake e).pfCopy j e (e.len / 65536 + 2)) := by
  refine gives_act on (exec_prefetchCopy s) ?_
  simp only [idle, List.find?_nil]
  exact pfBegin_ready _ ready rfl

theorem mark_ends (ready : pfReady s.m job.val 3 m j e) :
    Gives (.mark job) s ((m.pfTake e).pfPut { e with status := some 0 }) :=
  gives_act on (exec_mark s) (pfBegin_ready _ ready rfl)

section
variable {m1 : Mach} {bs : List Byte} (ready : pfReady s.m job.val 2 m j e) (read : (m.pfTake e).agentRead 20 j e.src 128 = (m1, .ok bs))
  (stage : (m1.pfCmd j e (leWords 16 bs)).dmKind = 1)
include ready read stage

/-- STAGE's entry becomes a command where its core's die is in service. -/
theorem prefetchStage_delivers (serves : s.m.fget (Reg.HB_DIE_STATE_STATE (e.tgt / 48)) = dieInService) :
    Gives (.prefetchStage job) s (m1.setCmds (m1.js.cmds ++ [m1.pfCmd j e (leWords 16 bs)])) := by
  refine gives_act on (exec_prefetchStage s) ((pfBegin_ready _ ready rfl).trans ?_)
  simp only [read, stage, serves, ne_eq, not_true, if_false]

/-- It fails where the die is not (R236). -/
theorem prefetchStage_fails (out : s.m.fget (Reg.HB_DIE_STATE_STATE (e.tgt / 48)) ≠ dieInService) :
    Gives (.prefetchStage job) s (m1.pfPut { e with status := some 0x0304 }) := by
  refine gives_act on (exec_prefetchStage s) ((pfBegin_ready _ ready rfl).trans ?_)
  simp only [read, stage, out, ne_eq, not_true, not_false_eq_true, if_false, if_true]

end

/-! Entries that end (R173, R174) -/

/-- The oldest entry, ended well, leaves the schedule and signals where it asks for that. -/
theorem prefetchEntryDone_oldest {rest : List PfEnt} (oldest : s.m.pfOf job.val = e :: rest) (ended : s.m.pfStatus e = some 0) :
    Gives (.prefetchEntryDone job) s
      (if bits (wd e.words 0) 20 1 = 1 then
        (s.m.pfDrop [e.id]).signal job.val 192 (bits (wd e.words 0) 12 8) (s.m.pfValue e 2 % 2 ^ 48)
      else s.m.pfDrop [e.id]) :=
  gives_act on (exec_prefetchEntryDone s) (by simp only [oldest, ended, if_true])

end

/-! The schedule (R174, R175) -/

theorem pfStart_runs {m : Mach} {jn : Nat} (live : m.live jn = true) (still : m.flag (Reg.HB_PF_STATE_RUNNING jn) = false) :
    m.pfStart jn = (m.rset (Reg.HB_PF_STATE jn) 0).fset (Reg.HB_PF_STATE_RUNNING jn) 1 := by
  simp only [Mach.pfStart, live, still, Bool.not_true, Bool.or_self, Bool.false_eq_true, if_false]

/-- Settles O42: the owner's commands by their registers, an entry that may start by its kind, and the oldest one by how it ended. The
command of a STAGE entry is the model's (log entry 30). -/
theorem prefetchRowsComplete : Obligations.PrefetchRowsComplete := by
  intro s a job on
  refine ⟨fun may => ⟨fun live still => ?_, ?_, fun live => ?_⟩,
    fun m j e => ⟨prefetchCopy_starts on, fun m1 bs c ready read cmd stage => ?_, mark_ends on⟩, fun e rest oldest ended => ?_⟩
  · exact gives_owned on may (exec_prefetchStart s) (pfStart_runs live still)
  · exact gives_owned on may (exec_prefetchStop s) rfl
  · exact gives_owned on may (exec_prefetchResume s) (if_pos live)
  · obtain rfl : c = m1.pfCmd j e (leWords 16 bs) := cmd
    exact ⟨prefetchStage_delivers on ready read stage, prefetchStage_fails on ready read stage⟩
  · have gives := prefetchEntryDone_oldest on oldest ended
    refine ⟨fun asks => ?_, fun quiet => ?_⟩
    · rwa [if_pos asks] at gives
    · rwa [if_neg quiet] at gives

end Sys2Proof.Machine
end

section
/-!
PROOFS. The directory's rows: a line that its requester alone holds, what a request completes with where nothing is asked of another
agent, how a write-back, a notice, an answer, an acknowledgement and a time-out end, and the statement O2 (R200 to R203, R247, R249).
-/

namespace Sys2Proof.Machine

/-! A sharer vector of one position (R198) -/

theorem vecDel_alone (x : Nat) : vecDel (vecAdd 0 x) x = 0 := by simp [vecDel, vecAdd]

theorem getLsbD_alone {x : Nat} (place : x < 64) (i : Nat) : (vecAdd 0 x).getLsbD i = decide (i = x) := by
  simp only [vecAdd, BitVec.ofNat_eq_ofNat, BitVec.zero_or, BitVec.getLsbD_ofNat, Nat.testBit_two_pow, eq_comm (a := x),
    ← Bool.decide_and]
  exact decide_eq_decide.mpr ⟨And.right, fun same => ⟨by omega, same⟩⟩

/-- The one member of such a vector is that position. -/
theorem eq_of_mem_alone {x y : Nat} (place : x < 64) (member : y ∈ members (vecAdd 0 x)) : y = x :=
  of_decide_eq_true ((getLsbD_alone place y).symm.trans (List.mem_filter.mp member).2)

theorem members_zero : members 0 = [] := by simp [members]

section
variable {m : Mach} {x line : Nat}

/-- A line that only an agent in service shares is settled (R204). -/
theorem settleEnt_alone {f : Option Nat} (place : x < 64) (present : m.absent x = false)
    (held : m.ent line = some (.s (vecAdd 0 x) f)) : m.settleEnt line = m := by
  have none_gone : (members (vecAdd 0 x)).filter (fun y => m.absent y) = [] :=
    List.filter_eq_nil_iff.mpr fun y member => by simp [eq_of_mem_alone place member, present]
  simp only [Mach.settleEnt, held, none_gone, List.isEmpty_nil, if_true]

/-- So is one that such an agent owns. -/
theorem settleEnt_owned (present : m.absent x = false) (held : m.ent line = some (.o x)) : m.settleEnt line = m := by
  simp only [Mach.settleEnt, held, present, Bool.false_eq_true, if_false]

/-! Requests that are served at once (R200, R202) -/

theorem settleEnt_unheld (unheld : m.ent line = none) : m.settleEnt line = m := by simp only [Mach.settleEnt, unheld]

/-- The lines in LRU order: a line with an entry comes first, and one without leaves (R198). -/
theorem setEnt_lru (e : Option DirEnt) : (m.setEnt line e).dir.lru =
    if e.isSome then line :: m.dir.lru.filter (fun l => l != line) else m.dir.lru.filter (fun l => l != line) := rfl

/-- A directory with room for one entry more keeps within its ways. -/
theorem setEnt_room (room : m.dir.lru.length < 16) (e : Option DirEnt) : (m.setEnt line e).dir.lru.length ≤ 16 := by
  have others := List.length_filter_le (fun l => l != line) m.dir.lru
  rw [setEnt_lru]
  split
  · rw [List.length_cons]; omega
  · omega

/-- A request that asks nothing of another agent completes, and blocks the line where its answer is acknowledged. -/
theorem request_served {r : HomeReq} (heard : r.pos.any m.quarantined = false)
    (within : m.reach (line * 64) = true ∨ r.internal = true) (free : m.txn line = none) (settled : m.settleEnt line = m)
    (alone : (m.toSnoop line r).1 = []) (room : (m.complete line r none).dir.lru.length ≤ 16) :
    m.request line r = (m.complete line r none).setTxn line (if r.auto then none else some ⟨r, [], none, false, true, []⟩) := by
  have taken : ¬(r.pos.any m.quarantined || (!m.reach (line * 64) && !r.internal)) = true := by
    rcases within with within | within <;> simp [heard, within]
  have blocked : m.requestAt line r =
      (m.complete line r none).setTxn line (if r.auto then none else some ⟨r, [], none, false, true, []⟩) := by
    simp only [Mach.requestAt, if_neg taken, free, Mach.serve, settled, alone, List.isEmpty_nil, if_true]
    split <;> rfl
  rw [Mach.request, blocked]
  exact dirRelieve_room room

theorem homeIdle_near (idle : homeIdle m x line) : tierOf (line * 64) = .stack ∨ tierOf (line * 64) = .shelf := idle.1

theorem homeIdle_present (idle : homeIdle m x line) : m.absent x = false := by
  obtain ⟨-, -, present, -⟩ := idle
  exact present

theorem homeIdle_room (idle : homeIdle m x line) : m.dir.lru.length < 16 := by
  obtain ⟨-, -, -, -, -, -, -, room⟩ := idle
  exact room

/-- An agent's request for a line that is idle at its home reaches it (R197, R263, R279). -/
theorem agentRequest_idle (idle : homeIdle m x line) (r : HomeReq) : m.agentRequest x line r = m.request line r := by
  obtain ⟨near, other, present, armed, -⟩ := idle
  have served : ¬((x = 13 ∨ x = 14) ∧ (m.absent x ∨ !m.armed (x - 13))) := by
    rintro ⟨port, unserved⟩
    simp [present, armed port] at unserved
  rw [Mach.agentRequest, if_neg other, if_neg served, if_neg (by simp [present])]
  rcases near with near | near <;> rw [near]

/-- It is served at once where its entry asks nothing of another agent, and waits for its acknowledgement. -/
theorem agentRequest_served {r : HomeReq} (idle : homeIdle m x line) (asks : r.pos = some x) (kept : r.auto = false)
    (settled : m.settleEnt line = m) (alone : (m.toSnoop line r).1 = [])
    (room : (m.complete line r none).dir.lru.length ≤ 16) :
    m.agentRequest x line r = (m.complete line r none).setTxn line (some ⟨r, [], none, false, true, []⟩) := by
  rw [agentRequest_idle idle r]
  obtain ⟨-, -, -, -, heard, reach, free, -⟩ := idle
  rw [request_served (by simpa [asks] using heard) (Or.inl reach) free settled alone room, kept]
  rfl

/-- A line that no agent holds asks nothing of any. -/
theorem agentRequest_unheld {r : HomeReq} (idle : homeIdle m x line) (asks : r.pos = some x) (kept : r.auto = false)
    (unheld : m.ent line = none) (room : (m.complete line r none).dir.lru.length ≤ 16) :
    m.agentRequest x line r = (m.complete line r none).setTxn line (some ⟨r, [], none, false, true, []⟩) :=
  agentRequest_served idle asks kept (settleEnt_unheld unheld) (toSnoop_unheld unheld r) room

end

/-! What a request completes with (R200, R247) -/

section
variable {m : Mach} {x line : Nat}

theorem shinTouch_near (near : tierOf (line * 64) = .stack ∨ tierOf (line * 64) = .shelf) : m.shinTouch (line * 64) 64 = m := by
  rcases near with near | near <;> simp [Mach.shinTouch, near]

/-- No position that only reads or streams lies in a cluster of Headland or in its last-level cache (R197). -/
theorem eight_lt_of_shares (shares : (isReadOnly x || isStreaming x) = true) : 8 < x := by
  simp only [isReadOnly, isStreaming, Bool.or_eq_true, Bool.and_eq_true, decide_eq_true_eq] at shares
  omega

section
variable (near : tierOf (line * 64) = .stack ∨ tierOf (line * 64) = .shelf)
include near

/-- A line that Headland reads poisoned is granted and installed in none of its caches. -/
theorem completeRds_poisoned (headland : x ≤ 8) (poisoned : (m.lineFor x line).2 = true) :
    m.completeRds x line none = m.grantFrom x line 0 none := by
  rw [Mach.completeRds, shinTouch_near near]
  exact if_pos ⟨headland, poisoned⟩

section
variable (unheld : m.ent line = none)
include unheld

/-- A position that only reads or streams shares a line that no agent holds. -/
theorem completeRds_shares (shares : (isReadOnly x || isStreaming x) = true) :
    m.completeRds x line none = (m.grantFrom x line 0 none).setEnt line (some (.s (vecAdd 0 x) none)) := by
  have beyond : ¬x ≤ 8 := Nat.not_le.mpr (eight_lt_of_shares shares)
  simp only [Mach.completeRds, shinTouch_near near, beyond, false_and, if_false, unheld, shares, Bool.true_or, if_true]

/-- Any other owns it. -/
theorem completeRds_owns (caches : (isReadOnly x || isStreaming x) = false) (installs : 8 < x ∨ (m.lineFor x line).2 = false) :
    m.completeRds x line none = (m.grantFrom x line 2 none).setEnt line (some (.o x)) := by
  have clean : ¬(x ≤ 8 ∧ (m.dataFor x line none).2 = true) := by
    rintro ⟨headland, poisoned⟩
    rcases installs with beyond | clean
    · omega
    · exact Bool.false_ne_true (clean.symm.trans poisoned)
  have memory : tierOf (line * 64) ≠ .shingle := by rcases near with near | near <;> simp [near]
  simp only [Mach.completeRds, shinTouch_near near, clean, if_false, unheld, caches, memory, decide_false, Bool.or_false,
    Bool.false_eq_true]

end
end

/-- UPG of the one sharer of a line grants it without data. -/
theorem completeUpg_alone {f : Option Nat} (place : x < 64) (held : m.ent line = some (.s (vecAdd 0 x) f)) :
    m.complete line (.upg x) none =
      ((m.breakResv (some x) line).grant x line 2 none false).setEnt line (some (.o x)) := by
  have kept : (m.breakResv (some x) line).ent line = some (.s (vecAdd 0 x) f) := by rw [Mach.ent, breakResv_dir]; exact held
  simp only [Mach.complete, kept, getLsbD_alone place, decide_true, if_true]

/-- A grant after which the line has an entry leaves the directory within its room. -/
theorem grantEntered_room (room : m.dir.lru.length < 16) (who : Option Nat) (o : Out) (e : Option DirEnt) :
    (((m.breakResv who line).emit o).setEnt line e).dir.lru.length ≤ 16 :=
  setEnt_room (m := (m.breakResv who line).emit o) (by rwa [emit_dir, breakResv_dir]) e

end

section
variable {s : State} {x y : Pos} {line : BitVec 46} (on : On s)
include on

section
variable (idle : homeIdle s.m x.val line.toNat)
include idle

/-! RDS, RDO and UPG -/

section
variable (unheld : s.m.ent line.toNat = none)
include unheld

/-- RDS of a line that no agent holds, by what it completes with. -/
theorem rds_completes {m : Mach} (completes : s.m.completeRds x.val line.toNat none = m) (room : m.dir.lru.length ≤ 16) :
    Gives (.rds x line) s (m.setTxn line.toNat (some ⟨.rds x.val, [], none, false, true, []⟩)) := by
  subst completes
  exact gives_act on (exec_rds s) (agentRequest_unheld idle rfl rfl unheld room)

theorem rds_shares (shares : (isReadOnly x.val || isStreaming x.val) = true) :
    Gives (.rds x line) s (((s.m.grantFrom x.val line.toNat 0 none).setEnt line.toNat (some (.s (vecAdd 0 x.val) none))).setTxn
      line.toNat (some ⟨.rds x.val, [], none, false, true, []⟩)) :=
  rds_completes on idle unheld (completeRds_shares (homeIdle_near idle) unheld shares) (setEnt_room (homeIdle_room idle) _)

theorem rds_owns (caches : (isReadOnly x.val || isStreaming x.val) = false)
    (installs : 8 < x.val ∨ (s.m.lineFor x.val line.toNat).2 = false) :
    Gives (.rds x line) s (((s.m.grantFrom x.val line.toNat 2 none).setEnt line.toNat (some (.o x.val))).setTxn line.toNat
      (some ⟨.rds x.val, [], none, false, true, []⟩)) :=
  rds_completes on idle unheld (completeRds_owns (homeIdle_near idle) unheld caches installs) (setEnt_room (homeIdle_room idle) _)

theorem rds_poisoned (headland : x.val ≤ 8) (poisoned : (s.m.lineFor x.val line.toNat).2 = true) :
    Gives (.rds x line) s ((s.m.grantFrom x.val line.toNat 0 none).setTxn line.toNat
      (some ⟨.rds x.val, [], none, false, true, []⟩)) :=
  rds_completes on idle unheld (completeRds_poisoned (homeIdle_near idle) headland poisoned) (homeIdle_room idle).le

theorem rdo_unheld (owns : isReadOnly x.val = false) :
    Gives (.rdo x line) s ((((s.m.breakResv (some x.val) line.toNat).grantFrom x.val line.toNat 2 none).setEnt line.toNat
      (some (.o x.val))).setTxn line.toNat (some ⟨.rdo x.val, [], none, false, true, []⟩)) := by
  refine gives_act on (exec_rdo s) ((if_neg (by simp [owns])).trans (agentRequest_unheld idle rfl rfl unheld ?_))
  exact grantEntered_room (homeIdle_room idle) _ _ _

end

theorem upg_alone {f : Option Nat} (owns : isReadOnly x.val = false) (held : s.m.ent line.toNat = some (.s (vecAdd 0 x.val) f)) :
    Gives (.upg x line) s ((((s.m.breakResv (some x.val) line.toNat).grant x.val line.toNat 2 none false).setEnt line.toNat
      (some (.o x.val))).setTxn line.toNat (some ⟨.upg x.val, [], none, false, true, []⟩)) := by
  have place : x.val < 64 := by omega
  have alone : (s.m.toSnoop line.toNat (.upg x.val)).1 = [] := by simp only [Mach.toSnoop, held, vecDel_alone, members_zero]
  rw [← completeUpg_alone place held]
  refine gives_act on (exec_upg s) ((if_neg (by simp [owns])).trans
    (agentRequest_served idle rfl rfl (settleEnt_alone place (homeIdle_present idle) held) alone ?_))
  rw [completeUpg_alone place held]
  exact grantEntered_room (homeIdle_room idle) _ _ _

end

/-! Write-backs and notices -/

/-- The owner's data goes to memory, and the line leaves it (R200). -/
theorem wb_owner {data : BitVec 512} (other : y.val ≠ 15) (present : s.m.absent y.val = false)
    (heard : s.m.quarantined y.val = false) (awaited : s.m.dir.dropWb.contains (line.toNat, y.val) = false)
    (held : s.m.ent line.toNat = some (.o y.val))
    (near : tierOf (line.toNat * 64) = .stack ∨ tierOf (line.toNat * 64) = .shelf) (reach : s.m.reach (line.toNat * 64) = true) :
    Gives (.wb y line data) s (((s.m.memWrite (s.m.posKey y.val (line.toNat * 64)) (line.toNat * 64)
      (leBytes 64 data.toNat)).1.setEnt line.toNat none).bwSettle.rwHome) := by
  have home : s.m.lineHome y.val line.toNat (leBytes 64 data.toNat) none =
      (s.m.memWrite (s.m.posKey y.val (line.toNat * 64)) (line.toNat * 64) (leBytes 64 data.toNat)).1 := by
    rcases near with near | near <;> simp only [Mach.lineHome, near, reach, if_true]
  refine gives_act on (exec_wb s) ?_
  simp only [present, other, Mach.writeBack, awaited, heard, held, home, Bool.false_eq_true, if_false, if_true]

section
variable (present : s.m.absent x.val = false) (heard : s.m.quarantined x.val = false)
include present heard

/-- The last holder's notice leaves the line to none (R198, R200). -/
theorem evictionNotice_alone {f : Option Nat}
    (held : s.m.ent line.toNat = some (.s (vecAdd 0 x.val) f) ∨ s.m.ent line.toNat = some (.o x.val)) :
    Gives (.evictionNotice x line false) s (s.m.setEnt line.toNat none).bwSettle.rwHome := by
  have left : s.m.evictNotice x.val line.toNat = s.m.setEnt line.toNat none := by
    rcases held with held | held <;> simp only [Mach.evictNotice, held, vecDel_alone, if_true]
  refine gives_act on (exec_evictionNotice s) ?_
  simp only [present, heard, left, Bool.or_self, Bool.false_eq_true, false_and, if_false]

/-- An L2's line moves to the last-level cache (R249). -/
theorem evictionNotice_moves (l2 : x.val ≤ 7) (held : s.m.ent line.toNat = some (.o x.val)) (free : s.m.txn line.toNat = none)
    (room : s.m.dir.lru.length < 16) :
    Gives (.evictionNotice x line true) s ((s.m.setEnt line.toNat (some (.o 8))).setTxn line.toNat none) := by
  have moved : s.m.complete line.toNat (.move x.val) none = s.m.setEnt line.toNat (some (.o 8)) := by
    simp only [Mach.complete, Mach.moveToLlc, held, if_true]
  have served := request_served (r := .move x.val) rfl (Or.inr rfl) free (settleEnt_owned present held) rfl
    (by rw [moved]; exact setEnt_room room _)
  rw [moved] at served
  refine gives_act on (exec_evictionNotice s) ?_
  simp only [present, heard, l2, Bool.or_self, Bool.false_eq_true, and_self, if_false, if_true]
  exact served

end

/-! Answers, acknowledgements and time-outs -/

section
variable {t : HomeTxn} (blocked : s.m.txn line.toNat = some t)
include blocked

/-- The last answer that a shared read awaits, from a clean holder that forwards its data, completes the read (R200). -/
theorem snoopResponse_forwards {z : Nat} {d : BitVec 512} (heard : s.m.quarantined y.val = false) (reads : t.req = .rds z)
    (last : t.waits = [y.val]) (clean : t.poison = false) (forwards : s.m.forwards y.val line.toNat t.req = true) :
    Gives (.snoopResponse y line (.clean (some d))) s
      ((((s.m.complete line.toNat (.rds z) (some (leBytes 64 d.toNat, false))).setTxn line.toNat
        (some { t with waits := [], done := true })).dirRelieve line.toNat).bwSettle.rwHome) := by
  have answered : s.m.snoopAnswerAt y.val line.toNat (.clean (some d)) =
      s.m.finishTxn line.toNat t (some (leBytes 64 d.toNat, false)) := by
    simp [Mach.snoopAnswerAt, heard, blocked, last, forwards]
  have finished : s.m.finishTxn line.toNat t (some (leBytes 64 d.toNat, false)) =
      (s.m.complete line.toNat (.rds z) (some (leBytes 64 d.toNat, false))).setTxn line.toNat
        (some { t with waits := [], done := true }) := by
    simp only [Mach.finishTxn, clean, reads, HomeReq.auto, Bool.false_eq_true, if_false]
  refine gives_act on (exec_snoopResponse s) ?_
  simp only [Mach.snoopAnswer, answered, finished]

/-- With its acknowledgement a line that nothing waits for is free (R202). -/
theorem completionAck_frees (completed : t.done = true) (last : t.queue = []) :
    Gives (.completionAck line) s (((s.m.setTxn line.toNat none).dirRelieve line.toNat).bwSettle.rwHome) := by
  refine gives_act on (exec_completionAck s) ?_
  simp only [Mach.ackTxn, Mach.ackTxnAt, blocked, completed, last, Mach.serve, if_true]

/-- A silent agent leaves the line and is quarantined, and the request completes poisoned (R203). -/
theorem snoopTimeout_quarantines (counts : ¬((y.val = 13 ∨ y.val = 14) ∧ s.m.recovering (y.val - 13) = true))
    (silent : t.waits.contains y.val = true) :
    Gives (.snoopTimeout y line) s
      ((((((((s.m.poisonCount line.toNat).fadd Reg.HB_DIR_CNT_TIMEOUTS 1).setPosBit Reg.HB_DIR_QUAR_QUAR y.val true).logE
        0x06 0x0304 y.val noJob (line.toNat * 64)).setEnt line.toNat none).finishTxn line.toNat { t with poison := true }
        none).dirRelieve line.toNat).bwSettle.rwHome) := by
  refine gives_act on (exec_snoopTimeout s) ((if_neg counts).trans ?_)
  simp only [Mach.snoopTimeout, Mach.snoopTimeoutAt, blocked, silent, Bool.not_true, Bool.false_eq_true, if_false]

end
end

/-- Settles O2: a request that asks nothing of another agent is served at once, by what it completes with, and every other row by the
line's entry or transaction. -/
theorem directoryRowsComplete : Obligations.DirectoryRowsComplete := by
  intro s x y line on
  exact ⟨rds_shares on, fun idle unheld caches => ⟨rds_owns on idle unheld caches, rds_poisoned on idle unheld⟩,
    fun idle owns unheld => rdo_unheld on idle unheld owns, fun f idle => upg_alone on idle, fun data => wb_owner on,
    fun f present heard => evictionNotice_alone on present heard, evictionNotice_moves on,
    fun t z d heard blocked => snoopResponse_forwards on blocked heard, fun t => completionAck_frees on,
    fun t counts blocked => snoopTimeout_quarantines on blocked counts⟩

end Sys2Proof.Machine
end

section
/-!
PROOFS. Walks, the fault table and its ring, invalidation and the pool's tail, and the statement O16 (R183, R186, R188 to R192, R211).
-/

namespace Sys2Proof.Machine

/-! Records and invalidations that the owner's writes reach -/

section
variable {m : Mach}

section
variable {num : Nat} {r : FRec} (found : m.xl.recs.find? (fun r => r.num == num && decide (r.kind = .service)) = some r)
include found

/-- A resolve with status 0 has its record's waiters walk again (R189, R191). -/
theorem resolve_retries : m.resolve num 0 = m.closeRec r none := by
  simp only [Mach.resolve, found, if_true]

/-- One with a status that the record may close with gives it to them. -/
theorem resolve_fails {st : Nat} (allowed : st = 0x0401 ∨ st = 0x0404 ∨ st = 0x0406) : m.resolve num st = m.closeRec r (some st) := by
  have failing : st ≠ 0 := by omega
  simp only [Mach.resolve, found, if_neg failing, if_pos allowed]

end

/-- An invalidation removes its entries, and BUSY holds for the accesses made through them (R186). -/
theorem tlbiGo_begins {asid va len : Nat} {all discard : Bool} {who : Option Nat} {m1 : Mach} {frames : List (Nat × Nat)}
    (idle : m.flag Reg.HB_TLBI_STATUS_BUSY = false) (start : va = m.fget Reg.HB_TLBI_VA_VA) (length : len = m.fget Reg.HB_TLBI_LEN_LEN)
    (aligned : va % 65536 = 0) (whole : len % 65536 = 0) (space : who = if all then none else some asid)
    (removed : m.untranslate who va len = (m1, frames)) :
    m.tlbiGo asid all discard = (({ m1 with xl := { m1.xl with
      tlbi := some ⟨if discard then frames else [], m.pendingRefs.filter (m.refMeets who va len)⟩ } } : Mach).fset
        Reg.HB_TLBI_STATUS_STATUS 0).fset Reg.HB_TLBI_STATUS_BUSY 1 := by
  subst start length space
  have proper : ¬(m.fget Reg.HB_TLBI_VA_VA % 65536 ≠ 0 ∨ m.fget Reg.HB_TLBI_LEN_LEN % 65536 ≠ 0) := by simp [aligned, whole]
  simp only [Mach.tlbiGo, idle, if_neg proper, removed, Bool.false_eq_true, if_false]

end

section
variable {s : State} (on : On s)
include on

/-! Walks (R183, R188) -/

section
variable {w : Waiter} {job : Fin 64} {va : BitVec 57} {acc : Access} {j : Job} {m1 : Mach} (live : s.m.job? job.val = some j)
include live

/-- A walk that passes is answered. -/
theorem pageWalk_passes {pa key : Nat} (walked : s.m.xlate j (waiterTgt w) va.toNat acc = (m1, .ok pa key)) :
    Gives (.pageWalk w job va acc) s
      { m1 with xl := { m1.xl with answered := (⟨w, job.val, va.toNat, acc⟩, none) :: m1.xl.answered } } :=
  gives_act on (exec_pageWalk s) (by simp only [live, walked])

/-- One that ends is answered with its status. -/
theorem pageWalk_ends {st : Nat} (walked : s.m.xlate j (waiterTgt w) va.toNat acc = (m1, .status st)) :
    Gives (.pageWalk w job va acc) s
      { m1 with xl := { m1.xl with answered := (⟨w, job.val, va.toNat, acc⟩, some st) :: m1.xl.answered } } :=
  gives_act on (exec_pageWalk s) (by simp only [live, walked])

end

/-- A fault that found no record or link is handled afresh (R188). -/
theorem faultRetry_settles {w : Waiter} {f : FWait} (waits : s.m.xl.retry.find? (fun f => decide (f.who = w)) = some f) :
    Gives (.faultRetry w) s (({ s.m with xl := { s.m.xl with
      retry := s.m.xl.retry.filter (fun x => decide (x ≠ f)) } } : Mach).settleWaiter none f) :=
  gives_act on (exec_faultRetry s) (by simp only [waits])

/-! Rows of the owner (R190 to R192, R211, R258) -/

section
variable {a : Agent} (may : MayOwn s.m a)
include may

/-- A head of the fault ring lets waiting records into it. -/
theorem frHeadWrite_drains (h : BitVec 32) :
    Gives (.frHeadWrite a h) s ((s.m.fset Reg.HB_FR_HEAD_HEAD h.toNat).frDrain s.m.xl.frWait) :=
  gives_owned on may (exec_frHeadWrite s) rfl

/-- So does a base. -/
theorem frBaseWrite_drains (v : Word) : Gives (.frBaseWrite a v) s
    (((s.m.fset Reg.HB_FR_BASE_LOG2 (bits v 0 5)).fset Reg.HB_FR_BASE_BASE (bits v 12 40)).frDrain s.m.xl.frWait) :=
  gives_owned on may (exec_frBaseWrite s) rfl

/-- A tail of the frame pool lets migrations that wait start. -/
theorem mpTailWrite_starts (t : BitVec 32) : Gives (.mpTailWrite a t) s (s.m.fset Reg.HB_MP_TAIL_TAIL t.toNat).startMigs :=
  gives_owned on may (exec_mpTailWrite s) rfl

section
variable {n : BitVec 8} {r : FRec} (found : s.m.xl.recs.find? (fun r => r.num == n.toNat && decide (r.kind = .service)) = some r)
include found

theorem hbFltResolve_retries : Gives (.hbFltResolve a n 0) s (s.m.closeRec r none) :=
  gives_owned on may (exec_hbFltResolve s) (resolve_retries found)

theorem hbFltResolve_fails (st : BitVec 16) (allowed : st = 0x0401 ∨ st = 0x0404 ∨ st = 0x0406) :
    Gives (.hbFltResolve a n st) s (s.m.closeRec r (some st.toNat)) :=
  gives_owned on may (exec_hbFltResolve s) (resolve_fails found (by rcases allowed with rfl | rfl | rfl <;> decide))

end
end

/-- With the last access made through the removed entries the invalidation ends, and its frames' far-cache lines go (R186). -/
theorem tlbiComplete_ends {t : TlbiRun} (running : s.m.xl.tlbi = some t) (home : t.refs = []) :
    Gives .tlbiComplete s ((({ s.m with xl := { s.m.xl with tlbi := none } } : Mach).dropFrames t.frames).fset
      Reg.HB_TLBI_STATUS_BUSY 0) :=
  gives_act on (exec_tlbiComplete s) (by simp [running, home])

end

/-- Settles O16: a walk by how it ends, a retry and the end of an invalidation by what waits, and the owner's rows by their registers. -/
theorem translationRowsComplete : Obligations.TranslationRowsComplete := by
  intro s a on
  refine ⟨fun w job va acc j m1 live => ⟨fun pa key => pageWalk_passes on live, fun st => pageWalk_ends on live⟩,
    fun w f => faultRetry_settles on, fun may => ⟨frHeadWrite_drains on may, frBaseWrite_drains on may,
      fun n r found => ⟨hbFltResolve_retries on may found, hbFltResolve_fails on may found⟩, ?_, mpTailWrite_starts on may⟩,
    fun t => tlbiComplete_ends on⟩
  intro asid all discard who va len m1 frames idle start length aligned whole space removed
  exact gives_owned on may (exec_tlbi s) (tlbiGo_begins idle start length aligned whole space removed)

end Sys2Proof.Machine
end

section
/-!
PROOFS. Migration and eviction: the steps of a migration, how an eviction finds its leaf, how it copies and closes, and the statement O17
(R193 to R196, R236).
-/

namespace Sys2Proof.Machine

/-! Migrations (R193, R194, R236) -/

section
variable {s : State} {n : Fin 256} {bad : List (Fin 32768)} {r : FRec} {g : Mig} (on : On s)
  (found : s.m.xl.recs.find? (fun r => r.num == n.val) = some r) (kind : r.kind = .migrate g)
include on found kind

/-- A migration without a frame asks for one (R193). -/
theorem migrationComplete_starts (unplaced : g.frame = none) : Gives (.migrationComplete n bad) s (s.m.startMig r) :=
  gives_act on (exec_migrationComplete s) (by simp only [found, kind, unplaced])

section
variable {frame : Nat} (placed : g.frame = some frame)
include placed

section
variable (waits : g.run = none)
include waits

/-- One whose frame lies on a fenced die fails (R236). -/
theorem migrationComplete_fails (lost : s.m.reach frame = false) : Gives (.migrationComplete n bad) s (s.m.failMig r) :=
  gives_act on (exec_migrationComplete s) (by simp only [found, kind, placed, waits, lost, Bool.not_false, if_true])

/-- One whose frame is in reach copies once its source is free and current (R193, R194). -/
theorem migrationComplete_copies {m1 : Mach} (reach : s.m.reach frame = true)
    (free : s.m.lwHeld (bits g.ent 16 36 * 65536) 2097152 = false)
    (current : s.m.current 21 (bits g.ent 16 36 * 65536) 2097152 = (m1, true)) :
    Gives (.migrationComplete n bad) s
      (m1.migrated r g frame (bad.map (fun i => i.val) ++ s.m.unarmedLines (bits g.ent 16 36 * 65536))) :=
  gives_act on (exec_migrationComplete s)
    (by simp only [found, kind, placed, waits, reach, free, current, Bool.not_true, Bool.false_eq_true, if_false])

end

section
variable {num : Nat} (homed : s.m.homed? num = true)
include homed

/-- With its data home it writes its leaf (R193). -/
theorem migrationComplete_writesLeaf (copied : g.run = some (num, false)) (reach : s.m.reach frame = true) :
    Gives (.migrationComplete n bad) s (s.m.migLeafOut r g num frame) :=
  gives_act on (exec_migrationComplete s)
    (by simp only [found, kind, placed, copied, homed, reach, Bool.not_true, Bool.false_eq_true, if_false])

/-- With its leaf home it closes (R193). -/
theorem migrationComplete_closes (written : g.run = some (num, true)) :
    Gives (.migrationComplete n bad) s (s.m.migClose r num frame) :=
  gives_act on (exec_migrationComplete s)
    (by simp only [found, kind, placed, written, homed, Bool.not_true, Bool.false_eq_true, if_false, if_true])

end
end
end

/-! An eviction and its stages (R196) -/

section
variable {m : Mach} {v : EvictRun}

/-- An eviction whose region's walk ends at a leaf of Stack or Shelf begins where the region has no record and one is free. -/
theorem evictFind_begins {m1 : Mach} {jn n leaf : Nat} {j : Job} {e : Word} (asked : m.xl.evict = some v) (first : v.stage = 0)
    (live : m.jobOfAsid v.asid = some (jn, j)) (walked : m.leafFrom v.va 3 0 j.root = (m1, some (some (leaf, e))))
    (near : bits e 14 2 ≤ 1) (closed : ∀ r ∈ m1.xl.recs, ¬(r.asid = v.asid ∧ r.region = v.va / 2 ^ 21))
    (free : m1.freeRec = some n) :
    m.evictFind = m1.evictBegin v n leaf e := by
  have unrecorded : m1.xl.recs.any (fun r => r.asid == v.asid && r.region == v.va / 2 ^ 21) = false := by
    simpa only [List.any_eq_false, Bool.and_eq_true, beq_iff_eq] using closed
  simp only [Mach.evictFind, asked, first, live, walked, Nat.not_lt.mpr near, unrecorded, free, ne_eq, not_true, Bool.false_eq_true,
    if_false]

section
variable {r : FRec} {leaf : Nat} {e : Word} (running : m.evicting = some (v, r, leaf, e))
include running

/-- An eviction that has found its leaf has left its first stage. -/
theorem evicting_begun : m.xl.evict = some v ∧ v.stage ≠ 0 := by
  simp only [Mach.evicting] at running
  split at running
  · cases running
  · next u asked =>
    split at running
    · cases running
    · split at running
      · split at running
        · cases running
        · next begun => cases running; exact ⟨asked, begun⟩
      · cases running

theorem evictFind_begun : m.evictFind = m := by
  obtain ⟨asked, begun⟩ := evicting_begun running
  simp only [Mach.evictFind, asked, if_pos begun]

theorem evictRecall_recalled (recalled : v.stage ≠ 1) : m.evictRecall = m := by
  simp only [Mach.evictRecall, running, if_pos (Or.inl recalled)]

theorem evictGoOn_copied (copied : v.stage ≠ 2) : m.evictGoOn = m := by
  simp only [Mach.evictGoOn, running, if_pos copied]

/-- The copy's leaf is home: EVICTED carries the freed frame. -/
theorem evictClose_closes (third : v.stage = 3) (homed : m.homed? v.acc = true) :
    m.evictClose = ((m.closeRec r none).frPush 5 false r.waiters.length r.asid r.num 0 (r.region * 2 ^ 21)
      (bits e 16 36 * 65536)).evictOver 0 := by
  simp only [Mach.evictClose, running, homed, third, Bool.not_true, Bool.false_eq_true, if_false, if_true]

end
end

/-- Keys of a map that lie in neither of two ranges. -/
theorem any_within_false {α : Type} {ps : List (Nat × α)} {a b c d : Nat}
    (clear : ∀ p ∈ ps, ¬(a ≤ p.1 ∧ p.1 < b) ∧ ¬(c ≤ p.1 ∧ p.1 < d)) :
    ps.any (fun p => decide (a ≤ p.1) && decide (p.1 < b) || decide (c ≤ p.1) && decide (p.1 < d)) = false := by
  simpa only [List.any_eq_false, Bool.or_eq_true, Bool.and_eq_true, decide_eq_true_eq, not_or] using clear

/-- An eviction whose copies are recalled copies its region to the host once its ports serve and no line of either range is in use. -/
theorem evictGoOn_copies {m : Mach} {v : EvictRun} {r : FRec} {leaf : Nat} {e : Word} (running : m.evicting = some (v, r, leaf, e))
    (second : v.stage = 2) (reach : m.reach (bits e 16 36 * 65536) = true) (carried : m.lwUnarmed v.host (2 ^ 21) = false)
    (armed : m.armed (m.lwPort v.host) = true) (free : m.lwHeld v.host (2 ^ 21) = false)
    (clear : ∀ l : Nat, (∃ p ∈ m.dir.txns, p.1 = l) ∨ (∃ p ∈ m.dir.ents, p.1 = l) →
      ¬(bits e 16 36 * 65536 / 64 ≤ l ∧ l < (bits e 16 36 * 65536 + 2 ^ 21) / 64) ∧
      ¬(v.host / 64 ≤ l ∧ l < (v.host + 2 ^ 21) / 64)) :
    m.evictGoOn = m.evicted v leaf e := by
  have unblocked := any_within_false fun p member => clear p.1 (Or.inl ⟨p, member, rfl⟩)
  have unheld := any_within_false fun p member => clear p.1 (Or.inr ⟨p, member, rfl⟩)
  simp only [Mach.evictGoOn, running, second, unblocked, reach, carried, armed, free, unheld, ne_eq, not_true, Bool.not_true, Bool.or_self,
    Bool.false_eq_true, if_false]

section
variable {s : State} (on : On s)
include on

/-- EVICT of the owner, where none is in progress, looks for its leaf. -/
theorem evict_finds {a : Agent} {asid : BitVec 16} {mig : Bool} {v : EvictRun} {m0 m' : Mach} (may : MayOwn s.m a)
    (idle : s.m.flag Reg.HB_EV_STATUS_BUSY = false)
    (run : v = ⟨asid.toNat, s.m.fget Reg.HB_EV_VA_VA, s.m.fget Reg.HB_EV_PA_PA * 2 ^ 21, mig, 0, 0, 0⟩)
    (start : m0 = (s.m.setEvict (some v)).fset Reg.HB_EV_STATUS_BUSY 1) (finds : m0.evictFind = m') :
    Gives (.evict a asid mig) s m' := by
  subst start run
  refine gives_owned on may (exec_evict s) (Eq.trans ?_ finds)
  simp only [Mach.evictGo, idle, Bool.false_eq_true, if_false]

section
variable {v : EvictRun} {r : FRec} {leaf : Nat} {e : Word} (running : s.m.evicting = some (v, r, leaf, e))
include running

/-- EVICTION_COMPLETE past the recall of the copies: it goes on and closes as far as it can. -/
theorem evictionComplete_goesOn {m' : Mach} (recalled : v.stage ≠ 1) (result : s.m.evictGoOn = m') :
    Gives .evictionComplete s m'.evictClose := by
  refine gives_act on (exec_evictionComplete s) ?_
  simp only [evictFind_begun running, evictRecall_recalled running recalled, result]

end
end

/-- Settles O17: a migration by its frame and how far it has come, an eviction by its stage. -/
theorem migrationRowsComplete : Obligations.MigrationRowsComplete := by
  intro s a on
  refine ⟨fun n bad r g found kind => ⟨migrationComplete_starts on found kind, fun frame placed =>
      ⟨migrationComplete_fails on found kind placed, fun m1 waits => migrationComplete_copies on found kind placed waits,
        fun num copied homed => migrationComplete_writesLeaf on found kind placed homed copied,
        fun num written homed => migrationComplete_closes on found kind placed homed written⟩⟩,
    fun asid mig v m0 m1 jn n leaf j e may idle run start live walked near closed free => ?_,
    fun v r leaf e running => ⟨fun second reach carried armed held clear => ?_, fun third homed => ?_⟩⟩
  · have asked : m0.xl.evict = some v := by rw [start]; rfl
    have space : asid.toNat = v.asid := by rw [run]
    rw [space] at live closed
    exact evict_finds on may idle run start (evictFind_begins asked (by rw [run]) live walked near closed free)
  · exact evictionComplete_goesOn on running (by omega) (evictGoOn_copies running second reach carried armed held clear)
  · rw [← evictClose_closes running third homed]
    exact evictionComplete_goesOn on running (by omega) (evictGoOn_copied running (by omega))

end Sys2Proof.Machine
end

section
/-!
PROOFS. Limtos: a port that comes up, the flits that are taken and refused, a spare switch, a narrowing, and the statement O18 (R218 to
R224).
-/

namespace Sys2Proof.Machine

/-! A port comes up (R220, R221) -/

theorem ltUp_version (m : Mach) (p w h : Nat) : (m.ltUp p w h).fget (Reg.HB_LT_STATE_VERSION p) = 1 :=
  fget_fset _ _ _ (by simp [Reg.HB_LT_STATE_VERSION])

section
variable {m : Mach} {p : Nat}

/-- A port that is down comes up where the far end implements version 1 and reports the same groups and width. -/
theorem limtosCapability_agrees {w h lo hi groups width : Nat} (off : m.fget (Reg.HB_LT_STATE_WIDTH p) = 0)
    (unfenced : m.fget (Reg.HB_DIE_STATE_STATE p) ≠ dieFenced) (serves : m.fget (Reg.HB_DIE_STATE_STATE p) ≠ dieOut)
    (choice : m.ltChoice p = some (w, h)) (least : lo ≤ 1) (greatest : 1 ≤ hi) (same : groups = ltGroups p) (wide : width = w) :
    m.limtosCapability p lo hi groups width = m.ltUp p w h := by
  have free : ¬(m.fget (Reg.HB_LT_STATE_WIDTH p) ≠ 0 ∨ m.fget (Reg.HB_DIE_STATE_STATE p) = dieFenced ∨
      m.fget (Reg.HB_DIE_STATE_STATE p) = dieOut) := by
    rintro (up | fenced | out)
    exacts [up off, unfenced fenced, serves out]
  simp only [Mach.limtosCapability, if_neg free, choice, least, greatest, same, wide, and_self, if_true]

/-! The flit next in sequence (R218, R219, R222) -/

section
variable {dir : Nat} {r : LtRx} {gs : List FlitGroup} (up : m.fget (Reg.HB_LT_STATE_WIDTH p) ≠ 0) (serves : m.dieUp p = true)
  (receiver : (sget none (p * 2 + dir) m.lt.rx).getD ⟨0, [], 0, 0, 0, []⟩ = r)
include up serves receiver

section
variable (new : r.next = r.send) (room : r.unacked.length < 512) (first : r.again = 0)
include new room first

/-- A new one that passes its check is taken. -/
theorem limtosFlit_takesNew (passes : m.flitOk p gs = true) (fresh : r.copies = []) :
    m.limtosFlit p dir r.next gs = (m.setRx (p * 2 + dir) ⟨(r.next + 1) % 1024, [], 0, 0, (r.next + 1) % 1024,
      (r.unacked ++ [r.next]).filter (fun q => q != r.next)⟩).flitEvents p dir [] gs := by
  simp [Mach.limtosFlit, up, serves, receiver, ← new, room, first, passes, fresh]

/-- One that fails it is counted and kept for its replay, the 64th in succession apart. -/
theorem limtosFlit_refusesNew (corrupt : m.flitOk p gs = false) (few : r.fails < 63) :
    m.limtosFlit p dir r.next gs = (m.fadd (Reg.HB_LT_CNT_CRC_FAIL p) 1).setRx (p * 2 + dir)
      ⟨r.next, gs :: r.copies, r.fails + 1, 1, (r.next + 1) % 1024, r.unacked ++ [r.next]⟩ := by
  have below : ¬64 ≤ r.fails + 1 := by omega
  simp [Mach.limtosFlit, up, serves, receiver, ← new, room, first, corrupt, below]

end

/-- A resent one is counted, and taken where it passes its check. -/
theorem limtosFlit_takesResent (sent : r.next ≠ r.send) (kept : r.next ∈ r.unacked) (again : r.again ≠ 0)
    (passes : (m.fadd (Reg.HB_LT_CNT_REPLAYS p) 1).flitOk p gs = true) :
    m.limtosFlit p dir r.next gs = ((m.fadd (Reg.HB_LT_CNT_REPLAYS p) 1).setRx (p * 2 + dir)
      ⟨(r.next + 1) % 1024, [], 0, r.again - 1, r.send, r.unacked.filter (fun q => q != r.next)⟩).flitEvents p dir r.copies gs := by
  simp [Mach.limtosFlit, up, serves, receiver, sent, kept, again, passes]

end
end

/-! Spares and narrowing (R223, R224) -/

section
variable {s : State} {p : Fin 5} (on : On s)
include on

/-- Both ends take the spare for the wire judged lasting. -/
theorem spareSwitch_takes {g : Fin 64} {inward : Bool} {w : Nat}
    (judged : s.m.lt.switch.find? (fun x => x.1 == p.val && x.2.1 == g.val && x.2.2.1 == if inward then 1 else 0) =
      some (p.val, g.val, (if inward then 1 else 0), w)) :
    Gives (.spareSwitch p g inward) s (((({ s.m with lt := { s.m.lt with
      switch := s.m.lt.switch.filter (fun x => !(x.1 == p.val && x.2.1 == g.val && x.2.2.1 == if inward then 1 else 0)) } } : Mach).fset
        (if inward then Reg.HB_LT_GRP_SPARED_IN p.val g.val else Reg.HB_LT_GRP_SPARED_OUT p.val g.val) w).fadd
        (Reg.HB_LT_STATE_SPARES_USED p.val) 1).logE 0x08 0 p.val noJob g.val) :=
  gives_act on (exec_spareSwitch s) (by simp only [judged])

/-- Traffic resumes at half width. -/
theorem narrowingResume_halves {h : Nat} (narrows : s.m.lt.narrow.find? (fun x => x.1 == p.val) = some (p.val, h)) :
    Gives (.narrowingResume p) s (((({ s.m with lt := { s.m.lt with
      narrow := s.m.lt.narrow.filter (fun x => x.1 != p.val) } } : Mach).fset (Reg.HB_LT_STATE_WIDTH p.val) 1).fset
        (Reg.HB_LT_STATE_HALF p.val) h).logE 0x08 0 p.val noJob 0) :=
  gives_act on (exec_narrowingResume s) (by simp only [narrows])

end

/-- Settles O18: a port by its capability exchange, a flit by its place in the sequence and its check, and the two switches by what waits
for them. -/
theorem limtosRowsComplete : Obligations.LimtosRowsComplete := by
  intro s p on
  refine ⟨fun lo hi groups width w h off unfenced serves choice least greatest same wide => ?_,
    fun dir inward seq gs r up serves side receiver next => ?_, fun g inward w => spareSwitch_takes on,
    fun h => narrowingResume_halves on⟩
  · exact ⟨s.m.ltUp p.val w h, gives_act on (exec_limtosCapability s)
      (limtosCapability_agrees off unfenced serves choice least greatest same wide), rfl, ltUp_version s.m p.val w h⟩
  · subst side
    have arrives : exec (.limtosFlit p inward seq gs) s =
        s.act (fun m => m.limtosFlit p.val (if inward then 1 else 0) r.next gs) := by rw [← next]; rfl
    rw [next]
    refine ⟨fun new room first => ⟨fun passes fresh => ?_, fun corrupt few => ?_⟩, fun sent kept again passes => ?_⟩
    · exact gives_act on arrives (limtosFlit_takesNew up serves receiver.symm new room first passes fresh)
    · exact gives_act on arrives (limtosFlit_refusesNew up serves receiver.symm new room first corrupt few)
    · exact gives_act on arrives (limtosFlit_takesResent up serves receiver.symm sent kept again passes)

end Sys2Proof.Machine
end

section
/-!
PROOFS. Breakwater: how the partner's requests pass the checks and the rate allowance, its messages, the aperture, the windows, the link,
and the statement O19 (R227 to R233, R242).
-/

namespace Sys2Proof.Machine

/-! A request and the rate allowance (R229, R231) -/

section
variable {m : Mach} {q : BwReq} {front : Bool} (heard : m.bwQuar = false) (allowed : m.bwAllowed q = true)
include heard allowed

/-- A request that the windows allow is performed while the rate allows, in its turn. -/
theorem bwRequest_performs (turn : front = true ∨ m.bwFill.bw.held = []) (room : m.bwFill.bwRoom q.acc = true) :
    m.bwRequest q front = (m.bwFill.bwDraw q.acc q.len).bwPerform q := by
  rcases turn with turn | turn <;> simp [Mach.bwRequest, heard, allowed, turn, room]

/-- Otherwise it waits. -/
theorem bwRequest_waits (full : m.bwFill.bwRoom q.acc = false) :
    m.bwRequest q front = m.bwFill.setBw { m.bwFill.bw with held := m.bwFill.bw.held ++ [q] } := by
  simp [Mach.bwRequest, heard, allowed, full]

end

section
variable {s : State} (on : On s)
include on

/-- A read of the partner, while the link is up, is a request. -/
theorem partnerRequest_reads {pa : BitVec 52} {len : Nat} {w : WriteOp} {m' : Mach} (up : s.m.bwUp = true) (nonempty : 0 < len)
    (result : s.m.bwRequest ⟨.read, pa.toNat, len, w, none, false, s.m.ns⟩ false = m') :
    Gives (.partnerRequest .read pa len w) s m' := by
  refine gives_act on (exec_partnerRequest s) (Eq.trans ?_ result)
  simp [up, Nat.pos_iff_ne_zero.mp nonempty]

/-- The oldest request that waits is released once the rate allows it, and its wait is counted. -/
theorem rateAllowanceRelease_releases {q : BwReq} {rest : List BwReq} (waits : s.m.bw.held = q :: rest)
    (room : s.m.bwFill.bwRoom q.acc = true) :
    Gives .rateAllowanceRelease s (((s.m.bwFill.setBw { s.m.bwFill.bw with
      held := rest.map (fun (r : BwReq) => { r with since := max r.since s.m.bwFill.ns }) }).fadd Reg.BW_CNT_THROTTLED
        ((s.m.bwFill.ns - q.since) / 1000)).bwRequest q true) :=
  gives_act on (exec_rateAllowanceRelease s) (by simp only [waits, room, if_true])

/-! Messages and the aperture (R227) -/

/-- A vector that the partner has raises its source. -/
theorem partnerMsix_raises {v : BitVec 11} (up : s.m.bwUp = true) (heard : s.m.bwQuar = false)
    (has : v.toNat < s.m.fget Reg.BW_CFG_MSI_VECTORS) : Gives (.partnerMsix v) s (s.m.raise (160 + v.toNat)) :=
  gives_act on (exec_partnerMsix s) (by simp [up, heard, has])

section
variable {a : Agent} {off : Fin 8388608} (reach : Agent.reaches a (apertureBase + off.val) = true) (up : s.m.bwUp = true)
  (size : Nat) (v : Word)
include reach up

theorem apertureAccess_writes :
    Gives (.apertureAccess a off size true v) s (s.m.emit (.link 5 [off.val, size, 1, v.toNat])) :=
  gives_byAgent on reach (exec_apertureAccess s) (if_pos up)

/-- A read's answer is the partner's, a free value (log entry 33). -/
theorem apertureAccess_reads : Gives (.apertureAccess a off size false v) s
    (({ s.m.emit (.link 5 [off.val, size, 0, v.toNat]) with free := s.m.free + 1 } : Mach).emit
      (.regData (Config.openWord 6 s.m.free))) :=
  gives_byAgent on reach (exec_apertureAccess s) (if_pos up)

end

/-! Windows (R228) -/

section
variable {a : Agent} {n : Fin 16} (lim : Bool) (v : Word) (fitted : s.m.flag Reg.BW_ID_FITTED = true)
include fitted

/-- The owner writes a window beyond the envelopes. -/
theorem bwWindowWrite_owner (beyond : 4 ≤ n.val) (may : MayOwn s.m a) :
    Gives (.bwWindowWrite a n lim v) s (s.m.windowWrite n.val lim v) := by
  refine gives_act on (exec_bwWindowWrite s) ?_
  simp only [fitted, Nat.not_lt.mpr beyond, owned_owner _ _ _ _ may, Bool.not_true, Bool.false_eq_true, if_false]

/-- An envelope is written until the configuration image is applied. -/
theorem bwWindowWrite_envelope (envelope : n.val < 4) (unlocked : s.m.lh.booted = false) :
    Gives (.bwWindowWrite a n lim v) s (s.m.windowWrite n.val lim v) :=
  gives_act on (exec_bwWindowWrite s)
    (by simp only [fitted, envelope, unlocked, Bool.not_true, Bool.false_eq_true, if_false, if_true])

end

/-- A window's recall has ended once the partner holds no line that it gives up. -/
theorem windowRecallDone_settles {n : Fin 16} {old : Nat × Nat} (leaves : sget none n.val s.m.bw.leaving = some old)
    (recalled : s.m.windowLines n.val old = []) : Gives (.windowRecallDone n) s
      ((s.m.setBw { s.m.bw with leaving := sset none n.val none s.m.bw.leaving }).windowSettle n.val) :=
  gives_act on (exec_windowRecallDone s) (by simp only [leaves, recalled, List.isEmpty_nil, if_true])

/-! The link (R233) -/

/-- RETRAIN of the owner, by whether the link trains. -/
theorem retrain_owner {a : Agent} {lanes : BitVec 7} (may : MayOwn s.m a) (fitted : s.m.flag Reg.BW_ID_FITTED = true) (ok : Bool) :
    Gives (.retrain a ok lanes) s (if ok then s.m.bwTrained lanes.toNat else s.m.bwLinkDown) := by
  refine gives_act on (exec_retrain s) ?_
  simp only [fitted, owned_owner _ _ _ _ may, Bool.not_true, Bool.false_eq_true, if_false]

end

/-- Settles O19: a request by the rate allowance, and every other row by its condition. That a read of the aperture answers a free value is
log entry 33, the order of the requests that wait and the wait's whole microseconds log entry 32. -/
theorem breakwaterRowsComplete : Obligations.BreakwaterRowsComplete := by
  intro s a on
  refine ⟨fun pa len w up nonempty heard allowed => ⟨fun first room => ?_, fun full => ?_⟩,
    fun q rest => rateAllowanceRelease_releases on, fun v => partnerMsix_raises on,
    fun off size v reach up => ⟨apertureAccess_writes on reach up size v, apertureAccess_reads on reach up size v⟩,
    fun n lim v fitted writer => ?_, fun n old => windowRecallDone_settles on,
    fun lanes may fitted => ⟨retrain_owner on may fitted true, retrain_owner on may fitted false⟩,
    fun up => gives_act on (exec_partnerLinkDown s) (if_pos up)⟩
  · exact partnerRequest_reads on up nonempty (bwRequest_performs heard allowed (Or.inr first) room)
  · exact partnerRequest_reads on up nonempty (bwRequest_waits heard allowed full)
  · rcases writer with ⟨beyond, may⟩ | ⟨envelope, unlocked⟩
    · exact bwWindowWrite_owner on lim v fitted beyond may
    · exact bwWindowWrite_envelope on lim v fitted envelope unlocked

end Sys2Proof.Machine
end

section
/-!
PROOFS. Dies: how a trigger fences one, how the lines of a fenced die are recalled, how a die is re-admitted and restored, and the
statement O20 (R220, R234 to R238).
-/

namespace Sys2Proof.Machine

/-! A trigger fences a die (R234, R235, R239) -/

section
variable {m : Mach} {d cause : Nat} (unfenced : m.fget (Reg.HB_DIE_STATE_STATE d) ≠ dieFenced)
  (serves : m.fget (Reg.HB_DIE_STATE_STATE d) ≠ dieOut)
include unfenced serves

/-- A trigger other than a port that fails for good (cause 5) leaves the die fenced. -/
theorem fence_fences (lasting : cause ≠ 5) : m.fence d cause =
    (if d = 4 then (m.dieTo d dieFenced cause 0).fenceHeadland else ((m.dieTo d dieFenced cause 0).fenceReef d).dieMoves d).setClocks := by
  simp only [Mach.fence, unfenced, serves, lasting, or_self, and_false, if_false]

/-- A Reef die's lines, jobs and migrations go with it. -/
theorem fence_reef (reef : d < 4) (lasting : cause ≠ 5) :
    m.fence d cause = (((m.dieTo d dieFenced cause 0).fenceReef d).dieMoves d).setClocks := by
  rw [fence_fences unfenced serves lasting, if_neg reef.ne]

end

theorem fence_headland {m : Mach} {cause : Nat} (unfenced : m.fget (Reg.HB_DIE_STATE_STATE 4) ≠ dieFenced)
    (serves : m.fget (Reg.HB_DIE_STATE_STATE 4) ≠ dieOut) (lasting : cause ≠ 5) :
    m.fence 4 cause = (m.dieTo 4 dieFenced cause 0).fenceHeadland.setClocks := by
  rw [fence_fences unfenced serves lasting, if_pos rfl]

/-- FENCE of the owner fences a die that serves (R234, R258). -/
theorem hbDieFence_fences {s : State} {a : Agent} {d : Fin 4} (on : On s) (may : MayOwn s.m a)
    (unfenced : s.m.fget (Reg.HB_DIE_STATE_STATE d.val) ≠ dieFenced) (serves : s.m.fget (Reg.HB_DIE_STATE_STATE d.val) ≠ dieOut) :
    Gives (.hbDieFence a d) s (((s.m.dieTo d.val dieFenced 4 0).fenceReef d.val).dieMoves d.val).setClocks := by
  refine gives_owned on may (exec_hbDieFence s) (Eq.trans ?_ (fence_reef unfenced serves d.isLt (by decide)))
  simp only [unfenced, serves, or_self, if_false]

/-! The lines of a fenced die (R235) -/

/-- The home's recall of a line that an agent in service owns asks the owner for it, whatever die the line lies on. -/
theorem request_recallsOwned {m : Mach} {line y : Nat} (room : m.dir.lru.length ≤ 16) (free : m.txn line = none)
    (held : m.ent line = some (.o y)) (present : m.absent y = false) :
    m.request line (.inval none) = (m.snoops line true [y]).setTxn line (some ⟨.inval none, [y], none, false, false, []⟩) := by
  have asked : m.toSnoop line (.inval none) = ([y], true) := by simp only [Mach.toSnoop, held]
  have waits : m.requestAt line (.inval none) =
      (m.snoops line true [y]).setTxn line (some ⟨.inval none, [y], none, false, false, []⟩) := by
    simp [Mach.requestAt, HomeReq.pos, HomeReq.internal, free, Mach.serve, settleEnt_owned present held, asked]
  rw [Mach.request, waits]
  exact dirRelieve_room room

/-- What waits for a line completes poisoned where the line's transaction is open. -/
def Mach.dropOpen (m : Mach) (p : Nat × Option HomeTxn) : Mach :=
  match p.2 with
  | some t => m.dropTxn p.1 t
  | none => m

section
variable {s : State} {d : Fin 5} (on : On s) (fenced : s.m.fget (Reg.HB_DIE_STATE_STATE d.val) = dieFenced)
include on fenced

/-- DIE_FENCE_INVALIDATE ends what waits for the die's lines and then recalls those that still have an entry. -/
theorem dieFenceInvalidate_recalls {m1 : Mach} {waiting : List (Nat × Option HomeTxn)} {lines : List Nat}
    (waits : s.m.dir.txns.filter (fun p => onDie d.val (p.1 * 64)) = waiting) (dropped : waiting.foldl Mach.dropOpen s.m = m1)
    (listed : (m1.dir.ents.map Prod.fst).filter (fun l => onDie d.val (l * 64)) = lines) :
    Gives (.dieFenceInvalidate d) s (m1.recallLines lines) := by
  subst listed dropped waits
  refine gives_act on (exec_dieFenceInvalidate s) ((if_neg fun h => h.1 fenced).trans ?_)
  rfl

end

/-! Re-admission and restoring (R220, R237, R238) -/

/-- Restoring goes on where no trip holds the die's domains off (R437). -/
theorem restoring_proceeds {m : Mach} {d : Nat} (restoring : m.fget (Reg.HB_DIE_STATE_STATE d) = dieRestoring)
    (cool : m.lh.hot.contains d = false) :
    ¬(decide (m.fget (Reg.HB_DIE_STATE_STATE d) ≠ dieRestoring) || m.lh.hot.contains d) = true := by
  rw [restoring, cool]
  decide

section
variable {s : State} {d : Fin 4} (on : On s)
include on

theorem readmit_restores {a : Agent} (may : MayOwn s.m a) (fenced : s.m.fget (Reg.HB_DIE_STATE_STATE d.val) = dieFenced) :
    Gives (.readmit a d) s (s.m.dieTo d.val dieRestoring (s.m.fget (Reg.HB_DIE_STATE_CAUSE d.val)) 0) :=
  gives_owned on may (exec_readmit s) (if_pos fenced)

section
variable {lost : List (Fin 64 × Bool)} {spared : List (Fin 64 × Bool × Fin 35)} {m : Mach}
  (restoring : s.m.fget (Reg.HB_DIE_STATE_STATE d.val) = dieRestoring) (cool : s.m.lh.hot.contains d.val = false)
  (trained : m = lost.foldl (fun a x => a.trainGroup d.val x.1.val x.2)
    (spared.foldl (fun a x => a.trainSpare d.val x.1.val x.2.1 x.2.2.val) s.m))
include restoring cool trained

section
variable {w h : Nat} (choice : m.ltChoice d.val = some (w, h))
include choice

/-- A die whose steps all succeed waits for its firmware at the width that its training leaves. -/
theorem restoringComplete_loads : Gives (.restoringComplete d ⟨true, lost, spared⟩) s
    ((((((m.ltUp d.val w h).poisonStacks d.val).coresBack d.val).dieOn d.val).dieTo
      d.val dieLoading (m.fget (Reg.HB_DIE_STATE_CAUSE d.val)) 0).setClocks) :=
  gives_act on (exec_restoringComplete s)
    ((if_neg (restoring_proceeds restoring cool)).trans (by simp only [← trained, choice, if_true]))

/-- A step that fails leaves it out of service (STATUS by log entry 28). -/
theorem restoringComplete_fails : Gives (.restoringComplete d ⟨false, lost, spared⟩) s
    (m.dieTo d.val dieOut (m.fget (Reg.HB_DIE_STATE_CAUSE d.val)) 0x0F02) :=
  gives_act on (exec_restoringComplete s)
    ((if_neg (restoring_proceeds restoring cool)).trans (by simp only [← trained, choice, Bool.false_eq_true, if_false]))

end

/-- So does a port with no width left (CAUSE 3). -/
theorem restoringComplete_narrowless (narrowless : m.ltChoice d.val = none) (ok : Bool) :
    Gives (.restoringComplete d ⟨ok, lost, spared⟩) s (m.dieTo d.val dieOut 3 0x0F02) :=
  gives_act on (exec_restoringComplete s)
    ((if_neg (restoring_proceeds restoring cool)).trans (by simp only [← trained, narrowless]))

end
end

/-- Settles O20: a trigger by the die it meets, the recall by what waits for the die's lines and who holds them, and restoring by what
training leaves. STATUS 0x0F02 of a restoring that fails is log entry 28. -/
theorem dieRowsComplete : Obligations.DieRowsComplete := by
  intro s a on
  refine ⟨fun d unfenced serves => ⟨?_, ?_, fun may => hbDieFence_fences on may unfenced serves⟩,
    fun unfenced serves => ⟨?_, ?_⟩, fun d fenced => ⟨fun idle room line y listed free held present => ?_,
      fun line t waiting emptied => ?_, fun idle unheld => ?_⟩, fun d may fenced => readmit_restores on may fenced,
    fun d lost spared m restoring cool trained => ⟨fun w h choice => ⟨restoringComplete_loads on restoring cool trained choice,
      restoringComplete_fails on restoring cool trained choice⟩, restoringComplete_narrowless on restoring cool trained⟩⟩
  · exact gives_act on (exec_clockLoss s) (fence_reef unfenced serves d.isLt (by decide))
  · exact gives_act on (exec_dieReset s) (fence_reef unfenced serves d.isLt (by decide))
  · exact gives_act on (exec_clockLoss s) (fence_headland unfenced serves (by decide))
  · exact gives_act on (exec_dieReset s) (fence_headland unfenced serves (by decide))
  · rw [← request_recallsOwned room free held present]
    exact dieFenceInvalidate_recalls on fenced idle rfl listed
  · have unheld : ((s.m.dropTxn line t).dir.ents.map Prod.fst).filter (fun l => onDie d.val (l * 64)) = [] := by rw [emptied]; rfl
    exact dieFenceInvalidate_recalls on fenced waiting rfl unheld
  · exact dieFenceInvalidate_recalls on fenced idle rfl unheld

end Sys2Proof.Machine
end

section
/-!
PROOFS. Headland: the trap that a poisoned load takes, the ordered reduction, waits on a reservation, the driver's ownership claimed and
released, and the statements O21 and O53 (R246, R247, R253 to R261).
-/

namespace Sys2Proof.Machine

/-! A trap taken in machine mode (R247) -/

theorem csr_setCsr_same (m : Mach) (h n : Nat) (v : Word) : (m.setCsr h n v).csr h n = v := sget_sset_same _ _ _ _

theorem csr_setCsr_ne (m : Mach) (h : Nat) {n k : Nat} (v : Word) (other : k ≠ n) : (m.setCsr h n v).csr h k = m.csr h k :=
  sget_sset_ne _ _ _ (by omega) _ _

section
variable (m : Mach) (h : Nat) (irq : Bool) (code : Nat) (value : Word)

/-- Entering a handler writes four control registers, and no more of them. -/
theorem enterTrap_csr (status epc cause tval tvec n : Nat) (st : Word) (p : Priv) :
    (m.enterTrap h status epc cause tval tvec st irq code value p).csr h n =
      ((((m.setCsr h status st).setCsr h epc (sget 0 h m.hl.pc)).setCsr h cause
        (BitVec.ofNat 64 (code + if irq then 2 ^ 63 else 0))).setCsr h tval value).csr h n := rfl

/-- A hart in machine mode takes every trap there, for nothing delegates it. -/
theorem hartTrap_machine (mode : m.hartPriv h = .machine) :
    ∃ st, m.hartTrap h irq code value = m.enterTrap h 0x300 0x341 0x342 0x343 0x305 st irq code value .machine := by
  simp only [Mach.hartTrap, mode]
  exact ⟨_, rfl⟩

/-- Its handler finds the trap in mepc, mcause and mtval, and starts where mtvec says (CSR numbers by log entry 65). -/
theorem hartTrap_machine_effect (mode : m.hartPriv h = .machine) :
    (m.hartTrap h irq code value).hartPriv h = .machine ∧
      (m.hartTrap h irq code value).csr h 0x341 = sget 0 h m.hl.pc ∧
      (m.hartTrap h irq code value).csr h 0x342 = BitVec.ofNat 64 (code + if irq then 2 ^ 63 else 0) ∧
      (m.hartTrap h irq code value).csr h 0x343 = value ∧
      sget 0 h (m.hartTrap h irq code value).hl.pc = trapVector (m.csr h 0x305) irq code := by
  obtain ⟨st, taken⟩ := hartTrap_machine m h irq code value mode
  rw [taken]
  refine ⟨sget_sset_same _ _ _ _, ?_, ?_, ?_, sget_sset_same _ _ _ _⟩
  · rw [enterTrap_csr, csr_setCsr_ne _ _ _ (by decide), csr_setCsr_ne _ _ _ (by decide), csr_setCsr_same]
  · rw [enterTrap_csr, csr_setCsr_ne _ _ _ (by decide), csr_setCsr_same]
  · rw [enterTrap_csr, csr_setCsr_same]

end

/-- What an access fault notes of a hart before the hart takes its trap. -/
def Mach.faulted (m : Mach) (h code : Nat) (addr : Word) : Mach :=
  m.setHl { m.hl with
    trap := sset none h (some (code, addr.toNat)) m.hl.trap
    resv := sset none h none m.hl.resv
    broken := sset false h false m.hl.broken
    waiting := sset false h false m.hl.waiting }

section
variable (m : Mach) (h code : Nat) (addr : Word)

theorem accessFault_eq : m.accessFault h code addr = (m.faulted h code addr).hartTrap h false code addr := rfl

/-- An access fault names the trap, ends the hart's reservation, and leaves its vector registers, the registers and memory. -/
theorem accessFault_effect :
    sget none h (m.accessFault h code addr).hl.trap = some (code, addr.toNat) ∧
      (m.accessFault h code addr).hl.vregs = m.hl.vregs ∧ sget none h (m.accessFault h code addr).hl.resv = none ∧
      (m.accessFault h code addr).regs = m.regs ∧ (m.accessFault h code addr).mem = m.mem := by
  obtain ⟨c, pc, q, framed⟩ := hartTrap_frame (m.faulted h code addr) h false code addr
  rw [accessFault_eq, framed]
  exact ⟨sget_sset_same _ _ _ _, rfl, sget_sset_same _ _ _ _, rfl, rfl⟩

/-- A hart in machine mode handles it itself. -/
theorem accessFault_machine (mode : m.hartPriv h = .machine) :
    (m.accessFault h code addr).hartPriv h = .machine ∧ (m.accessFault h code addr).csr h 0x341 = sget 0 h m.hl.pc ∧
      (m.accessFault h code addr).csr h 0x342 = BitVec.ofNat 64 code ∧ (m.accessFault h code addr).csr h 0x343 = addr ∧
      sget 0 h (m.accessFault h code addr).hl.pc = trapVector (m.csr h 0x305) false code :=
  hartTrap_machine_effect (m.faulted h code addr) h false code addr mode

end

section
variable {s : State} {h : Fin 64} (on : On s)
include on

theorem poisonedLoad_faults (runs : s.m.hartRuns h.val = true) (fetch : Bool) (addr : Word) :
    Gives (.poisonedLoad h fetch addr) s (s.m.accessFault h.val (if fetch then 1 else 5) addr) :=
  gives_act on (exec_poisonedLoad s) (if_pos runs)

/-! The ordered reduction (R246) -/

/-- A reduction that is no illegal instruction writes its sum, or nothing where it has no elements. -/
theorem vfredusum_reduces {sew : Sew} {widen masked : Bool} {acc : Fmt} (runs : s.m.hartRuns h.val = true)
    (rounding : bits (s.m.csr h.val 2) 0 3 ≤ 4) (start : s.m.csr h.val 8 = 0)
    (wide : (if widen then sewWide sew else some (sewFmt sew)) = some acc) (vd vs2 vs1 : Fin 32) (vl : Nat) :
    Gives (.vfredusum h vd vs2 vs1 sew ⟨widen, masked⟩ vl) s
      (if vl = 0 then s.m.hartNext h.val
        else (s.m.hartReduce h.val vd.val vs2.val vs1.val acc (sewFmt sew) masked vl).hartNext h.val) := by
  have legal : ¬(4 < bits (s.m.csr h.val 2) 0 3 ∨ s.m.csr h.val 8 ≠ 0) := by
    rintro (reserved | inside)
    exacts [Nat.not_lt.mpr rounding reserved, inside start]
  refine gives_act on (exec_vfredusum s) ?_
  simp only [runs, legal, wide, Bool.not_true, Bool.false_eq_true, if_false]

/-! Waits on a reservation (R257) -/

/-- A hart whose cluster holds the line reserves it and waits. -/
theorem wrsWake_waits {line : BitVec 46} (runs : s.m.hartRuns h.val = true) (held : s.m.clusterHolds h.val line.toNat = true) :
    Gives (.wrsWake ⟨h, some line⟩) s (s.m.setHl { s.m.hl with
      resv := sset none h.val (some line.toNat) s.m.hl.resv
      broken := sset false h.val false s.m.hl.broken
      waiting := sset false h.val true s.m.hl.waiting }) :=
  gives_act on (exec_wrsWake s) (if_pos (by rw [runs, held]; rfl))

/-- A hart that waits goes on once its reservation is broken. -/
theorem wrsWake_wakes (waits : sget false h.val s.m.hl.waiting = true) (broken : sget false h.val s.m.hl.broken = true) :
    Gives (.wrsWake ⟨h, none⟩) s ((s.m.setHl { s.m.hl with
      resv := sset none h.val none s.m.hl.resv
      broken := sset false h.val false s.m.hl.broken
      waiting := sset false h.val false s.m.hl.waiting }).hartNext h.val) :=
  gives_act on (exec_wrsWake s) (if_pos (by rw [waits, broken]; rfl))

end

/-! The driver's ownership (R258, R259) -/

/-- A change of the owner shows in OWNER. -/
theorem newOwner_owner (m : Mach) {o : Nat} (code : o < 4) : (m.newOwner o).fget Reg.HL_DRV_OWNER_OWNER = o :=
  calc (m.newOwner o).fget Reg.HL_DRV_OWNER_OWNER
      = (m.fset Reg.HL_DRV_OWNER_OWNER o).fget Reg.HL_DRV_OWNER_OWNER :=
        fget_fset_beside _ _ _ _ rfl (by decide) (Or.inr (by decide))
    _ = o % 4 := fget_fset _ _ _ (by decide)
    _ = o := Nat.mod_eq_of_lt code

/-- It moves no other register. -/
theorem newOwner_rget (m : Mach) (o : Nat) {r : Nat} (other : r ≠ Reg.HL_DRV_OWNER) : (m.newOwner o).rget r = m.rget r :=
  (rget_fadd_ne _ _ _ _ other).trans (rget_fset_ne _ _ _ _ other)

/-- So it leaves jobs, rings and schedules to run on. -/
theorem newOwner_effect (m : Mach) {o : Nat} (code : o < 4) :
    (m.newOwner o).fget Reg.HL_DRV_OWNER_OWNER = o ∧ (m.newOwner o).js = m.js ∧ (m.newOwner o).td = m.td ∧
      (m.newOwner o).sw = m.sw ∧ ∀ r : Nat, r ≠ Reg.HL_DRV_OWNER → (m.newOwner o).rget r = m.rget r :=
  ⟨newOwner_owner m code, rfl, rfl, rfl, fun _ => newOwner_rget m o⟩

theorem ownerCode_eq_one (a : Agent) : a.ownerCode = 1 ↔ ∃ i, a = .headland i := by
  cases a with
  | host p => simp only [Agent.ownerCode, reduceCtorEq, exists_false, iff_false]; omega
  | _ => simp [Agent.ownerCode]

theorem ownerCode_eq_port (a : Agent) (p : Fin 2) : a.ownerCode = 2 + p.val ↔ a = .host p := by
  cases a with
  | host q => simp only [Agent.ownerCode, Agent.host.injEq, Fin.ext_iff]; omega
  | _ => simp only [Agent.ownerCode, reduceCtorEq, iff_false]; omega

/-- Whether an owner's code is among those of the agents that claim. -/
theorem claims_iff {as : List Agent} {c : Nat} (code : c ≠ 0) :
    ((as.map Agent.ownerCode).filter (fun c => c != 0)).contains c = true ↔ ∃ a ∈ as, a.ownerCode = c := by
  simp [code]

theorem claims_headland_iff (as : List Agent) :
    ((as.map Agent.ownerCode).filter (fun c => c != 0)).contains 1 = true ↔ ∃ i, .headland i ∈ as := by
  simp only [claims_iff one_ne_zero, ownerCode_eq_one]
  exact ⟨fun ⟨_, claims, i, hart⟩ => ⟨i, hart ▸ claims⟩, fun ⟨i, claims⟩ => ⟨_, claims, i, rfl⟩⟩

theorem claims_port_iff (as : List Agent) (p : Fin 2) :
    ((as.map Agent.ownerCode).filter (fun c => c != 0)).contains (2 + p.val) = true ↔ .host p ∈ as := by
  simp only [claims_iff (show 2 + p.val ≠ 0 by omega), ownerCode_eq_port, exists_eq_right]

section
variable {s : State} (on : On s)
include on

theorem claim_taken {as : List Agent} (taken : s.m.fget Reg.HL_DRV_OWNER_OWNER ≠ 0) : Gives (.claim as) s s.m :=
  gives_act on (exec_claim s) (if_pos taken)

/-- The winner of the claims of one cycle: Headland, then landward port 0, then port 1. -/
theorem claim_free {as : List Agent} (free : s.m.fget Reg.HL_DRV_OWNER_OWNER = 0) :
    Gives (.claim as) s (if ∃ i, .headland i ∈ as then s.m.newOwner 1 else if .host 0 ∈ as then s.m.newOwner 2
      else if .host 1 ∈ as then s.m.newOwner 3 else s.m) := by
  refine gives_act on (exec_claim s) ?_
  simp only [← claims_headland_iff, ← claims_port_iff, free]
  rfl

section
variable {a : Agent} (reach : Agent.reaches a Reg.HL_DRV_OWNER = true)
include reach

theorem release_owner (named : a.ownerCode ≠ 0) (owner : a.ownerCode = s.m.fget Reg.HL_DRV_OWNER_OWNER) :
    Gives (.release a) s (s.m.newOwner 0) :=
  gives_byAgent on reach (exec_release s) (if_pos ⟨named, owner⟩)

theorem release_other (other : a.ownerCode ≠ s.m.fget Reg.HL_DRV_OWNER_OWNER) : Gives (.release a) s s.m :=
  gives_byAgent on reach (exec_release s) (if_neg fun h => other h.2)

end
end

/-- Settles O53: a claim by whether OWNER is free and who claims, a release by whether the owner makes it; the change itself moves one
register alone. -/
theorem claimRules : Obligations.ClaimRules := by
  intro s on
  refine ⟨fun as => ⟨claim_taken on, fun free => ⟨_, claim_free on free, ?_⟩⟩,
    fun a reach => ⟨fun named owner => ⟨_, release_owner on reach named owner, newOwner_effect s.m (by decide)⟩,
      release_other on reach⟩⟩
  split_ifs
  · exact newOwner_effect s.m (by decide)
  · exact newOwner_effect s.m (by decide)
  · exact newOwner_effect s.m (by decide)
  · exact ⟨free, rfl, rfl, rfl, fun _ _ => rfl⟩

/-! Interrupts (R253 to R255) -/

section
variable {s : State} {src : Fin 192} (on : On s) (pending : s.m.irq.contains src.val = true)
  (home : 130 < src.val ∨ s.m.hubPending = false)
include on pending home

/-- A source whose record is home goes landward while a port owns the module and it is below 135, and else to its route. -/
theorem interruptDelivery_delivers : Gives (.interruptDelivery src) s
    (if 2 ≤ s.m.fget Reg.HL_DRV_OWNER_OWNER ∧ src.val ≤ 134 then
      ({ s.m with irq := s.m.irq.erase src.val } : Mach).msixSend (s.m.fget Reg.HL_DRV_OWNER_OWNER - 2) src.val
    else ({ s.m with irq := s.m.irq.erase src.val } : Mach).irqHeadland src.val) := by
  have settled : (decide (src.val ≤ 130) && s.m.hubPending) = false := by
    rcases home with beyond | written
    · simp only [Nat.not_le.mpr beyond, decide_false, Bool.false_and]
    · simp only [written, Bool.and_false]
  refine gives_act on (exec_interruptDelivery s) ?_
  simp only [pending, settled, Bool.not_true, Bool.or_self, Bool.false_eq_true, if_false]

theorem interruptDelivery_headland (routed : s.m.fget Reg.HL_DRV_OWNER_OWNER < 2 ∨ 134 < src.val) :
    Gives (.interruptDelivery src) s (({ s.m with irq := s.m.irq.erase src.val } : Mach).irqHeadland src.val) := by
  have delivers := interruptDelivery_delivers on pending home
  rwa [if_neg (by omega)] at delivers

theorem interruptDelivery_landward (owned : 2 ≤ s.m.fget Reg.HL_DRV_OWNER_OWNER) (below : src.val ≤ 134) :
    Gives (.interruptDelivery src) s (({ s.m with irq := s.m.irq.erase src.val } : Mach).msixSend
      (s.m.fget Reg.HL_DRV_OWNER_OWNER - 2) src.val) := by
  have delivers := interruptDelivery_delivers on pending home
  rwa [if_pos ⟨owned, below⟩] at delivers

end

/-! The statement -/

/-- Settles O21: a poisoned load by the access fault it takes, the reduction by how many elements it has, waits by their line, the owner's
changes as for O53, and a source by who owns the module. The CSR numbers and the trap vector are log entry 65, which instructions of a hart
are rows log entry 34. -/
theorem headlandRowsComplete : Obligations.HeadlandRowsComplete := by
  intro s a h on
  refine ⟨fun fetch addr runs => ?_, fun vd vs2 vs1 sew widen masked vl acc src r runs rounding start narrow wide sum => ?_,
    fun line runs held => ?_, fun waits broken => ?_, fun mask reach up => gives_byAgent on reach (exec_hartStart s) (if_pos up),
    fun as free => ?_, release_owner on, fun src pending home => ?_⟩
  · obtain ⟨trap, vregs, resv, regs, mem⟩ := accessFault_effect s.m h.val (if fetch then 1 else 5) addr
    refine ⟨_, poisonedLoad_faults on runs fetch addr, rfl, trap, vregs, resv, regs, mem, fun mode => ?_⟩
    obtain ⟨priv, epc, cause, tval, pc⟩ := accessFault_machine s.m h.val (if fetch then 1 else 5) addr mode
    refine ⟨priv, epc, cause.trans ?_, tval, pc⟩
    cases fetch <;> rfl
  · subst narrow sum
    have reduces := vfredusum_reduces on (masked := masked) runs rounding start wide vd vs2 vs1 vl
    refine ⟨fun empty => ?_, fun nonempty => ?_⟩
    · rwa [if_pos empty] at reduces
    · rwa [if_neg nonempty.ne'] at reduces
  · exact ⟨_, wrsWake_waits on runs held, sget_sset_same _ _ _ _, sget_sset_same _ _ _ _, sget_sset_same _ _ _ _, rfl, rfl, rfl⟩
  · exact ⟨_, wrsWake_wakes on waits broken, sget_sset_same _ _ _ _, sget_sset_same _ _ _ _, sget_sset_same _ _ _ _, rfl, rfl, rfl⟩
  · have winner := claim_free on (as := as) free
    refine ⟨fun headland => ?_, fun nohart port0 => ?_, fun nohart no0 port1 => ?_⟩
    · rwa [if_pos headland] at winner
    · rwa [if_neg (not_exists.mpr nohart), if_pos port0] at winner
    · rwa [if_neg (not_exists.mpr nohart), if_neg no0, if_pos port1] at winner
  · exact ⟨interruptDelivery_headland on pending home, interruptDelivery_landward on pending home⟩

end Sys2Proof.Machine
end

section
/-!
PROOFS. Registers that belong to the owner: what a command or a write from any other agent than the owner and Lighthouse does, and the
statement O52 (R258, R283, R340, R366, R387, R421, R431, R456).
-/

namespace Sys2Proof.Machine

section
variable {s : State} {a : Agent} (on : On s) (stranger : ¬MayOwn s.m a)
include on stranger

/-- A command of the owner that another agent gives is logged and does nothing. -/
theorem gives_refused {i : Instr} {addr : Nat} {f : Mach → Mach} (row : exec i s = s.act (fun m => m.owned a addr f)) :
    Gives i s (s.m.logE 0x01 0 0 noJob addr) :=
  gives_act on row (owned_other s.m a addr f stranger)

section
variable (fitted : s.m.flag Reg.BW_ID_FITTED = true)
include fitted

/-- So is its write to a window beyond the envelopes, or its RETRAIN. -/
theorem bwWindowWrite_refused {n : Fin 16} (beyond : 4 ≤ n.val) (lim : Bool) (v : Word) : Gives (.bwWindowWrite a n lim v) s
    (s.m.logE 0x01 0 0 noJob (if lim then Reg.BW_WIN_LIM n.val else Reg.BW_WIN_BASE n.val)) := by
  refine gives_act on (exec_bwWindowWrite s) ?_
  simp only [fitted, Nat.not_lt.mpr beyond, owned_other _ _ _ _ stranger, Bool.not_true, Bool.false_eq_true, if_false]

theorem retrain_refused (ok : Bool) (lanes : BitVec 7) :
    Gives (.retrain a ok lanes) s (s.m.logE 0x01 0 0 noJob Reg.BW_CTRL) := by
  refine gives_act on (exec_retrain s) ?_
  simp only [fitted, owned_other _ _ _ _ stranger, Bool.not_true, Bool.false_eq_true, if_false]

end
end

/-- A write to a register of the owner's by another agent is logged and does nothing, where it lies neither in a doorbell page nor among
the registers of a partner site that is not fitted. -/
theorem mayWrite_refused {m : Mach} {a : Agent} {d : RegDef} {w : RegWrite} (stranger : ¬MayOwn m a) (owners : ownerOnly w.reg = true)
    (fitted : m.flag Reg.BW_ID_FITTED = true ∨ w.reg ≤ Reg.BW_ID ∨ Reg.HL_ID ≤ w.reg)
    (outside : ¬(Reg.HB_DB_SQ_TAIL 0 0 ≤ w.reg ∧ w.reg < Reg.HB_DB_SQ_TAIL 64 0)) :
    m.mayWrite a d w = m.logE 0x01 0 0 noJob w.reg := by
  have present : ¬(Reg.BW_ID < w.reg ∧ w.reg < Reg.HL_ID ∧ (!m.flag Reg.BW_ID_FITTED) = true) := by
    rintro ⟨above, below, absent⟩
    rcases fitted with fitted | low | high
    · simp [fitted] at absent
    · exact Nat.not_lt.mpr low above
    · exact Nat.not_lt.mpr high below
  have nopage : Reg.HB_DB_SQ_TAIL 0 0 ≤ w.reg → ¬(w.reg - Reg.HB_DB_SQ_TAIL 0 0) / 0x10000 < 64 := by
    simp only [Reg.HB_DB_SQ_TAIL] at outside ⊢; omega
  simp only [Mach.mayWrite]
  rw [if_neg present, if_pos owners, owned_other _ _ _ _ stranger, if_neg (not_and.mpr fun above page => nopage above page.1), ite_self]

/-- REGISTER_WRITE by an agent that does not reach the register is logged (R15). -/
theorem registerWrite_unreached {s : State} {a : Agent} {addr : BitVec 52} {size : Nat} {v : Word} {d : RegDef} (on : On s)
    (tier : tierOf addr.toNat = .registers) (ok : accessOk addr.toNat size = true)
    (row : Reg.rowAt (regWriteOf addr.toNat size v).reg = some d) (own : s.m.rowFor a (regWriteOf addr.toNat size v) = none)
    (idle : triggers a (.registerWrite a addr size v) (regWriteOf addr.toNat size v) = [])
    (far : Agent.reaches a (regWriteOf addr.toNat size v).reg = false) :
    Gives (.registerWrite a addr size v) s (s.m.logE 0x01 0 0 noJob (regWriteOf addr.toNat size v).reg) := by
  rw [Gives, exec_registerWrite]
  simp only [execRegisterWrite, tier, ok, row, own, idle, act_on _ _ on, Mach.byAgent, far]
  rfl

/-- Settles O52: each command is a write that only the owner may make, Breakwater's once a partner site is fitted, and a write of a
register is refused by the register it goes to. -/
theorem ownerOnlyWrites : Obligations.OwnerOnlyWrites := by
  intro s a on stranger
  refine ⟨fun job sel d b t v x bs => ?_, fun n x v lanes fitted => ⟨fun beyond => bwWindowWrite_refused on stranger fitted beyond x v,
    retrain_refused on stranger fitted x lanes⟩, fun addr size v d tier ok row own idle up owners fitted outside => ?_⟩
  · simp only [List.forall_mem_cons, List.not_mem_nil, false_imp_iff, implies_true, and_true]
    and_intros
    all_goals exact gives_refused on stranger rfl
  · cases reach : Agent.reaches a (regWriteOf addr.toNat size v).reg with
    | true =>
      rw [← mayWrite_refused (d := d) stranger owners fitted outside]
      exact registerWrite_plain tier ok row own up on idle reach
    | false => exact registerWrite_unreached on tier ok row own idle reach

end Sys2Proof.Machine
end

section
/-!
PROOFS. A step on an empty queue: what is tried again leaves the queue as it is, and the statement O45 (log entries 4 and 16).
-/

namespace Sys2Proof.Machine

/-- The module's answer leaves the queue (as `act_pending`, of the state that the step leaves). -/
theorem afterStep_act_pending (s : State) (f : Mach → Mach) : (afterStep s (s.act f)).pending = s.pending :=
  act_pending s _ f rfl

/-- A command tried again leaves the queue, whichever it is. -/
theorem redo_pending (s : State) (c : Instr) : (s.redo c).pending = s.pending := by
  unfold State.redo
  split
  case h_10 => rfl
  all_goals exact afterStep_act_pending s _

theorem foldl_redo_pending : ∀ (cs : List Instr) (s : State), (cs.foldl State.redo s).pending = s.pending
  | [], _ => rfl
  | c :: cs, s => (foldl_redo_pending cs (s.redo c)).trans (redo_pending s c)

theorem goOn_pending (s : State) : s.goOn.pending = s.pending := foldl_redo_pending _ _

/-- Where nothing waits for the home nothing is tried again. -/
theorem goOn_quiet {s : State} (again : s.m.dir.again = []) (reset : s.m.sg.resetTo = none) (held : s.m.sw.ethHeld = [])
    (recs : s.m.xl.recs = []) : s.goOn = s := by
  simp only [State.goOn, again, List.foldl_nil, reset, held, Mach.startMigs, recs, Option.isSome_none, Bool.false_eq_true, if_false,
    List.isEmpty_nil, if_true]
  rw [← again]

section
variable {s : State} (empty : s.pending = [])
include empty

theorem step_empty : step s = idle s := by rw [step, empty]

/-- On an empty queue a module that is on tries again what waits, and lets one nanosecond pass. -/
theorem step_ticks (on : On s) (still : On s.goOn) : step s = .next { s.goOn with m := s.goOn.m.tick } := by
  rw [step_empty empty, idle, if_neg (by simp [on]), act_on _ _ still]

/-- One that is down stands. -/
theorem step_down (down : s.m.down = true) : step s = .next s := by
  rw [step_empty empty, idle, if_pos down, act_off _ _ down]

end

/-- Settles O45: the queue by what a command tried again leaves, the step by whether the module is on. -/
theorem idleStep : Obligations.IdleStep := by
  intro s empty
  refine ⟨fun on => ⟨(goOn_pending s).trans empty, step_ticks empty on⟩, fun on again reset held recs => ?_, step_down empty⟩
  have quiet := goOn_quiet again reset held recs
  have ticks := step_ticks empty on
  rw [quiet] at ticks
  exact ticks on

end Sys2Proof.Machine
end

section
/-!
PROOFS. The landward links: the states and losses of a port, arming, the fence read, changes of route, what the host asks for and what it
acknowledges, and the statements O22 and O23 (R263 to R281).
-/

namespace Sys2Proof.Machine

/-! Links and losses (R263, R275, R276) -/

/-- Training settles on the widths and the rates of R263. -/
theorem lwLegal_iff (lanes rate : Nat) :
    lwLegal lanes rate = true ↔ (lanes = 4 ∨ lanes = 8 ∨ lanes = 16) ∧ 1 ≤ rate ∧ rate ≤ 4 := by
  simp only [lwLegal, Bool.and_eq_true, Bool.or_eq_true, beq_iff_eq, decide_eq_true_eq]
  omega

/-- What a port that leaves Recovery held back goes on. -/
def Mach.lwResume (m : Mach) (p : Nat) : Mach :=
  (m.setLw { m.lw with stalled := m.lw.stalled.filter (fun x => x.1 != p) }).lwRetry.fenceGo

section
variable {s : State} {p : Fin 2} (on : On s)
include on

theorem recoveryEntry_retrains (up : s.m.fget (Reg.LW_LINK_LINK p.val) = linkL0) :
    Gives (.recoveryEntry p) s ((s.m.linkTo p.val linkRecovery).fadd (Reg.LW_CNT2_RETRAINS p.val) 1) :=
  gives_act on (exec_recoveryEntry s) (if_pos up)

section
variable (recovers : s.m.recovering p.val = true)
include recovers

/-- A port leaves Recovery only at a width and rate that training may settle on (log entry 35). -/
theorem recoveryExit_resumes (lanes : BitVec 5) (rate : BitVec 3) : Gives (.recoveryExit p lanes rate) s
    (if lwLegal lanes.toNat rate.toNat then (s.m.linkUp p.val lanes.toNat rate.toNat).lwResume p.val else s.m) := by
  refine gives_act on (exec_recoveryExit s) ?_
  simp only [recovers, true_and, Mach.lwResume]

theorem recoveryLimitExpiry_loses : Gives (.recoveryLimitExpiry p) s (s.m.loss p.val 2) :=
  gives_act on (exec_recoveryLimitExpiry s) (if_pos recovers)

end

/-- A link that is down, released from Detect, comes up at such a width and rate (log entry 35). -/
theorem landwardLinkL0_comesUp (released : s.m.lw.released = true) (dead : s.m.linkAlive p.val = false) (lanes : BitVec 5)
    (rate : BitVec 3) : Gives (.landwardLinkL0 p lanes rate) s
      (if lwLegal lanes.toNat rate.toNat then s.m.linkUp p.val lanes.toNat rate.toNat else s.m) := by
  refine gives_act on (exec_landwardLinkL0 s) ?_
  simp only [released, dead, Bool.not_false, Bool.true_and]

end

/-- Settles O22: each row by the state of the link it asks for. That a width or rate other than the legal ones changes nothing is log
entry 35. -/
theorem landwardLinkRowsComplete : Obligations.LandwardLinkRowsComplete := by
  intro s p on
  refine ⟨recoveryEntry_retrains on, fun recovers => ⟨recoveryExit_resumes on recovers, recoveryLimitExpiry_loses on recovers⟩,
    fun alive => ⟨?_, ?_, ?_⟩, gives_act on (exec_perstAssert s) rfl,
    fun lanes rate released dead => landwardLinkL0_comesUp on released dead lanes rate, lwLegal_iff⟩
  · exact gives_act on (exec_linkDown s) (if_pos alive)
  · exact gives_act on (exec_hotReset s) (if_pos alive)
  · exact gives_act on (exec_functionLevelReset s) (if_pos alive)

/-! The fence read (R272) -/

/-- A fence line is read once its port's earlier writes are home and the port is not in Recovery (R272, R275). -/
def Mach.flineDue (m : Mach) (x : Nat × Nat) : Bool := x.2 == 0 && !m.recovering x.1

/-- A fence read after the reads of its fence lines that are due. -/
def Mach.readFlines (m : Mach) (f : FenceRd) : FenceRd :=
  { f with
    left := f.left.filter (fun x => !m.flineDue x)
    issued := f.issued ++ (f.left.filter m.flineDue).map Prod.fst }

/-- Issuing reads of fence lines shows outside, and changes nothing else. -/
theorem foldl_flineRead_out : ∀ (ps : List Nat) (m : Mach),
    ∃ out, ps.foldl (fun a p => a.emit (.landward p [2, a.fget (Reg.LW_FLINE_LINE p) * 64] [])) m = { m with out := out }
  | [], m => ⟨m.out, rfl⟩
  | _ :: ps, _ => foldl_flineRead_out ps _

theorem fenceGo_eq (m : Mach) :
    ∃ out, m.fenceGo = { m.setLw { m.lw with fence := m.lw.fence.map m.readFlines } with out := out } :=
  foldl_flineRead_out _ _

/-- The fence read that FENCE_READ notes: the ports armed with their fence line enabled, and how many of each one's writes are not yet at
their home. -/
def Mach.notedFence (m : Mach) : FenceRd :=
  ⟨((List.range 2).filter (fun p => m.armed p && m.flag (Reg.LW_FLINE_EN p))).map
    (fun p => (p, (m.lw.writes.filter (fun w => w.port == p)).length)), [], []⟩

section
variable (m : Mach) (q n : Nat)

theorem mem_notedFence : (q, n) ∈ m.notedFence.left ↔ q < 2 ∧ m.armed q = true ∧ m.flag (Reg.LW_FLINE_EN q) = true ∧
    n = (m.lw.writes.filter (fun w => w.port == q)).length := by
  simp only [Mach.notedFence, List.mem_map, List.mem_filter, List.mem_range, Bool.and_eq_true, Prod.mk.injEq]
  constructor
  · rintro ⟨_, ⟨port, armed, enabled⟩, rfl, rfl⟩
    exact ⟨port, armed, enabled, rfl⟩
  · rintro ⟨port, armed, enabled, rfl⟩
    exact ⟨q, ⟨port, armed, enabled⟩, rfl, rfl⟩

theorem flineDue_iff : m.flineDue (q, n) = true ↔ n = 0 ∧ m.recovering q = false := by
  simp only [Mach.flineDue, Bool.and_eq_true, beq_iff_eq, Bool.not_eq_true']

/-- It waits for the ports that have writes out, or are in Recovery. -/
theorem mem_left_readFlines : (q, n) ∈ (m.readFlines m.notedFence).left ↔ q < 2 ∧ m.armed q = true ∧
    m.flag (Reg.LW_FLINE_EN q) = true ∧ n = (m.lw.writes.filter (fun w => w.port == q)).length ∧ (n ≠ 0 ∨ m.recovering q = true) := by
  have waits : (!m.flineDue (q, n)) = true ↔ n ≠ 0 ∨ m.recovering q = true := by
    rw [Bool.not_eq_true', ← Bool.not_eq_true, flineDue_iff, not_and_or, Bool.not_eq_false]
  simp only [Mach.readFlines, List.mem_filter, mem_notedFence, waits, and_assoc]

/-- The fence line of every other port is read at once. -/
theorem mem_issued_readFlines : q ∈ (m.readFlines m.notedFence).issued ↔ q < 2 ∧ m.armed q = true ∧
    m.flag (Reg.LW_FLINE_EN q) = true ∧ (m.lw.writes.filter (fun w => w.port == q)).length = 0 ∧ m.recovering q = false := by
  have issued : (m.readFlines m.notedFence).issued = (m.notedFence.left.filter m.flineDue).map Prod.fst := rfl
  simp only [issued, List.mem_map, List.mem_filter, Prod.exists, exists_and_right, exists_eq_right, mem_notedFence, flineDue_iff]
  constructor
  · rintro ⟨_, ⟨port, armed, enabled, rfl⟩, home, up⟩
    exact ⟨port, armed, enabled, home, up⟩
  · rintro ⟨port, armed, enabled, home, up⟩
    exact ⟨0, ⟨port, armed, enabled, home.symm⟩, rfl, up⟩

end

/-- The bits of LW_FENCE that a fence read returns (R272). -/
def Mach.fenceBits (m : Mach) (f : FenceRd) : Nat :=
  (if f.issued.contains 0 then 1 else 0) + 2 * (if f.issued.contains 1 then 1 else 0) +
    4 * (if f.lost.contains 0 || m.flag (Reg.LW_EPOCH_LOST 0) then 1 else 0) +
    8 * (if f.lost.contains 1 || m.flag (Reg.LW_EPOCH_LOST 1) then 1 else 0)

/-- The binary digits of a number made of four. -/
theorem four_digits {a b c d : Nat} (ha : a < 2) (hb : b < 2) (hc : c < 2) (hd : d < 2) :
    (a + 2 * b + 4 * c + 8 * d) / 2 ^ 0 % 2 ^ 1 = a ∧ (a + 2 * b + 4 * c + 8 * d) / 2 ^ 1 % 2 ^ 1 = b ∧
      (a + 2 * b + 4 * c + 8 * d) / 2 ^ 2 % 2 ^ 1 = c ∧ (a + 2 * b + 4 * c + 8 * d) / 2 ^ 3 % 2 ^ 1 = d := by
  omega

/-- Each of them tells one fact of one port. -/
theorem fenceBits_shows {m m' : Mach} {f : FenceRd} (word : m'.rget Reg.LW_FENCE = BitVec.ofNat 64 (m.fenceBits f)) :
    m'.fget ⟨Reg.LW_FENCE, 0, 1⟩ = (if 0 ∈ f.issued then 1 else 0) ∧ m'.fget ⟨Reg.LW_FENCE, 1, 1⟩ = (if 1 ∈ f.issued then 1 else 0) ∧
      m'.fget ⟨Reg.LW_FENCE, 2, 1⟩ = (if 0 ∈ f.lost ∨ m.flag (Reg.LW_EPOCH_LOST 0) = true then 1 else 0) ∧
      m'.fget ⟨Reg.LW_FENCE, 3, 1⟩ = (if 1 ∈ f.lost ∨ m.flag (Reg.LW_EPOCH_LOST 1) = true then 1 else 0) := by
  have digit : ∀ (c : Prop) [Decidable c], (if c then 1 else 0) < 2 := fun c _ => by split_ifs <;> decide
  rw [fget_of_rget word 0 1 (by decide), fget_of_rget word 1 1 (by decide), fget_of_rget word 2 1 (by decide),
    fget_of_rget word 3 1 (by decide)]
  simp only [Mach.fenceBits, Bool.or_eq_true, List.contains_iff_mem]
  exact four_digits (digit _) (digit _) (digit _) (digit _)

section
variable {s : State} (on : On s)
include on

theorem fenceRead_notes {a : Agent} (reach : Agent.reaches a Reg.LW_FENCE = true) :
    Gives (.fenceRead a) s (s.m.setLw { s.m.lw with fence := s.m.lw.fence ++ [s.m.notedFence] }).fenceGo :=
  gives_byAgent on reach (exec_fenceRead s) rfl

/-- The oldest fence read returns once none of its reads is outstanding. -/
theorem fenceReadDone_returns {f : FenceRd} {rest : List FenceRd} (oldest : s.m.lw.fence = f :: rest) (home : f.left = [])
    (up : f.issued.any s.m.recovering = false) :
    Gives .fenceReadDone s (((s.m.setLw { s.m.lw with fence := rest }).rset Reg.LW_FENCE (BitVec.ofNat 64 (s.m.fenceBits f))).emit
      (.regData (BitVec.ofNat 64 (s.m.fenceBits f)))) := by
  refine gives_act on (exec_fenceReadDone s) ?_
  simp only [oldest, home, up, List.isEmpty_nil, Bool.not_true, Bool.or_self, Bool.false_eq_true, if_false]
  rfl

/-! Arming and routes (R269, R280) -/

/-- A port is armed through its own BAR0, once the write passes its checks. -/
theorem epochArm_arms {p : Fin 2} {e : BitVec 32} (passes : s.m.armCheck p.val e.toNat = 0) :
    Gives (.epochArm (.host p) p e) s (((((s.m.fset (Reg.LW_EPOCH_STATUS p.val) 0).fset (Reg.LW_EPOCH_ARMED p.val) 1).fset
      (Reg.LW_EPOCH_LOST p.val) 0).fset (Reg.LW_EPOCH_EPOCH p.val) e.toNat).comeBack (13 + p.val)) := by
  refine gives_act on (exec_epochArm s) ((if_pos rfl).trans ?_)
  simp only [Mach.arm, passes, ne_eq, not_true_eq_false, if_false]

section
variable {a : Agent} {mode : BitVec 2} (may : MayOwn s.m a) (known : mode ≠ 3#2)
include may known

/-- A new MODE waits while a write issued under the old one is outstanding, or an earlier change is. -/
theorem routeChange_waits (outstanding : s.m.lw.hold = true ∨ s.m.lw.writes ≠ []) :
    Gives (.routeChange a mode) s ((s.m.fset Reg.LW_ROUTE_MODE mode.toNat).setLw { s.m.lw with hold := true }) := by
  have held : s.m.lw.hold = true ∨ (!s.m.lw.writes.isEmpty) = true := by simpa using outstanding
  exact gives_owned on may (exec_routeChange s) ((if_neg known).trans (if_pos held))

/-- Otherwise it is in force at once. -/
theorem routeChange_inForce (idle : s.m.lw.hold = false) (home : s.m.lw.writes = []) :
    Gives (.routeChange a mode) s ((s.m.fset Reg.LW_ROUTE_MODE mode.toNat).setLw { s.m.lw with mode := mode.toNat }) := by
  have free : ¬(s.m.lw.hold = true ∨ (!s.m.lw.writes.isEmpty) = true) := by simp [idle, home]
  exact gives_owned on may (exec_routeChange s) ((if_neg known).trans (if_neg free))

end

/-- Once every memory write issued under the old MODE is home, and none is held, the new one is in force. -/
theorem routeChangeDone_inForce (waits : s.m.lw.hold = true) (home : ∀ w ∈ s.m.lw.writes, w.msix.isSome = true)
    (none_held : s.m.lw.heldWrites = []) :
    Gives .routeChangeDone s ((s.m.setLw { s.m.lw with
      mode := s.m.fget Reg.LW_ROUTE_MODE
      hold := false }).fset Reg.LW_ROUTE_BUSY 0).lwRetry := by
  have settled : s.m.lw.writes.any (fun w => w.msix.isNone) = false := by
    simpa [List.any_eq_false, Option.isSome_iff_ne_none] using home
  refine gives_act on (exec_routeChangeDone s) ?_
  simp [waits, settled, none_held, Mach.routeHeld]

/-! What the host asks for and acknowledges (R265 to R268, R270, R274, R278, R279) -/

section
variable {p : Fin 2}

section
variable {dpa : BitVec 41} (up : s.m.fget (Reg.LW_LINK_LINK p.val) = linkL0) (armed : s.m.armed p.val = true)
include up armed

theorem cxlMemRequest_reads :
    Gives (.cxlMemRequest p dpa none) s (s.m.request (dpaToPa dpa.toNat / 64) (.rds (13 + p.val))) :=
  gives_act on (exec_cxlMemRequest s) (by simp [up, armed])

theorem cxlMemRequest_writes (bs : List Byte) : Gives (.cxlMemRequest p dpa (some bs)) s
    (s.m.ncWrite (some (13 + p.val)) none (s.m.hostKey (dpaToPa dpa.toNat)) (dpaToPa dpa.toNat) bs) :=
  gives_act on (exec_cxlMemRequest s) (by simp [up, armed])

end

/-- Configuration reads find the function's identity and the CDAT once Harbour is ready (the answer's order by log entry 60). -/
theorem configRequest_ready (ready : s.m.lw.released = true) :
    Gives (.configRequest p) s (s.m.emit (.landward p.val (0 :: s.m.configIdentity ++ cdat) [])) :=
  gives_act on (exec_configRequest s) (if_pos ready)

/-- Before, they are asked to retry. -/
theorem configRequest_retries (early : s.m.lw.released = false) :
    Gives (.configRequest p) s (s.m.emit (.landward p.val [1] [])) :=
  gives_act on (exec_configRequest s) (by simp [early])

section
variable {w : LwWrite} (oldest : s.m.lw.writes.find? (fun w => w.port == p.val) = some w)
  (up : s.m.fget (Reg.LW_LINK_LINK p.val) = linkL0) (armed : s.m.armed p.val = true)
  (current : w.epoch = s.m.fget (Reg.LW_EPOCH_EPOCH p.val))
include oldest up armed current

/-- An acknowledged MSI-X message reaches the host. -/
theorem landwardWriteAck_msix {v : Nat} (message : w.msix = some v) :
    Gives (.landwardWriteAck p) s ((s.m.lwHome p.val).fenceGo.emit (.msix p.val v)) :=
  gives_act on (exec_landwardWriteAck s) (by simp [oldest, up, armed, current, message])

/-- An acknowledged write of memory is made, its access ends, and what waited for it goes on. -/
theorem landwardWriteAck_homes (store : w.msix = none) : Gives (.landwardWriteAck p) s
    (((s.m.lwHome p.val).fenceGo.homeWrite w.pa 0 w.w).1.accessDone w.cmd
      ((s.m.lwHome p.val).fenceGo.homeWrite w.pa 0 w.w).2 0x0304).lwRetry :=
  gives_act on (exec_landwardWriteAck s) (by simp [oldest, up, armed, current, store])

end

/-- Unmasking a vector sends nothing where nothing is pending. -/
theorem msixUnmask_opens (idle : s.m.lw.msixPend = []) (v : Fin 192) : Gives (.msixUnmask p (some v)) s
    (s.m.setLw { s.m.lw with msixOpen := sset false (p.val * 256 + v.val) true s.m.lw.msixOpen }) :=
  gives_act on (exec_msixUnmask s) (by simp [idle])

end
end

/-- Settles O23: the fence read by which fence lines are due and what its bits tell, a route by what is outstanding, the host's requests
and acknowledgements by the state of the link. How Recovery, arming and routing meet accesses in flight is log entry 35, the order of the
words of an answer log entry 60. -/
theorem landwardAccessRowsComplete : Obligations.LandwardAccessRowsComplete := by
  intro s a p on
  refine ⟨fun e => epochArm_arms on, fun reach => ?_, fun f rest oldest home up => ?_,
    fun mode may known => ⟨routeChange_waits on may known, routeChange_inForce on may known⟩, routeChangeDone_inForce on,
    fun dpa up armed => ⟨cxlMemRequest_reads on up armed, cxlMemRequest_writes on up armed⟩, configRequest_ready on,
    configRequest_retries on, fun w oldest up armed current => ⟨fun v => landwardWriteAck_msix on oldest up armed current,
      landwardWriteAck_homes on oldest up armed current⟩, fun v idle => msixUnmask_opens on idle v⟩
  · refine ⟨_, fenceRead_notes on reach, ?_⟩
    obtain ⟨out, framed⟩ := fenceGo_eq (s.m.setLw { s.m.lw with fence := s.m.lw.fence ++ [s.m.notedFence] })
    rw [framed]
    exact ⟨rfl, rfl, rfl, s.m.lw.fence.map s.m.readFlines, s.m.readFlines s.m.notedFence, List.map_append, List.length_map _, rfl,
      mem_left_readFlines s.m, mem_issued_readFlines s.m⟩
  · refine ⟨_, fenceReadDone_returns on oldest home up, rfl, rfl, ?_, fenceBits_shows (rget_rset _ _ _)⟩
    simp only [emit_out, emit_rget, rget_rset, rset_out, setLw_out]

end Sys2Proof.Machine
end

section
/-!
PROOFS. Intake: how a command starts, what a free unit takes, how the sample on a unit goes on, and the statement O24 (R285 to R303).
-/

namespace Sys2Proof.Machine

/-! Commands that start (R287, R288, R301) -/

/-- A command that passes every check in its turn begins with the record its tables make. -/
theorem ikStart_begins {m0 m : Mach} {pixel : Bool} {c : Cmd} {k : IkCmd} (starts : ikStarts m0 pixel c m k) :
    m0.ikStart pixel = m.ikBegin c k := by
  obtain ⟨awake, up, free, next, kind, body, j, m1, m2, m3, xb, job, xform, xformOk, tier, apart, replayed, now, passes, tables⟩ := starts
  have own : ¬ ((c.ikKind ≠ 1) ≠ (pixel = true)) := by cases pixel <;> simp [kind]
  have sound : (if pixel then xformCheck (leWords 16 xb) else none) = none := by simpa using xformOk
  simp only [Mach.ikStart, awake, up, next, own, free, job, body, xform, sound, tier, apart, replayed, now, passes, tables,
    Bool.false_eq_true, or_self, if_false]

/-! What a free unit takes (R290, R291, R297) -/

/-- A sample as its first bytes claim it to be, concealed where its LIVE stream waits for a random-access point (R290, R292). -/
def Mach.ikClaimed (m : Mach) (c : Cmd) (x : IkSample) (hd : List Byte) : IkSample :=
  { x with
    width := claim 2 (entCodec x.entry) hd
    height := claim 3 (entCodec x.entry) hd
    hides := !x.rsv && c.ikClass == 0 && sget false (c.job * 65536 + c.ikStream) m.ik.hides }

section
variable {s : State} {u : UnitId} {k : IkCmd} {c : Cmd} {x : IkSample} (on : On s) (runs : s.m.ikRuns = true)
include on runs

/-- A sample with no space of its own yet goes on the unit once its entry and its headers pass and the work area has room for it. -/
theorem unitAssign_takes {rr : Rr} {j : Job} {m1 : Mach} {hd : List Byte} (free : s.m.flag ⟨Reg.IK_UNITS, unitBit u, 1⟩ = false)
    (pick : s.m.ikPick (unitKind u) = some ((k, c, x), rr)) (job : s.m.job? c.job = some j) (fresh : x.alloc = 0)
    (entryOk : entryCheck c x.entry = none)
    (read : s.m.ikRead j c.job (entSrc x.entry) (min (entLen x.entry) 65536) = (m1, .ok hd))
    (headOk : m1.headCheck c x.entry hd = none) (fits : allocBytes x.entry hd ≤ k.free c) :
    Gives (.unitAssign u) s ((m1.setIk { m1.ik with rr := sset none (unitKind u) (some rr) m1.ik.rr }).ikAssign k
      (s.m.ikClaimed c x hd) (unitBit u) (allocBytes x.entry hd)) := by
  refine gives_act on (exec_unitAssign s) ?_
  simp only [runs, free, pick, job, fresh, entryOk, read, headOk, Nat.not_lt.mpr fits, Mach.ikClaimed, ne_eq, not_true, Bool.not_true,
    Bool.or_self, Bool.false_eq_true, if_false]

/-! The sample on a unit (R290, R292, R297, R298) -/

section
variable (sits : s.m.onUnit u = some (k, c, x))
include sits

/-- A picture that neither lacks a reference nor is concealed is counted, and the unit stays where no sample of a higher class waits. -/
theorem pictureBoundary_counts (rap : Bool) (coded : unitKind u ≠ 0) (shown : x.hides = false)
    (first : (s.m.ikWaiting (unitKind u)).any (fun y => decide (sampleClass y.2.1 y.2.2 < sampleClass c x)) = false)
    (within : unitKind u = 1 → x.pics < entFrames x.entry) (stored : unitKind u = 1 → x.rsv = false → c.ikClass ≠ 0) :
    Gives (.pictureBoundary u false rap) s (s.m.ikPut (k.setSample { x with pics := x.pics + 1 })) := by
  have more : ¬ (unitKind u = 1 ∧ entFrames x.entry ≤ x.pics) := fun ⟨video, exceeds⟩ => Nat.not_le.mpr (within video) exceeds
  have notLive : ¬ ((x.rsv = false ∧ c.ikClass = 0) ∧ unitKind u = 1) := fun ⟨⟨own, live⟩, video⟩ => stored video own live
  refine gives_act on (exec_pictureBoundary s) ?_
  simp [sits, runs, coded, more, notLive, first, shown]

/-- A video sample that holds more pictures than it claimed fails, whatever it refers to. -/
theorem pictureBoundary_overClaims (miss rap : Bool) (video : unitKind u = 1) (exceeds : entFrames x.entry ≤ x.pics) :
    Gives (.pictureBoundary u miss rap) s (s.m.ikFail k c x 0x0803) :=
  gives_act on (exec_pictureBoundary s) (by simp [sits, runs, video, exceeds])

/-- A missing reference drops a video sample of a class other than LIVE, or of the reserve. -/
theorem pictureBoundary_drops (rap : Bool) (video : unitKind u = 1) (within : x.pics < entFrames x.entry)
    (stored : x.rsv = true ∨ c.ikClass ≠ 0) : Gives (.pictureBoundary u true rap) s (s.m.ikFail k c x 0x0804) := by
  have notLive : ¬ (x.rsv = false ∧ c.ikClass = 0) := fun ⟨own, live⟩ => stored.elim (by simp [own]) (· live)
  exact gives_act on (exec_pictureBoundary s) (by simp [sits, runs, video, Nat.not_le.mpr within, notLive])

/-- A sample that its bytes say has decoded, in whole tokens where it is a DEFLATE one, is done where no budget applies. -/
theorem sampleDecodeEnd_decodes {j : Job} {m1 : Mach} {src data : List Byte} (us : Nat)
    (timeless : s.m.ikBudget c x (unitKind u) = none) (job : s.m.job? c.job = some j)
    (read : s.m.ikRead j c.job (entSrc x.entry) (entLen x.entry) = (m1, .ok src))
    (ends : sampleEnd x (if !x.rsv && c.ikClass == 0 then sget [] (c.job * 65536 + c.ikStream) s.m.ik.live else []) src = .ok data)
    (whole : entCodec x.entry = 1 → entDlen x.entry % c.ikTok = 0) :
    Gives (.sampleDecodeEnd u us .complete) s (m1.ikDecoded k c x (unitKind u) us src data) := by
  have tokens : ¬ (entCodec x.entry = 1 ∧ entDlen x.entry % c.ikTok ≠ 0) := fun ⟨deflate, part⟩ => part (whole deflate)
  have bytes : s.m.ikBytes j k c x (unitKind u) us = m1.ikDecoded k c x (unitKind u) us src data := by
    simp only [Mach.ikBytes, read, ends, tokens, if_false]
  refine gives_act on (exec_sampleDecodeEnd s) ?_
  simp only [sits, timeless, runs, endStatus, job, bytes, Bool.not_true, Bool.false_eq_true, if_false]

/-- A sample whose decode time reaches its budget is evicted. -/
theorem lateEviction_evicts {us b : Nat} (budget : s.m.ikBudget c x (unitKind u) = some b) (late : b ≤ us) :
    Gives (.lateEviction u us) s (s.m.ikFail k c x 0x0805) :=
  gives_act on (exec_lateEviction s) (by simp [sits, runs, budget, late])

end
end

/-! The end of a batch (R288, R300, R302) -/

/-- A batch is settled, then goes as far through its outputs, its records and its completion as what is home lets it. -/
theorem intakeBatchComplete_advances {s : State} {job : Fin 64} {stream : BitVec 16} {k : IkCmd} (on : On s)
    (named : s.m.ikNamed job.val stream.toNat = some k) : Gives (.intakeBatchComplete job stream) s
      ((((s.m.ikSettle k.id).ikAdvance k.id).ikAdvance k.id).ikAdvance k.id) :=
  gives_act on (exec_intakeBatchComplete s) (by simp only [named])

/-- Settles O24: a command by its checks, a free unit by the sample it takes, the sample on a unit by its pictures, its bytes and its
budget, a batch by the command that its job and stream name. What a video or picture decoder makes of a sample, and the order in which
units take samples, is log entry 36. -/
theorem intakeRowsComplete : Obligations.IntakeRowsComplete := by
  intro s on
  refine ⟨fun c m k => ⟨fun starts => ?_, fun starts => ?_⟩, fun u k c x rr j m1 hd runs free pick job fresh entryOk read headOk fits => ?_,
    fun u k c x sits runs => ⟨?_, ?_, ?_, ?_, ?_⟩, fun job stream k named => intakeBatchComplete_advances on named⟩
  · exact gives_act on (exec_pixel s) (ikStart_begins starts)
  · exact gives_act on (exec_tokens s) (ikStart_begins starts)
  · exact unitAssign_takes on runs free pick job fresh entryOk read headOk fits
  · exact fun coded shown first within stored rap => pictureBoundary_counts on runs sits rap coded shown first within stored
  · exact fun video exceeds miss rap => pictureBoundary_overClaims on runs sits miss rap video exceeds
  · exact fun video within stored rap => pictureBoundary_drops on runs sits rap video within stored
  · exact fun us j m1 src data timeless job read ends whole => sampleDecodeEnd_decodes on runs sits us timeless job read ends whole
  · exact fun us b budget late => lateEviction_evicts on runs sits budget late

end Sys2Proof.Machine
end

section
/-!
PROOFS. The queue of commands: every command answers a next state with the queue as it was, so that a step only takes the front command
away, and the statements O44, O46, O47 and O48. That every command answers in every state is the model's own choice (log entry 1).
-/

namespace Sys2Proof.Machine

/-! Meanings that answer (log entry 1) -/

/-- A meaning answers: in every state it leaves a next one that differs at most in the machine. -/
def Answers (f : State → Host.Outcome State Fault Refusal) : Prop := ∀ s : State, ∃ m : Mach, f s = .next { s with m := m }

/-- The module's answer, written out (as `State.act` gives it), leaves the queue. -/
theorem answers_of_act {s : State} {o : Host.Outcome State Fault Refusal} {m : Mach}
    (row : o = .next (if s.m.down then s else { s with m := m })) : ∃ m : Mach, o = .next { s with m := m } := by
  cases off : s.m.down with
  | true => exact ⟨s.m, by rw [row, if_pos off]⟩
  | false => exact ⟨m, by rw [row, if_neg (by simp [off])]⟩

/-- A list of meanings that all answer. -/
def AllAnswer (fs : List (State → Host.Outcome State Fault Refusal)) : Prop := ∀ f ∈ fs, Answers f

theorem allAnswer_nil : AllAnswer [] := fun _ h => nomatch h

theorem allAnswer_cons {f : State → Host.Outcome State Fault Refusal} {fs : List (State → Host.Outcome State Fault Refusal)}
    (first : Answers f) (rest : AllAnswer fs) : AllAnswer (f :: fs) := List.forall_mem_cons.mpr ⟨first, rest⟩

theorem allAnswer_ite {c : Prop} [Decidable c] {fs gs : List (State → Host.Outcome State Fault Refusal)} (yes : AllAnswer fs)
    (no : AllAnswer gs) : AllAnswer (if c then fs else gs) := by
  split
  · exact yes
  · exact no

theorem allAnswer_bitCmds_nil (v : Word) : AllAnswer (bitCmds v []) := allAnswer_nil

/-- A command that a bit of the written value runs, or not. -/
theorem allAnswer_bitCmds_cons {v : Word} {n : Nat} {f : State → Host.Outcome State Fault Refusal}
    {cmds : List (Nat × (State → Host.Outcome State Fault Refusal))} (first : Answers f) (rest : AllAnswer (bitCmds v cmds)) :
    AllAnswer (bitCmds v ((n, f) :: cmds)) := by
  simp only [bitCmds, List.filter_cons]
  split
  · exact allAnswer_cons first rest
  · exact rest

/-- One after the other, meanings that answer answer. -/
theorem runAll_answers : ∀ {fs : List (State → Host.Outcome State Fault Refusal)}, AllAnswer fs → Answers (runAll fs)
  | [], _ => fun s => ⟨s.m, rfl⟩
  | f :: fs, all => fun s => by
    obtain ⟨first, rest⟩ := List.forall_mem_cons.mp all
    obtain ⟨m, step⟩ := first s
    simp only [runAll, step]
    exact runAll_answers rest { s with m := m }

/-! What a register write runs (R458) -/

/-- RETRAIN draws the link's outcome first. -/
theorem retrainFree_answers (a : Agent) : Answers (retrainFree a) := fun s =>
  answers_of_act (s := { s with m := s.m.fresh.2 }) rfl

/-- TRANSFER reads its record first, and waits where the read does. -/
theorem transferAt_answers (a : Agent) (again : Instr) : Answers (transferAt a again) := by
  intro s
  simp only [transferAt]
  split
  · exact ⟨s.m, rfl⟩
  · split
    · exact ⟨_, rfl⟩
    · next m1 d _ =>
      split
      · exact answers_of_act (s := { s with m := m1 }) rfl
      · exact answers_of_act (s := { s with m := m1 }) rfl

theorem blockTriggers_answer (a : Agent) (again : Instr) (r : Nat) (v : Word) : AllAnswer (blockTriggers a again r v) := by
  simp only [blockTriggers]
  repeat' with_reducible first
    | apply allAnswer_nil | apply allAnswer_ite | apply allAnswer_cons | apply allAnswer_bitCmds_nil | apply allAnswer_bitCmds_cons
  all_goals first
    | exact retrainFree_answers a
    | exact transferAt_answers a again
    | exact fun s => answers_of_act rfl

theorem unitTriggers_answer (a : Agent) (r : Nat) (v : Word) : AllAnswer (unitTriggers a r v) := by
  simp only [unitTriggers]
  split
  all_goals repeat' with_reducible first
    | apply allAnswer_nil | apply allAnswer_ite | apply allAnswer_cons | apply allAnswer_bitCmds_nil | apply allAnswer_bitCmds_cons
  all_goals exact fun s => answers_of_act rfl

theorem triggers_answer (a : Agent) (again : Instr) (w : RegWrite) : AllAnswer (triggers a again w) := by
  simp only [triggers]
  split
  · exact unitTriggers_answer a w.reg w.val
  · exact blockTriggers_answer a again w.reg w.val

/-- A row that takes a register's value, if there is one, answers. -/
def RowAnswers (row : Option (State → Host.Outcome State Fault Refusal)) : Prop := ∀ f, row = some f → Answers f

theorem rowAnswers_none : RowAnswers none := fun _ h => nomatch h

theorem rowAnswers_some {f : State → Host.Outcome State Fault Refusal} (answers : Answers f) : RowAnswers (some f) := by
  rintro g ⟨⟩
  exact answers

theorem rowAnswers_ite {c : Prop} [Decidable c] {row other : Option (State → Host.Outcome State Fault Refusal)} (yes : RowAnswers row)
    (no : RowAnswers other) : RowAnswers (if c then row else other) := by
  split
  · exact yes
  · exact no

theorem rowFor_answers (m : Mach) (a : Agent) (w : RegWrite) : RowAnswers (m.rowFor a w) := by
  simp only [Mach.rowFor]
  repeat' with_reducible first | apply rowAnswers_none | apply rowAnswers_ite | apply rowAnswers_some | split
  all_goals exact fun s => answers_of_act rfl

/-- A register write answers, whatever its address and whatever it triggers. -/
theorem execRegisterWrite_answers (a : Agent) (addr : BitVec 52) (size : Nat) (v : Word) :
    Answers (execRegisterWrite a addr size v) := by
  intro s
  simp only [execRegisterWrite]
  split
  · exact ⟨s.m, rfl⟩
  split
  · exact answers_of_act rfl
  split
  · exact answers_of_act rfl
  · exact answers_of_act rfl
  · next row => exact rowFor_answers s.m a _ _ row s
  · split
    · exact answers_of_act rfl
    · exact runAll_answers (triggers_answer a _ _) s

/-! The statements -/

/-- Settles O44: a step is defined so. -/
theorem stepRunsFront : Obligations.StepRunsFront := fun _ _ _ => rfl

/-- Settles O46: a register write runs meanings that answer, and every other row is the module's answer. That every command answers in
every state is the model's own choice (log entry 1). -/
theorem everyCommandAnswers : Obligations.EveryCommandAnswers := by
  intro c s
  cases c
  case registerWrite a addr size v => exact execRegisterWrite_answers a addr size v s
  case underVoltage | overVoltage | overCurrent | powerOn | recoveryData | recoveryCommit | leverOpen | leverClose | sidebandStatus |
    logFlashWrite | ident => exact ⟨_, rfl⟩
  all_goals exact answers_of_act rfl

/-- Settles O47: the queue is empty after reset. -/
theorem queueOkAtReset : Obligations.QueueOkAtReset := by
  obtain ⟨empty, -⟩ := resetValues
  intro c h
  rw [empty] at h
  cases h

/-- A step on an empty queue leaves it empty. -/
theorem step_pending_empty {s t : State} (empty : s.pending = []) (next : step s = .next t) : t.pending = [] := by
  rw [step_empty empty, idle] at next
  have kept := act_pending _ t _ next
  split at kept
  · exact kept.trans empty
  · exact kept.trans ((goOn_pending s).trans empty)

/-- A step on another queue takes its front command away. -/
theorem step_pending_cons {s t : State} {c : Instr} {rest : List Instr} (queue : s.pending = c :: rest) (next : step s = .next t) :
    t.pending = rest := by
  obtain ⟨m, answer⟩ := everyCommandAnswers c { s with pending := rest }
  have runs : step s = exec c { s with pending := rest } := by rw [step, queue]
  rw [runs, answer] at next
  cases next
  rfl

/-- Settles O48: what waits after a step waited before it. -/
theorem queueOkKept : Obligations.QueueOkKept := by
  intro s t ok next c waits
  cases queue : s.pending with
  | nil =>
    rw [step_pending_empty queue next] at waits
    cases waits
  | cons front rest =>
    rw [step_pending_cons queue next] at waits
    exact ok c (queue ▸ List.mem_cons_of_mem front waits)

end Sys2Proof.Machine
end

section
/-!
PROOFS. The seaward fabric's lanes and ports: connectors and the probe, the capability message, flits, restriping, lane commands, retraining
and laser bays, and the statements O25 and O26 (R307 to R313, R316).
-/

namespace Sys2Proof.Machine

/-! Capability messages and flits (R307, R310, R311) -/

/-- Both ends of one reach at version 1: the port comes up on its active lanes. -/
theorem fabricCapability_up {m : Mach} {p lo hi reach : Nat} (seaward : m.ethPort p = false) (lit : m.lanesActive p ≠ 0) (low : lo ≤ 1)
    (high : 1 ≤ hi) (same : reach = m.fget Reg.SW_CFG_REACH_ID) (id key : Nat) :
    m.fabricCapability p lo hi id reach key =
      ((m.fset (Reg.SW_PEER_IDENTITY p) id).hearKey key).fabricUp p (m.lanesActive p) := by
  simp only [Mach.fabricCapability, seaward, lit, low, high, same, Bool.false_eq_true, or_self, and_self, if_true, if_false]

/-- A flit next in its sequence is taken and acknowledged; what the far end answers and the message come after. -/
def Mach.flitTaken (m : Mach) (p seq : Nat) (reply : Option (BitVec 12 × Bool)) : Mach :=
  ((m.setSw { m.sw with next := sset 0 p ((seq + 1) % 4096) m.sw.next }).emit (.fabric p [2, 0, seq] [])).flitReply p reply

section
variable {m : Mach} {p l : Nat} (runs : m.portOpen p = true) (own : l / 8 = p) (active : m.fget (Reg.SW_LANE_STATE l) = 2)
include runs own active

theorem fabricFlit_taken (msg : Option FabMsg) (reply : Option (BitVec 12 × Bool)) :
    m.fabricFlit p (sget 0 p m.sw.next) l true msg reply =
      msg.elim (m.flitTaken p (sget 0 p m.sw.next) reply) (m.flitTaken p (sget 0 p m.sw.next) reply).forward := by
  simp only [Mach.fabricFlit, runs, own, active, Mach.flitTaken, ne_eq, not_true, Bool.not_true, Bool.false_eq_true, or_self, if_false]
  cases msg <;> rfl

/-- One that fails its check is charged to its lane and asked for again. -/
theorem fabricFlit_refused (seq : Nat) (msg : Option FabMsg) (reply : Option (BitVec 12 × Bool)) :
    m.fabricFlit p seq l false msg reply = (m.laneEvent l).emit (.fabric p [2, 1, sget 0 p m.sw.next] []) := by
  simp only [Mach.fabricFlit, runs, own, active, ne_eq, not_true, Bool.not_true, Bool.not_false, Bool.false_eq_true, or_self, if_true,
    if_false]

end

/-! Retraining (R312) -/

section
variable {m : Mach} {l : Nat} (training : m.fget (Reg.SW_LANE_STATE l) = 1) (other : m.sw.restoring ≠ some l)
include training other

/-- A lane that no RESTORE asked for joins its port once it is trained. -/
theorem laneRetrained_joins {m1 : Mach}
    (joined : m1 = ((m.fset (Reg.SW_LANE_STATE l) 2).fset (Reg.SW_LANE_CAUSE l) 0).logE 0x0A 0 l noJob 0) :
    m.laneRetrained l true = m1.fset (Reg.SW_PORT_LANES (l / 8)) (m1.lanesActive (l / 8)) := by
  subst joined
  simp only [Mach.laneRetrained, training, other, ne_eq, not_true, decide_false, Bool.false_eq_true, if_true, if_false]

theorem laneRetrained_fails : m.laneRetrained l false = m.laneOut l 6 := by
  simp only [Mach.laneRetrained, training, other, ne_eq, not_true, decide_false, Bool.false_eq_true, if_false]

end

/-! The statements -/

/-- Settles O25: each row by its condition. -/
theorem eyeSafetyRowsComplete : Obligations.EyeSafetyRowsComplete := by
  intro s on
  refine ⟨fun c => ⟨gives_act on (exec_connectorUnplug s) rfl, gives_act on (exec_connectorPlug s) rfl⟩,
    fun l present => ⟨gives_act on (exec_lossOfLight s) (if_pos present), fun dark => ⟨?_, ?_, fun heard => ?_⟩⟩⟩
  · exact gives_act on (exec_probePulse s) (by simp only [dark, Bool.not_true, Bool.false_eq_true, if_true, if_false])
  · exact gives_act on (exec_probePulse s) (by simp only [dark, Bool.not_true, Bool.false_eq_true, if_false])
  · exact gives_act on (exec_laneRelight s) (if_pos ⟨dark, present, heard⟩)

/-- Settles O26: ports by the capability message and the flit, lanes by their state. A notice heard and STATUS of a RETIRE whose lane is
not active are log entry 38. -/
theorem laneRowsComplete : Obligations.LaneRowsComplete := by
  intro s a on
  refine ⟨fun p lo hi id reach key seaward lit low high same => ?_, fun p seq lane ok msg reply runs own active => ⟨?_, ?_, ?_⟩,
    fun p waits lit => ?_, fun source lost => ?_, fun l => ⟨fun may idle => ⟨?_, fun out => ?_, fun within => ?_⟩,
      fun training other => ⟨fun m1 joined => ?_, ?_⟩⟩, fun b => ?_⟩
  · exact gives_act on (exec_fabricCapability s) (fabricCapability_up seaward lit low high same _ _)
  · rintro rfl next rfl
    exact gives_act on (exec_fabricFlit s) (next ▸ fabricFlit_taken runs own active none reply)
  · rintro g rfl next rfl
    exact gives_act on (exec_fabricFlit s) (next ▸ fabricFlit_taken runs own active (some g) reply)
  · rintro rfl
    exact gives_act on (exec_fabricFlit s) (fabricFlit_refused runs own active _ msg reply)
  · refine gives_act on (exec_restripe s) ((if_neg (by simpa using waits)).trans ?_)
    exact congrArg Mach.txServe (if_neg lit)
  · exact gives_act on (exec_portDownNotice s) rfl
  · exact gives_owned on may (exec_laneRetire s) (if_neg (by simp [idle]))
  · exact gives_owned on may (exec_laneRestore s) ((if_neg (by simp [idle])).trans (if_neg (not_not.mpr out)))
  · exact gives_owned on may (exec_laneRestore s) ((if_neg (by simp [idle])).trans (if_pos within))
  · exact gives_act on (exec_laneRetrained s) (laneRetrained_joins training other joined)
  · exact gives_act on (exec_laneRetrained s) (laneRetrained_fails training other)
  · exact gives_act on (exec_laserBayFault s) rfl

end Sys2Proof.Machine
end

section
/-!
PROOFS. Membership, connection contexts and remote writes: a table taken, a context opened, closed and freed, a message in its turn, its
acknowledgement, and the statement O27 (R314, R317 to R320).
-/

namespace Sys2Proof.Machine

/-! Remote writes (R319, R320) -/

section
variable {m : Mach} {c : Nat} {x : SwCtx} (opened : m.ctx c = some x)
include opened

/-- The message next in its connection takes its number, then is written where it lies in the region and refused elsewhere; that a refused
one takes its number too is log entry 40. -/
theorem remoteWrite_inTurn {g : RwMsg} (serves : x.closing = false) (peer : x.peer = g.rank.toNat) (far : x.peerCtx = g.ctx.toNat)
    (turn : x.rxNext = g.num) :
    m.remoteWrite c g =
      if x.units * 65536 < g.off + g.data.length then (m.setCtx c (some { x with rxNext := x.rxNext + 1 })).rwRefuse g true
      else (m.setCtx c (some { x with rxNext := x.rxNext + 1 })).rwTake c x g := by
  simp only [Mach.remoteWrite, opened, serves, peer, far, turn, ne_eq, not_true, Nat.lt_irrefl, Bool.false_eq_true, or_self, if_false]

/-- An acknowledgement through a number that refuses none ends the sends through it. -/
theorem rwAck_ends (works : x.failed = false) (num : Nat) :
    m.rwAck c num none = (m.setCtx c (some { x with sends := x.sends.filter (fun k => decide (num < k.num)) })).sendsDone 0
      (x.sends.filter (fun k => decide (k.num ≤ num))) := by
  have through : (fun k : SwSend => decide (k.num < num) || (k.num == num && true)) = fun k => decide (k.num ≤ num) := by
    funext k
    rw [Bool.eq_iff_iff]
    simp [Nat.le_iff_lt_or_eq]
  simp only [Mach.rwAck, opened, works, Option.isNone_none, Option.isSome_none, Bool.and_false, List.filter_false, through, Mach.sendsDone,
    Bool.false_eq_true, if_false]

end

/-! Commands on contexts (R318) -/

/-- OPEN of an entry that passes its checks allocates the context they find. -/
theorem openCtx_opens {s : State} {a : Agent} {pa c : Nat} {v : SwCtx} {x1 : Mach} {d : List Word × Bool} (on : On s) (may : MayOwn s.m a)
    (idle : s.m.flag Reg.SW_CTX_STATUS_BUSY = false) (entry : pa = s.m.fget Reg.SW_CTX_ARG_ENTRY) (aligned : pa % 64 = 0)
    (tier : inStackOrShelf pa 64 = true) (read : s.m.hubWords 26 pa 8 = (x1, some d)) (passes : x1.openCheck d.1 d.2 = .ok (c, v)) :
    Gives (.openCtx a) s (((x1.setCtx c (some v)).fset Reg.SW_CTX_STATUS_CTX c).fset Reg.SW_CTX_STATUS_STATUS 0) := by
  subst entry
  refine gives_owned on may (exec_openCtx s) ?_
  simp only [idle, aligned, tier, read, passes, ne_eq, not_true, Bool.not_true, Bool.false_eq_true, or_self, if_false]

/-- Settles O27: commands by their checks, a message by its turn and its place in the region. That a refused write takes its number is log
entry 40. -/
theorem connectionRowsComplete : Obligations.ConnectionRowsComplete := by
  intro s a on
  refine ⟨fun may => ⟨fun rank size x1 x2 t written passes => ?_, fun idle => ⟨fun pa c v x1 d => openCtx_opens on may idle,
      fun ctx v opened serves => ?_⟩⟩, fun ctx x opened => ⟨fun closes ended => ?_, fun g serves peer far turn => ⟨fun inside => ?_,
      fun outside => ?_⟩, fun works => ⟨fun num => ?_, ?_, fun waits => ?_⟩⟩⟩
  · subst written
    exact gives_owned on may (exec_membershipLoad s) (by simp only [passes])
  · exact gives_owned on may (exec_closeCtx s) (by simp only [idle, opened, serves, Bool.false_eq_true, if_false])
  · exact gives_act on (exec_closeComplete s) (by simp only [Mach.ctxFree, opened, closes, ended, List.isEmpty_nil, and_self, if_true])
  · exact gives_act on (exec_remoteWrite s)
      ((remoteWrite_inTurn opened serves peer far turn).trans (if_neg (Nat.not_lt.mpr inside)))
  · exact gives_act on (exec_remoteWrite s) ((remoteWrite_inTurn opened serves peer far turn).trans (if_pos outside))
  · exact gives_act on (exec_remoteWriteAck s) (rwAck_ends opened works num)
  · exact gives_act on (exec_resendTimeout s) (by simp only [opened, works, Bool.false_eq_true, if_false])
  · exact gives_act on (exec_connectionFailure s) (by simp [opened, works, waits])

end Sys2Proof.Machine
end

section
/-!
PROOFS. One nanosecond (R256, R323): what leaves in a slot, a hart's timer interrupt and an engine's counters move neither the local
counter nor a register beyond the Reef dies' windows, the Tide count moves by none, one or two, and the statement O59 (log entry 4).
-/

namespace Sys2Proof.Machine

/-! What leaves the clocks and the registers beyond the Reef dies' windows (R4, R15) -/

/-- From one machine to the next the local counter stands, and every register beyond the Reef dies' windows. -/
def Timeless (m m' : Mach) : Prop := m'.ns = m.ns ∧ ∀ r : Nat, 0xF00010000000 ≤ r → m'.rget r = m.rget r

theorem Timeless.refl (m : Mach) : Timeless m m := ⟨rfl, fun _ _ => rfl⟩

theorem Timeless.trans {m m' m'' : Mach} (first : Timeless m m') (second : Timeless m' m'') : Timeless m m'' :=
  ⟨second.1.trans first.1, fun r beyond => (second.2 r beyond).trans (first.2 r beyond)⟩

theorem timeless_of_regs {m m' : Mach} (ns : m'.ns = m.ns) (regs : m'.regs = m.regs) : Timeless m m' :=
  ⟨ns, fun r _ => by simp only [Mach.rget, regs]⟩

theorem timeless_fset {m : Mach} {f : Fld} (within : f.reg < 0xF00010000000) (x : Nat) : Timeless m (m.fset f x) :=
  ⟨rfl, fun _ beyond => rget_fset_ne m f x _ (by omega)⟩

theorem timeless_fadd {m : Mach} {f : Fld} (within : f.reg < 0xF00010000000) (x : Nat) : Timeless m (m.fadd f x) :=
  timeless_fset within _

theorem timeless_foldl {α : Type} {f : Mach → α → Mach} : ∀ {l : List α}, (∀ m, ∀ x ∈ l, Timeless m (f m x)) →
    ∀ m : Mach, Timeless m (l.foldl f m)
  | [], _, m => .refl m
  | x :: _, step, m => (step m x List.mem_cons_self).trans
      (timeless_foldl (fun m' y h => step m' y (List.mem_cons_of_mem x h)) (f m x))

/-! What leaves in a slot (R334, R335) -/

theorem fabSend_timeless (m : Mach) (p : Nat) (words : List Nat) (data : List Byte) : Timeless m (m.fabSend p words data) :=
  timeless_of_regs rfl rfl

theorem txPass_timeless (opened : Bool) (k : Nat) : ∀ (queue kept : List TxMsg) (m : Mach), Timeless m (Mach.txPass opened k queue kept m)
  | [], _, _ => timeless_of_regs rfl rfl
  | e :: rest, kept, m => by
    simp only [Mach.txPass]
    split
    · exact txPass_timeless opened k rest kept m
    next p _ =>
      split
      · have noted (used : List (Nat × Nat)) : Timeless m (m.setSw { m.sw with used := used }) := timeless_of_regs rfl rfl
        split
        · exact ((noted _).trans (fabSend_timeless _ p e.words e.data)).trans (txPass_timeless opened k rest _ _)
        · exact (noted _).trans (txPass_timeless opened k rest _ _)
      · exact txPass_timeless opened k rest _ m

theorem txFlush_timeless (m : Mach) : Timeless m m.txFlush := by
  have emptied : Timeless m (m.setSw { m.sw with queue := [] }) := timeless_of_regs rfl rfl
  refine emptied.trans (timeless_foldl (fun a e _ => ?_) _)
  split
  · split
    · exact timeless_of_regs rfl rfl
    · exact fabSend_timeless _ _ _ _
  · exact .refl a

theorem txServe_timeless (m : Mach) : Timeless m m.txServe := by
  simp only [Mach.txServe]
  split
  · split
    · exact .refl m
    · exact txFlush_timeless m
  · exact (txPass_timeless false _ _ _ m).trans (txPass_timeless true _ _ _ _)

theorem slotTick_timeless (m : Mach) : Timeless m m.slotTick := by
  simp only [Mach.slotTick]
  split
  · split
    · exact txServe_timeless m
    · exact .refl m
  · exact .refl m

/-! Harts and engines (R78, R101, R256) -/

theorem hartIrq_timeless (m : Mach) (h : Nat) : Timeless m (m.hartIrq h) := by
  simp only [Mach.hartIrq]
  split
  next c _ =>
    obtain ⟨csrs, pc, priv, framed⟩ := hartTrap_frame m h true c 0
    rw [framed]
    exact timeless_of_regs rfl rfl
  · exact .refl m

theorem hartTick_timeless (m : Mach) : Timeless m m.hartTick :=
  timeless_foldl (fun a h _ => by
    split
    · exact hartIrq_timeless a h
    · exact .refl a) m

/-- A register at an offset of a core's block lies within its Reef die's window. -/
theorem core_register_within {d k base : Nat} (die : d < 4) (core : k < 48) (offset : base < 0xF00001100000) :
    base + d * 0x4000000 + k * 0x100000 < 0xF00010000000 := by omega

theorem engineTick_timeless (m : Mach) {c : Cmd} (reef : c.tgt < 192) : Timeless m (m.engineTick c) := by
  have die : c.tgt / 48 < 4 := by omega
  have core : c.tgt % 48 < 48 := Nat.mod_lt _ (by decide)
  have within (base : Nat) (offset : base < 0xF00001100000) := core_register_within die core offset
  have drawn : Timeless m m.fresh.2 := timeless_of_regs rfl rfl
  simp only [Mach.engineTick]
  split
  · exact (((drawn.trans (timeless_fadd (within 0xF00001030010 (by decide)) _)).trans
      (timeless_fadd (within 0xF00001030018 (by decide)) _)).trans (timeless_fset (within 0xF00001030000 (by decide)) _)).trans
      (timeless_fset (within 0xF00001030000 (by decide)) _)
  · split
    · exact (drawn.trans (timeless_fadd (within 0xF00001030048 (by decide)) _)).trans
        (timeless_fadd (within 0xF00001030050 (by decide)) _)
    · exact ((drawn.trans (timeless_fadd (within 0xF00001040010 (by decide)) _)).trans
        (timeless_fadd (within 0xF00001040018 (by decide)) _)).trans (timeless_fset (within 0xF00001040000 (by decide)) _)

theorem cycleTick_timeless (m : Mach) : Timeless m m.cycleTick :=
  timeless_foldl (fun a c listed => engineTick_timeless a (by
    simp only [List.mem_filter, Bool.and_eq_true, decide_eq_true_eq] at listed
    obtain ⟨-, ⟨⟨-, reef⟩, -⟩, -⟩ := listed
    exact reef)) m

/-- Beyond the Tide count a nanosecond moves neither counter. -/
theorem tick_timeless (m : Mach) : Timeless ({ m with ns := m.ns + 1 } : Mach).tideTick m.tick :=
  ((slotTick_timeless _).trans (hartTick_timeless _)).trans (cycleTick_timeless _)

/-! The Tide count (R321 to R323, R339) -/

/-- The count moves by one and a turn of at most one either way. -/
def Mach.tideTurn (m : Mach) : Int :=
  if 1000000 ≤ m.td.frac + m.slewStep then 1 else if m.td.frac + m.slewStep ≤ -1000000 then -1 else 0

theorem tideTurn_bounds (m : Mach) : -1 ≤ m.tideTurn ∧ m.tideTurn ≤ 1 := by
  unfold Mach.tideTurn
  split
  · decide
  · split <;> decide

theorem tideTick_ns (m : Mach) : m.tideTick.ns = m.ns := by
  simp only [Mach.tideTick]
  repeat' split
  all_goals rfl

theorem tideTick_unset {m : Mach} (unset : m.tideUnset = true) : m.tideTick = m := if_pos unset

/-- Standing still it moves at most its own flag. -/
theorem tideTick_still {m : Mach} (still : m.flag Reg.TD_STATE_STILL = true) (r : Nat) (state : r ≠ Reg.TD_STATE) :
    m.tideTick.rget r = m.rget r := by
  simp only [Mach.tideTick, still, if_true]
  split
  · rfl
  · split
    · exact rget_fset_ne _ Reg.TD_STATE_STILL _ _ state
    · rfl

/-- Otherwise it moves as its turn makes it. -/
theorem tideTick_runs {m : Mach} (set : m.tideUnset = false) (runs : m.flag Reg.TD_STATE_STILL = false) :
    ∃ td, m.tideTick = (({ m with td := td } : Mach).rset Reg.TD_NOW (m.rget Reg.TD_NOW + BitVec.ofInt 64 (1 + m.tideTurn))) := by
  simp only [Mach.tideTick, set, runs, Bool.false_eq_true, if_false]
  exact ⟨_, rfl⟩

theorem tideTick_rget (m : Mach) (r : Nat) (now : r ≠ Reg.TD_NOW) (state : r ≠ Reg.TD_STATE) : m.tideTick.rget r = m.rget r := by
  cases set : m.tideUnset with
  | true => rw [tideTick_unset set]
  | false =>
    cases runs : m.flag Reg.TD_STATE_STILL with
    | true => exact tideTick_still runs r state
    | false =>
      obtain ⟨td, moved⟩ := tideTick_runs set runs
      rw [moved]
      exact rget_rset_ne _ _ _ _ now

/-- A count moved by none, one or two, short of its wrap. -/
theorem toNat_add_turn (v : Word) {turn : Int} (low : -1 ≤ turn) (high : turn ≤ 1) (room : v.toNat + 2 < 2 ^ 64) :
    v.toNat ≤ (v + BitVec.ofInt 64 (1 + turn)).toNat ∧ (v + BitVec.ofInt 64 (1 + turn)).toNat ≤ v.toNat + 2 := by
  obtain ⟨n, count⟩ := Int.eq_ofNat_of_zero_le (show 0 ≤ 1 + turn by omega)
  have small : n ≤ 2 := by omega
  rw [count, BitVec.ofInt_natCast, BitVec.toNat_add, BitVec.toNat_ofNat]
  omega

theorem tideTick_forward (m : Mach) (room : (m.rget Reg.TD_NOW).toNat + 2 < 2 ^ 64) :
    (m.rget Reg.TD_NOW).toNat ≤ (m.tideTick.rget Reg.TD_NOW).toNat ∧
      (m.tideTick.rget Reg.TD_NOW).toNat ≤ (m.rget Reg.TD_NOW).toNat + 2 := by
  have stands (same : m.tideTick.rget Reg.TD_NOW = m.rget Reg.TD_NOW) :
      (m.rget Reg.TD_NOW).toNat ≤ (m.tideTick.rget Reg.TD_NOW).toNat ∧
        (m.tideTick.rget Reg.TD_NOW).toNat ≤ (m.rget Reg.TD_NOW).toNat + 2 := by
    rw [same]
    exact ⟨le_refl _, Nat.le_add_right _ _⟩
  cases set : m.tideUnset with
  | true => exact stands (by rw [tideTick_unset set])
  | false =>
    cases runs : m.flag Reg.TD_STATE_STILL with
    | true => exact stands (tideTick_still runs _ (by decide))
    | false =>
      obtain ⟨td, moved⟩ := tideTick_runs set runs
      rw [moved, rget_rset]
      exact toNat_add_turn _ (tideTurn_bounds m).1 (tideTurn_bounds m).2 room

/-- Settles O59: the Tide count by its turn, and everything else of a nanosecond leaves it and the registers. That a tick is one nanosecond
of the local counter is log entry 4, the model's own choice. -/
theorem tideForward : Obligations.TideForward := by
  intro m
  obtain ⟨ns, regs⟩ := tick_timeless m
  have now : m.tick.rget Reg.TD_NOW = ({ m with ns := m.ns + 1 } : Mach).tideTick.rget Reg.TD_NOW := regs _ (by decide)
  refine ⟨ns.trans (tideTick_ns _), fun unset => ?_, fun still => ?_, fun room => ?_, fun r beyond other state => ?_⟩
  · rw [now, tideTick_unset (m := { m with ns := m.ns + 1 }) unset]
    rfl
  · exact now.trans (tideTick_still (m := { m with ns := m.ns + 1 }) still Reg.TD_NOW (by decide))
  · rw [now]
    exact tideTick_forward { m with ns := m.ns + 1 } room
  · exact (regs r beyond).trans (tideTick_rget _ r other state)

end Sys2Proof.Machine
end

section
/-!
PROOFS. The Tide's master and slots, and Ethernet: time messages, the election, announcements, holdover, rejoining, lane schedules and
slots, descriptors, frames and PTP, and the statements O28, O29 and O30 (R321, R324 to R339).
-/

namespace Sys2Proof.Machine

/-! The master and its followers (R321, R325 to R331) -/

section
variable {s : State} (on : On s)
include on

/-- A port's exchange steers the module where the port is its upstream one and the count does not stand still. -/
theorem timeMessage_steers {p : Fin 8} {hops : BitVec 6} {m : Mach} (up : s.m.portUp p.val = true)
    (heard : m = s.m.timeHeard p.val hops.toNat) (offsetPs : Int) : Gives (.timeMessage p offsetPs hops) s
      (if m.fget Reg.TD_STATE_STATE = 1 ∧ m.fget Reg.TD_STATE_UPSTREAM = p.val ∧ (!m.flag Reg.TD_STATE_STILL) = true then
        m.setTd { m.td with slew := offsetPs * 1000 } else m) := by
  subst heard
  exact gives_act on (exec_timeMessage s) (if_neg (by simp [up]))

/-- The lowest-keyed candidate that heard no master becomes it, its count at its local counter where PTP_START is not set. -/
theorem electWaitExpiry_elects (unset : s.m.tideUnset = true) (lowest : s.m.lowest none = true)
    (local_ : s.m.flag Reg.TD_CFG_PTP_START = false) :
    Gives .electWaitExpiry s ((s.m.rset Reg.TD_NOW (BitVec.ofNat 64 s.m.ns)).beMaster 1) := by
  refine gives_act on (exec_electWaitExpiry s) ((if_neg (by simp [unset, lowest])).trans ?_)
  cases s.m.td.site with
  | none => rfl
  | some d => simp only [local_, Bool.false_eq_true, false_and, if_false]

/-- REJOIN of the reach's own master follows the master of the first foreign port. -/
theorem rejoin_follows {a : Agent} {p : Nat} {h : TdHeard} (reach : Agent.reaches a Reg.TD_CTRL = true) (closed : s.m.sw.ctxs = [])
    (master : s.m.fget Reg.TD_STATE_STATE = 2)
    (foreign : (List.range 8).find? (fun p =>
      s.m.portUp p && s.m.flag (Reg.SW_PORT_FOREIGN p) && (sget none p s.m.td.heard).isSome) = some p)
    (heard : sget none p s.m.td.heard = some h) : Gives (.rejoin a) s
      (((s.m.fset Reg.TD_CTRL_STATUS_STATUS 0).fset Reg.TD_STATE_STATE 1).takeMaster p h 0) :=
  gives_byAgent on reach (exec_rejoin s) (by simp [closed, master, foreign, heard])

end

/-! Ethernet (R336, R337) -/

/-- A descriptor between head and tail is sent. -/
theorem ethSent_sends {m : Mach} {e pa phase : Nat} (runs : m.ethRuns e = true)
    (more : m.fget (Reg.SW_ETH_TX_HEAD e) ≠ m.fget (Reg.SW_ETH_TX_TAIL e))
    (slot : m.ethSlot (Reg.SW_ETH_TXQ_LOG2 e) (Reg.SW_ETH_TXQ_BASE e) (m.fget (Reg.SW_ETH_TX_HEAD e)) = some (pa, phase)) :
    m.ethSent e = m.ethSend e (m.fget (Reg.SW_ETH_TX_HEAD e)) pa phase := by
  simp only [Mach.ethSent, runs, more, slot, Bool.not_true, Bool.false_eq_true, or_self, if_false]

/-- A frame that passes takes the next receive descriptor, where none before it is held and one is free. -/
theorem ethReceive_takes {m : Mach} {e pa phase : Nat} {f : EthFrame} (runs : m.ethRuns e = true) (least : 60 ≤ f.data.length)
    (most : f.data.length ≤ 9212) (plain : m.flag Reg.SW_CFG_PTP_EN = false) (sound : f.fcsOk = true)
    (accepted : m.ethAccepts e f.dst.toNat = true) (free : m.ethHolds e = false)
    (room : m.fget (Reg.SW_ETH_RX_HEAD e) ≠ m.fget (Reg.SW_ETH_RX_TAIL e))
    (slot : m.ethSlot (Reg.SW_ETH_RXQ_LOG2 e) (Reg.SW_ETH_RXQ_BASE e) (m.fget (Reg.SW_ETH_RX_HEAD e)) = some (pa, phase)) :
    m.ethReceive e f = m.ethTake e (m.fget (Reg.SW_ETH_RX_HEAD e)) pa phase f := by
  have placed : m.ethReceive e f = m.ethPlace e f := by
    simp only [Mach.ethReceive, runs, sound, plain, accepted, free, Nat.not_lt.mpr least, Nat.not_lt.mpr most, Bool.not_true,
      Bool.false_eq_true, or_self, false_and, if_false]
  rw [placed]
  simp only [Mach.ethPlace, room, slot, if_false]

/-! The statements -/

/-- Settles O28: each row by the state of TD_STATE, the candidates and what was heard. The slewing and a REJOIN with no foreign master are
log entry 41. -/
theorem tideMasterRowsComplete : Obligations.TideMasterRowsComplete := by
  intro s a on
  refine ⟨fun p offsetPs hops m up heard => ⟨fun follows upstream runs => ?_, fun other => ?_⟩, fun reach => ?_, fun k => ?_,
    fun k own => ?_, electWaitExpiry_elects on, fun master => ?_, fun p an h up unset shown => ?_, fun follows => ⟨fun lowest => ?_,
      fun higher => ?_⟩, fun holds => ?_, fun reach => ⟨fun opened => ?_, fun p h => rejoin_follows on reach⟩⟩
  · have steers := timeMessage_steers on up heard offsetPs
    rwa [if_pos ⟨follows, upstream, by simp [runs]⟩] at steers
  · have stands := timeMessage_steers on up heard offsetPs
    rwa [if_neg (fun steers => other steers.2.1)] at stands
  · exact gives_byAgent on reach (exec_snap s) rfl
  · exact gives_act on (exec_keyFlood s) rfl
  · exact gives_act on (exec_keyFlood s) (by simp only [own])
  · exact gives_act on (exec_announcement s) (if_neg (not_not.mpr master))
  · subst shown
    exact gives_act on (exec_announcementReceive s)
      ((if_neg (by simp [up])).trans (if_pos (Or.inl unset)))
  · exact gives_act on (exec_lossTimeout s) ((if_neg (not_not.mpr follows)).trans (if_pos lowest))
  · exact gives_act on (exec_lossTimeout s) ((if_neg (not_not.mpr follows)).trans (if_neg (by simp [higher])))
  · exact gives_act on (exec_holdoverLimitExpiry s) (if_neg (not_not.mpr holds))
  · exact gives_byAgent on reach (exec_rejoin s) (if_pos (by simpa using opened))

/-- Settles O29: a table by its checks, the copy and the slot by the Tide count. -/
theorem tideSlotRowsComplete : Obligations.TideSlotRowsComplete := by
  intro s a on
  refine ⟨fun nslots ws m reach some_ most tier read sound => ?_, fun k now => ⟨fun c copy origin => ?_, ?_⟩, fun unheld => ?_⟩
  · have count : ¬ (nslots.toNat = 0 ∨ 1024 < nslots.toNat) := by omega
    exact gives_byAgent on reach (exec_scheduleLoad s)
      (by simp only [count, tier, read, sound, Bool.not_true, Bool.false_eq_true, if_false])
  · exact gives_act on (exec_scheduleActivate s) (by simp only [copy, now, origin, if_true])
  · exact gives_act on (exec_tideSlotStart s) (by simp only [now]; rfl)
  · exact gives_act on (exec_tideSlotStart s) (by simp only [unheld]; rfl)

/-- Settles O30: descriptors by what lies between head and tail, frames by the checks of their arrival. -/
theorem ethernetRowsComplete : Obligations.EthernetRowsComplete := by
  intro s a e on
  refine ⟨fun tail reach => gives_byAgent on reach (exec_ethTxDoorbell s) rfl, fun pa phase runs => ⟨fun more slot => ?_,
      fun f least most plain sound accepted free room slot => ?_⟩, fun siteTime ethernet ptp port master => ?_,
    fun ethernet started => ?_, ?_⟩
  · exact gives_act on (exec_frameTransmitted s) (ethSent_sends runs more slot)
  · exact gives_act on (exec_frameReceived s) (ethReceive_takes runs least most plain sound accepted free room slot)
  · refine gives_act on (exec_ptpMessage s) ((if_neg (by simp [ethernet, ptp, port])).trans ((if_pos master).trans ?_))
    rfl
  · exact gives_act on (exec_ethernetLinkChange s) (if_neg (by simp [ethernet, started]))
  · exact gives_act on (exec_ethernetLinkChange s) (if_neg (by simp))

end Sys2Proof.Machine
end

section
/-!
PROOFS. Collectives: how a command begins once its checks pass, what a PUT and a COMMIT leave, how a message is taken, and the statement O31
(R319, R344 to R360).
-/

namespace Sys2Proof.Machine

/-! Commands that begin (R344 to R348, R354) -/

/-- A command that reaches its turn and passes its checks goes on to the part of its operation. -/
theorem clStart_ready {m0 m : Mach} {op : Nat} {c : Cmd} {j : Job} {map : List Byte} (ready : clReady m0 op c j m map) :
    m0.clStart op =
      if op = 6 then m.clPutStart c j else if op = 7 then m.clCommitStart c j else m.clGroupStart c j map := by
  obtain ⟨awake, up, free, next, kind, job, body, m1, m2, read, modes, sizes, sources, dests, apart, now, taken⟩ := ready
  subst kind
  simp only [Mach.clStart, awake, up, free, next, job, body, read, modes, sizes, sources, dests, apart, now, taken, ne_eq, not_true,
    Bool.false_eq_true, or_self, false_and, if_false]

/-- Its group, contexts and sources pass: it begins. -/
theorem clGroupStart_joined {m0 m : Mach} {c : Cmd} {j : Job} {g : Group} {srcs : List (List Byte)} {resid : List Byte}
    (joined : clJoined m0 c j m g srcs resid) (map : List Byte) : m0.clGroupStart c j map = m.clBegin c j g srcs map resid := by
  obtain ⟨m1, m2, m3, hb, eb, g0, header, head, entries, group, fits, contexts, sources, residual⟩ := joined
  simp only [Mach.clGroupStart, header, head, entries, group, fits, contexts, sources, residual, if_false]

/-- So does a command of an operation that groups, in its turn. -/
theorem clStart_begins {m0 m1 m : Mach} {op : Nat} {c : Cmd} {j : Job} {map resid : List Byte} {g : Group} {srcs : List (List Byte)}
    (joined : clJoined m1 c j m g srcs resid) (ready : clReady m0 op c j m1 map) (groups : op ≤ 5) :
    m0.clStart op = m.clBegin c j g srcs map resid := by
  rw [clStart_ready ready, if_neg (by omega), if_neg (by omega), clGroupStart_joined joined]

/-- A PUT over a context of its job that no collective uses is sent. -/
theorem clPutStart_sends {m1 m : Mach} {c : Cmd} {j : Job} {bs : List Byte} {v : SwCtx} (opened : m1.ctx (c.bf 11 12 14) = some v)
    (serves : v.closing = false) (own : v.job = c.job) (unused : m1.cl.runs.any (fun r => r.ctxs.contains (c.bf 11 12 14)) = false)
    (read : m1.clRead j c.job (c.clSrc 0) c.clCount = (m, .ok bs)) : m1.clPutStart c j = m.clPutSend c bs := by
  simp only [Mach.clPutStart, opened, serves, own, unused, read, ne_eq, not_true, Bool.false_eq_true, or_self, if_false]

/-- A COMMIT whose pending residual is read and written is over. -/
theorem clCommitStart_commits {m1 m2 m : Mach} {c : Cmd} {j : Job} {bs : List Byte}
    (read : m1.clRead j c.job c.clPend (c.clCount * 4) = (m2, .ok bs)) (write : m2.clWrite j c.job c.id c.clResid bs = (m, .ok ())) :
    m1.clCommitStart c j = ((m.run c).clCount).clOver c.id := by
  simp only [Mach.clCommitStart, read, write]

/-! Messages (R355 to R358) -/

section
variable {m : Mach} {g : ClMsg} {x : SwCtx} (opened : m.ctx g.ctx = some x) (serves : x.closing = false) (fits : g.fits = true)
include opened serves fits

/-- One that is to be discarded is recorded and logged, and not acknowledged. -/
theorem clMessage_discards (refused : m.clRefuses g = true) :
    m.clMessage g = (m.headerRecord x.job g.step (bits g.w0 32 1 == 1) g.cseq g.pos g.alg).clDiscard g x.job := by
  simp only [Mach.clMessage, opened, serves, fits, refused, Bool.not_true, Bool.false_eq_true, if_true, if_false]

/-- Another is acknowledged, recorded and delivered. -/
theorem clMessage_delivers (kept : m.clRefuses g = false) :
    m.clMessage g = ((((m.setCtx g.ctx (some { x with rxNext := x.rxNext + 1 })).sendTo x.peer
      [6, x.peer, x.peerCtx, x.rxNext] []).headerRecord x.job g.step (bits g.w0 32 1 == 1) g.cseq g.pos g.alg).clDeliver g x.job) := by
  simp only [Mach.clMessage, opened, serves, fits, kept, Bool.not_true, Bool.false_eq_true, if_false]

end

section
variable {m : Mach} {jn : Nat} {r : ClRun} {c : Cmd} (round : m.clRound jn = some r) (runs : m.cmdOf r.id = some c)
  (goes : c.status = none) (pos : Nat) (nf : Bool)
include round runs goes

/-- The decision comes down to a member in its flag round. -/
theorem flagMessage_down : m.flagMessage jn pos true nf =
    (m.headerRecord jn (c.step % 2 ^ 32) nf (r.cseq % 2 ^ 32) pos c.clAlg).flagDown c r nf := by
  simp only [Mach.flagMessage, round, runs, goes, Option.isSome_none, Bool.false_eq_true, if_true, if_false]

/-- A child's bit waits for its siblings'. -/
theorem flagMessage_up : m.flagMessage jn pos false nf =
    ((m.headerRecord jn (c.step % 2 ^ 32) nf (r.cseq % 2 ^ 32) pos c.clAlg).clStore { r with ups := (pos, nf) :: r.ups }).flagUp c
      { r with ups := (pos, nf) :: r.ups } := by
  simp only [Mach.flagMessage, round, runs, goes, Option.isSome_none, Bool.false_eq_true, if_false]

end

/-- Settles O31: commands by their checks, messages by their context and their number, the flag round by the run in it. Discarded messages and
elements that are only moved are log entry 43, PUT and COMMIT log entry 44. -/
theorem collectiveRowsComplete : Obligations.CollectiveRowsComplete := by
  intro s on
  refine ⟨fun c j m1 m map resid g srcs joined => ⟨?_, ?_, ?_, ?_, ?_⟩, fun c j m1 m map bs v ready opened serves own unused read => ?_,
    fun c j m1 m2 m map bs ready read write => ?_, fun ctx w0 w1 data x opened serves version low high => ?_,
    fun job r => ⟨fun due => ?_, fun pos nf c round runs goes => ⟨?_, ?_⟩⟩⟩
  · exact fun ready => gives_act on (exec_allreduce s) (clStart_begins joined ready (by decide))
  · exact fun ready => gives_act on (exec_reducescatter s) (clStart_begins joined ready (by decide))
  · exact fun ready => gives_act on (exec_allgather s) (clStart_begins joined ready (by decide))
  · exact fun ready => gives_act on (exec_alltoall s) (clStart_begins joined ready (by decide))
  · exact fun ready => gives_act on (exec_broadcast s) (clStart_begins joined ready (by decide))
  · exact gives_act on (exec_put s) ((clStart_ready ready).trans (clPutStart_sends opened serves own unused read))
  · exact gives_act on (exec_commit s) ((clStart_ready ready).trans (clCommitStart_commits read write))
  · have fits : ClMsg.fits ⟨ctx.toNat, w0, w1, data⟩ = true := by simp [ClMsg.fits, version, low, high]
    exact ⟨fun refused => gives_act on (exec_collectiveMessage s) (clMessage_discards opened serves fits refused),
      fun kept => gives_act on (exec_collectiveMessage s) (clMessage_delivers opened serves fits kept)⟩
  · exact gives_act on (exec_flagRoundStart s) (by simp only [due])
  · exact gives_act on (exec_flagRoundMessage s) (flagMessage_down round runs goes _ nf)
  · exact gives_act on (exec_flagRoundMessage s) (flagMessage_up round runs goes _ nf)

end Sys2Proof.Machine
end

section
/-!
PROOFS. Device firmware: a component's faults, an image that is admitted, the end of a load or a reload, interface versions, and the
statement O32 (R361, R362, R365 to R368).
-/

namespace Sys2Proof.Machine

/-! Components (R361, R362) -/

/-- Faults of a component in the last 60 s. -/
def Mach.recentFaults (m : Mach) (c : Nat) : List Nat :=
  (sget [] c m.fw.faults).filter (fun t => decide (m.ns ≤ t + 60000000000))

/-- A fault counted and logged, the component's work in hand dropped. -/
def Mach.faultCounted (m : Mach) (c : Nat) : Mach :=
  (((m.setFw { m.fw with faults := sset [] c ((m.ns :: m.recentFaults c).take 3) m.fw.faults }).fadd (Reg.HB_FW_FAULT_RESTARTS c) 1).logE
    0x0F 0x0F01 (c % 256) noJob c).dropWork c

section
variable {m : Mach} {c : Nat} (serves : m.compHeld c = false) (up : m.compDown c = false)
include serves up

/-- A first or second fault within 60 s restarts the component. -/
theorem compFault_restarts (few : (m.recentFaults c).length < 2) :
    m.compFault c = (m.faultCounted c).setFw { (m.faultCounted c).fw with down := c :: (m.faultCounted c).fw.down } := by
  simp only [Mach.compFault, serves, up, Bool.false_eq_true, or_self, if_false]
  exact if_neg (Nat.not_le.mpr few)

/-- A third holds it. -/
theorem compFault_holds (many : 2 ≤ (m.recentFaults c).length) :
    m.compFault c = (((m.faultCounted c).fset (Reg.HB_FW_FAULT_HELD c) 1).logE 0x0F 0x0F01 (c % 256) noJob c).alert
      Reg.LH_ALERT_HELD := by
  simp only [Mach.compFault, serves, up, Bool.false_eq_true, or_self, if_false]
  exact if_pos many

end

/-! Images (R365 to R367) -/

/-- An image that is copied whole and passes every check is to be loaded: at once, or in a reload once its jobs stand. -/
theorem fwBegin_admits {m m1 : Mach} {reload override : Bool} {t : Nat} {bs : List Byte} {op : FwOp} (i : Instr)
    (known : t ≤ 4) (idle : m.flag Reg.HB_FW_STATUS_BUSY = false) (now : m.fwState reload t override = none)
    (copied : m.fwCopy (m.fget Reg.HB_FW_ARG_ADDR) (m.fget Reg.HB_FW_LEN_LEN) = (m1, some (bs, false)))
    (passes : m1.fwImage reload t override bs = .ok op) :
    m.fwBegin i reload t override =
      if reload then ((((m1.setFw { m1.fw with op := some op }).fset Reg.HB_FW_STATUS_BUSY 1).fset Reg.HB_FW_STATUS_PHASE 3).holdIdle
        (2 + t) (fun j => j.usesDie t)).tryActions
      else ((m1.setFw { m1.fw with op := some op }).fset Reg.HB_FW_STATUS_BUSY 1).fset Reg.HB_FW_STATUS_PHASE 4 := by
  simp only [Mach.fwBegin, idle, Nat.not_lt.mpr known, now, copied, passes, Bool.false_eq_true, if_false]
  cases reload <;> simp only [Bool.false_eq_true, if_true, if_false]

/-- Settles O32: a fault by those of the last 60 s, an image by its checks, an operation by its phase. -/
theorem firmwareRowsComplete : Obligations.FirmwareRowsComplete := by
  intro s a on
  refine ⟨fun c m2 serves up counted => ⟨fun few => ?_, fun many => ?_⟩, fun c => gives_act on (exec_componentRestart s) rfl,
    fun t override m1 bs op may known idle copied => ⟨fun now passes => ?_, fun now passes => ?_⟩, fun o runs loads => ?_,
    fun o waits limit => ?_, fun sel reach low high => ?_⟩
  · subst counted
    have restarts := compFault_restarts serves up few
    exact ⟨gives_act on (exec_componentFault s) restarts, gives_act on (exec_heartbeatTimeout s) restarts⟩
  · subst counted
    have holds := compFault_holds serves up many
    exact ⟨gives_act on (exec_componentFault s) holds, gives_act on (exec_heartbeatTimeout s) holds⟩
  · exact gives_owned on may (exec_firmwareLoad s) ((fwBegin_admits _ known idle now copied passes).trans (if_neg (by decide)))
  · exact gives_owned on may (exec_reload s) ((fwBegin_admits _ known idle now copied passes).trans (if_pos rfl))
  · exact gives_act on (exec_firmwareLoaded s) (by simp only [runs, loads, ne_eq, not_true, if_false])
  · exact gives_act on (exec_reloadQlimitExpiry s) (by simp only [waits, limit, if_false])
  · exact gives_byAgent on reach (exec_interfaceSelect s) (if_neg (by omega))

end Sys2Proof.Machine
end

section
/-!
PROOFS. Tidemarks: plans and requests, the risk score, capture, offers and seals, shards held for other modules, restores and releases, and
the statements O33 and O34 (R371, R374 to R385, R387).
-/

namespace Sys2Proof.Machine

/-! Plans and requests (R374 to R376) -/

section
variable {s : State} {a : Agent} {job : Fin 64} (on : On s)
include on

/-- ARM of a plan that passes, while no Tidemark of the job is in progress. -/
theorem tidemarkArm_arms {j : Job} {m1 : Mach} {p : TmPlan} (reach : Agent.reaches a (Reg.HB_TM_CTRL job.val) = true)
    (live : s.m.job? job.val = some j) (free : (s.m.tmJob job.val).cur = none) (passes : s.m.planRead j job.val = (m1, .ok p)) :
    Gives (.tidemarkArm a job) s ((m1.setTmJob job.val { s.m.tmJob job.val with plan := some p }).fset
      (Reg.HB_TM_STATE_STATUS job.val) 0) :=
  gives_byAgent on reach (exec_tidemarkArm s)
    (by simp only [Mach.tmArm, live, free, passes, Option.isSome_none, Bool.false_eq_true, if_false])

/-- A REFUSE of the pending target that another module asked for drops it here and passes on. -/
theorem refuse_drops {p : TmPlan} {target : Word} (plan : (s.m.tmJob job.val).plan = some p)
    (pending : (s.m.tmJob job.val).pending = some target.toNat) (other : (s.m.tmJob job.val).asked ≠ some target.toNat) (down : Bool) :
    Gives (.refuse job target down) s
      ((s.m.setTmJob job.val { s.m.tmJob job.val with pending := none }).tmPass p 13 job.val target.toNat down) := by
  refine gives_act on (exec_refuse s) ?_
  simp only [plan, pending, other, decide_false, Bool.false_eq_true, if_true, if_false]

end

/-! Capture, offers and seals (R377 to R381) -/

/-- A capture whose segments are read and whose image is written. -/
theorem captureDone_captures {m m1 m2 : Mach} {jn : Nat} {k : TmMark} {p : TmPlan} {j : Job} {ds : List (List Byte)}
    (current : (m.tmJob jn).cur = some k) (plan : (m.tmJob jn).plan = some p) (live : m.job? jn = some j) (fresh : k.len = 0)
    (read : m.tmReads j jn ((p.pick (fun x => !x.seals)).map (fun x => (x.2.va, x.2.len))) = (m1, .ok ds))
    (write : m1.tmWrite j jn (p.half k.half) (m1.tmImage p j.seed k (p.pick (fun x => !x.seals)) ds) = (m2, .ok ())) :
    m.captureDone jn = m2.captured jn (m.tmJob jn) k p := by
  simp only [Mach.captureDone, current, plan, live, fresh, read, write, ne_eq, not_true, if_false]

section
variable {m : Mach} {jn : Nat} {k : TmMark} {r i : Nat} {rest : List Nat} (current : (m.tmJob jn).cur = some k)
  (offer : k.offer = some r) (shards : k.todo = i :: rest) (id feed : Nat)
include current offer shards

/-- A partner that accepts, and stands apart from the shard's other holders, is recorded. -/
theorem offerAnswer_accepts (apart : k.holds.any (fun h => h.shard == i && h.id != ownShingle && h.feed == feed) = false) :
    m.offerAnswer jn true id feed = (m.setTmJob jn { m.tmJob jn with
      feeds := sset 0 r feed (m.tmJob jn).feeds
      cur := some { k with
        holds := k.holds ++ [⟨i, id, feed⟩]
        todo := rest
        next := 0
        offer := none } }).tmOn jn false := by
  simp only [Mach.offerAnswer, current, offer, shards, apart, Option.isNone_some, Bool.not_false, Bool.and_self, Bool.and_false,
    Bool.false_eq_true, if_true, if_false]

/-- One that declines is passed over. -/
theorem offerAnswer_declines : m.offerAnswer jn false id feed = (m.setTmJob jn { m.tmJob jn with
      feeds := sset 0 r feed (m.tmJob jn).feeds
      cur := some { k with offer := none } }).tmOn jn false := by
  simp only [Mach.offerAnswer, current, offer, shards, Option.isNone_some, Bool.false_and, Bool.false_eq_true, if_false]

end

/-! Shards held for other modules (R379, R380) -/

/-- The area without an older copy of the shard that is offered. -/
def Mach.areaWithout (m : Mach) (o : ShardOffer) : Mach :=
  m.setArea (m.tm.area.filter (fun c =>
    !((c.source == o.source.toNat && c.rtag == o.rtag && c.gstep == o.gstep.toNat) && c.shard == o.shard)))

/-- The answer to an offer: this module's identity and feed, and whether it takes the shard. -/
def Mach.answerOffer (m : Mach) (o : ShardOffer) (ok : Nat) : Mach :=
  m.sendIdent o.source.toNat [17, o.source.toNat, ok, m.ident, m.fget Reg.LH_GROUP_FEED, o.gstep.toNat, o.shard] []

section
variable {m : Mach} {o : ShardOffer} (offers : o.sealing = false)
include offers

/-- A shard without a place is refused, and the area stays as it was (log entry 47). -/
theorem takeShard_refuses (full : (m.areaWithout o).areaPlace o = none) : m.takeShard o = m.answerOffer o 0 := by
  rw [Mach.areaWithout] at full
  simp only [Mach.takeShard, offers, full, Bool.false_eq_true, if_false, Mach.answerOffer]

/-- One with a place is stored under the area's key. -/
theorem takeShard_stores {off : Nat} {m1 : Mach} (place : (m.areaWithout o).areaPlace o = some off)
    (stored : m1 = (m.areaWithout o).ncWrite none none ((m.areaWithout o).keyId ((m.areaWithout o).fget Reg.HB_TM_AREA_KEY))
      ((m.areaWithout o).areaBase + off * 0x200000) o.data) :
    m.takeShard o = (m1.setArea (areaKeep (m1.tm.area ++
      [⟨o.source.toNat, o.rtag, o.gstep.toNat, o.shard, off, o.data.length, none⟩]) o.source.toNat o.rtag)).answerOffer o 1 := by
  subst stored
  rw [Mach.areaWithout] at place
  simp only [Mach.takeShard, offers, place, Bool.false_eq_true, if_false, Mach.answerOffer, Mach.areaWithout]

end

/-! Restore and release (R383 to R385) -/

section
variable {m m1 : Mach} {jn : Nat} {j : Job} {w : List Word} (i : Instr) (idle : m.flag Reg.HB_TM_RST_STATUS_BUSY = false)
  (live : m.job? jn = some j) (read : m.rstRead j jn = (m1, .ok w))
include idle live read

/-- RESTORE of a Tidemark that this module holds, into a job that has fetched nothing yet. -/
theorem restoreCmd_begins {p : TmPlan} {h : List Byte} (plan : (m1.tmJob jn).plan = some p) (armed : (m1.tmJob jn).code = 1)
    (fresh : j.fetched = false) (own : bits (wd w 0) 0 2 ≠ 1)
    (present : m1.rstPresent (bits (wd w 0) 0 2) (bits (wd w 1) 0 48) (wd w 2).toNat (wd w 3) (shardsOf (imageLen p.segs)) = true)
    (header : m1.rstHeader (bits (wd w 0) 0 2) (bits (wd w 1) 0 48) (wd w 2).toNat (wd w 3) = some h) (sound : tmHeadBad h = none)
    (fits : headerFits p h (wd w 2).toNat (bits (wd w 4) 0 48) = true) :
    m.restoreCmd i jn = m1.rstBegin ⟨jn, bits (wd w 0) 0 2, bits (wd w 1) 0 48, (wd w 2).toNat, wd w 3, bits (wd w 4) 0 48,
      shardsOf (imageLen p.segs)⟩ [] := by
  simp only [Mach.restoreCmd, idle, live, read, plan, armed, fresh, own, present, header, sound, fits, ne_eq, not_true, Bool.not_true,
    Bool.false_eq_true, or_self, if_true, if_false]

/-- RELEASE of a Tidemark that the area holds. -/
theorem releaseCmd_releases (held : m1.tm.area.any (fun c => c.source == bits (wd w 1) 0 48 && c.rtag == wd w 3 &&
      (wd w 2 == 0 || c.gstep == (wd w 2).toNat)) = true) :
    m.releaseCmd i jn = (m1.setArea (m1.tm.area.filter (fun c =>
      !(c.source == bits (wd w 1) 0 48 && c.rtag == wd w 3 && (wd w 2 == 0 || c.gstep == (wd w 2).toNat))))).rstStatus 0 := by
  simp only [Mach.releaseCmd, idle, live, read, held, Bool.false_eq_true, if_true, if_false]

end

/-- A restore whose image, header and CRCs agree with the plan is written through it. -/
theorem restoreDone_restores {m m1 m2 : Mach} {shards : List (List Byte)} {r : TmRestore} {p : TmPlan} {j : Job} {img sealed : List Byte}
    (current : m.tm.restore = some r) (plan : (m.tmJob r.job).plan = some p) (live : m.job? r.job = some j)
    (image : m.rstImage j p r shards = (m1, .ok (img, sealed))) (sound : tmHeadBad sealed = none)
    (fits : headerFits p sealed r.gstep r.replay = true)
    (crcs : (List.range p.segs.length).any (fun k => crc64 ((segBytes img (sealed.drop 4096) p.segs 4096 0).getD k []) !=
      wd (cutWords sealed 0 512) (34 + 4 * k)) = false)
    (write : m1.tmWrites j r.job (restoreOuts p r.replay (segBytes img (sealed.drop 4096) p.segs 4096 0)) = (m2, .ok ())) :
    m.restoreDone shards = m2.restored r ⟨r.replay, lossOf p (segBytes img (sealed.drop 4096) p.segs 4096 0),
      bits (wd (cutWords sealed 0 512) 3) 1 1 == 1⟩ := by
  simp only [Mach.restoreDone, current, plan, live, image, sound, fits, crcs, write, Option.isSome_none, Bool.not_true,
    Bool.false_eq_true, if_false]

/-! The statements -/

/-- Settles O33: commands and requests by the plan and the pending target, the score by its parts. How margins count at their bounds is log
entry 48. -/
theorem tidemarkRequestRowsComplete : Obligations.TidemarkRequestRowsComplete := by
  intro s a job on
  refine ⟨fun reach => ⟨fun j m1 p => tidemarkArm_arms on reach, fun ready => ?_, fun pending => ?_⟩, fun enabled ready => ?_,
    fun target down p plan => ⟨fun live => ?_, fun pending other => refuse_drops on plan pending other down⟩, ?_⟩
  · exact gives_byAgent on reach (exec_take s) (if_pos ready)
  · exact gives_byAgent on reach (exec_tidemarkCancel s) (if_pos pending)
  · exact gives_act on (exec_intervalExpiry s) (if_pos (by rw [enabled, ready]; rfl))
  · exact gives_act on (exec_tidemarkRequest s) (by simp only [plan, live, if_true])
  · rintro cm ct cl ch cp score rfl rfl rfl rfl rfl rfl
    exact gives_act on (exec_riskUpdate s) rfl

/-- Settles O34: a Tidemark in progress by what its offer and its holders answer, a shard by its place in the area, restore and release by
their descriptor. That a refused offer leaves the area as it was is log entry 47. -/
theorem tidemarkPlacementRowsComplete : Obligations.TidemarkPlacementRowsComplete := by
  intro s a job on
  refine ⟨fun k p j m1 m2 ds current plan live fresh read write => ?_, fun k r i rest id feed current offer shards => ⟨fun apart => ?_, ?_⟩,
    fun k holder current sealed partner first => ?_, fun o off m0 m1 offers without => ⟨fun full => ?_, fun place stored => ?_⟩,
    fun may idle j m1 w live read => ⟨fun p h plan armed fresh own present header sound fits => ?_, fun held => ?_⟩,
    fun shards r p j m1 m2 img sealed current plan live image sound fits crcs write => ?_⟩
  · exact gives_act on (exec_captureDone s) (captureDone_captures current plan live fresh read write)
  · exact gives_act on (exec_offerAnswer s) (offerAnswer_accepts current offer shards _ _ apart)
  · exact gives_act on (exec_offerAnswer s) (offerAnswer_declines current offer shards _ _)
  · refine gives_act on (exec_sealAck s) ?_
    have data : k.sealData.isNone = false := by simpa using sealed
    simp only [current, data, partner, first, Bool.not_true, Bool.false_eq_true, or_self, if_false]
  · subst without
    exact gives_act on (exec_shardOffer s) (takeShard_refuses offers full)
  · subst without
    exact ⟨_, gives_act on (exec_shardOffer s) (takeShard_stores offers place stored), _, rfl, rfl⟩
  · exact gives_owned on may (exec_restore s) (restoreCmd_begins _ idle live read plan armed fresh own present header sound fits)
  · exact gives_owned on may (exec_tidemarkRelease s) (releaseCmd_releases _ idle live read held)
  · exact gives_act on (exec_restoreDone s) (restoreDone_restores current plan live image sound fits crcs write)

end Sys2Proof.Machine
end

section
/-!
PROOFS. Lighthouse: attestation and the event log's copies, SPDM, power-on, recovery, readings, ageing and the sideband, and the statements
O35, O37 and O38 (R389, R391, R405 to R409, R412, R413, R415, R416, R437, R438, R446).
-/

namespace Sys2Proof.Machine

/-! Attestation and copies of the log (R405 to R408, R413) -/

section
variable {s : State} {a : Agent} (on : On s)
include on

/-- REPORT waits for its turn where the region stands, an index is left and the buffer lies in Stack or Shelf. -/
theorem report_waits (reach : Agent.reaches a Reg.LH_ATT_CMD = true) (idle : s.m.flag Reg.LH_ATT_STATUS_BUSY = false)
    (region : s.m.lh.regionBad = false) (left : s.m.lh.q < 2 ^ 40) (tier : inStackOrShelf s.m.attBuf 10240 = true) :
    Gives (.report a) s (({ s.m with lh := { s.m.lh with att := true } } : Mach).fset Reg.LH_ATT_STATUS_BUSY 1) :=
  gives_byAgent on reach (exec_report s)
    (by simp only [idle, region, Nat.not_le.mpr left, tier, Bool.not_true, Bool.false_eq_true, if_false])

theorem idcert_gives (reach : Agent.reaches a Reg.LH_ATT_CMD = true) (idle : s.m.flag Reg.LH_ATT_STATUS_BUSY = false)
    (tier : inStackOrShelf s.m.attBuf s.m.nv.cert.length = true) :
    Gives (.idcert a) s ((s.m.hubWrite s.m.attBuf s.m.nv.cert).attEnd 0) :=
  gives_byAgent on reach (exec_idcert s) (by simp only [idle, tier, Bool.not_true, Bool.false_eq_true, if_false])

/-- LOG_COPY of at most 65,536 records, to a buffer in Stack or Shelf. -/
theorem logCopy_begins {start : BitVec 40} {count : BitVec 17} (reach : Agent.reaches a Reg.LH_LOG_CMD = true)
    (idle : s.m.flag Reg.LH_LOG_STATUS_BUSY = false) (most : count.toNat ≤ 65536)
    (tier : inStackOrShelf (s.m.fget Reg.LH_LOG_ARG_BUF * 64) (64 * count.toNat) = true) : Gives (.logCopy a start count) s
      (({ s.m with lh := { s.m.lh with copy := some (start.toNat, count.toNat) } } : Mach).fset Reg.LH_LOG_STATUS_BUSY 1) :=
  gives_byAgent on reach (exec_logCopy s)
    (by simp only [idle, Nat.not_lt.mpr most, tier, Bool.not_true, Bool.false_eq_true, if_false])

end

/-- Rows that also reach a module that is off (log entry 59). -/
theorem gives_always {s : State} {i : Instr} {m' : Mach} {f : Mach → Mach} (row : exec i s = s.actAlways f) (result : f s.m = m') :
    Gives i s m' := by
  rw [Gives, row, State.actAlways, result]

/-- The oldest buffered record goes to a flash ring that has room, and nothing is told of where none was dropped. -/
theorem logFlashWrite_moves {s : State} {e : LogEnt} {rest : List LogEnt} (oldest : s.m.log.buf = e :: rest)
    (kept : s.m.log.lost = 0) (room : s.m.nv.log.length < 1048576) : Gives .logFlashWrite s { s.m with
      log := { s.m.log with buf := rest }
      nv := { s.m.nv with
        log := s.m.nv.log ++ [e]
        logSeq := e.seq + 1 } } := by
  have fits : ¬ 1048576 < (s.m.nv.log ++ [e]).length := by
    rw [List.length_append, List.length_singleton]; omega
  exact gives_always (exec_logFlashWrite s) (by simp only [oldest, kept, fits, if_true, if_false])

/-- Settles O35: commands by their checks, a report by the tree for its index, a copy by the records still held. -/
theorem attestationRowsComplete : Obligations.AttestationRowsComplete := by
  intro s a on
  refine ⟨fun reach idle => ⟨report_waits on reach idle, idcert_gives on reach idle⟩, fun m1 m2 waits ready indexed written => ?_,
    gives_act on (exec_treePrepared s) rfl, fun start count => logCopy_begins on, fun start n rs m2 copy listed written => ?_,
    fun e rest => logFlashWrite_moves⟩
  · subst indexed written
    exact gives_act on (exec_reportComplete s) (if_neg (by simp [waits, ready]))
  · subst listed written
    exact gives_act on (exec_logCopyDone s) (by simp only [copy])

/-! SPDM (R409) -/

section
variable {s : State} {p : Fin 2} (on : On s) (up : s.m.linkAlive p.val = true)
include on up

/-- A request of a connection that has come far enough is served. -/
theorem gives_spdm {i : Instr} {m' : Mach} {need : Nat} {f : Mach → Spdm → Mach}
    (row : exec i s = s.act (fun m => m.spdmServe p.val need f)) (stage : need ≤ (s.m.spdmOf p.val).stage)
    (result : f s.m (s.m.spdmOf p.val) = m') : Gives i s m' := by
  refine gives_act on row (Eq.trans ?_ result)
  simp only [Mach.spdmServe, up, Nat.not_lt.mpr stage, Bool.not_true, Bool.false_eq_true, if_false]

/-- FINISH of the session that KEY_EXCHANGE opened secures it, and keys the port's IDE stream where it is asked to. -/
theorem finish_secures {session : BitVec 32} (stage : 3 ≤ (s.m.spdmOf p.val).stage)
    (opened : (s.m.spdmOf p.val).session = some session.toNat) (ide : Bool) : Gives (.finish p session true ide) s
      (if ide then ((s.m.setSpdm p.val { s.m.spdmOf p.val with secured := true }).emit (.landward p.val [0x65] [])).fset
          (Reg.LW_LINK_IDE p.val) 1
        else (s.m.setSpdm p.val { s.m.spdmOf p.val with secured := true }).emit (.landward p.val [0x65] [])) :=
  gives_spdm on up (exec_finish s) stage (if_neg (by simp [opened]))

end

/-- Settles O37: each request by the stage it needs. The codes of requests and responses are log entry 56. -/
theorem spdmRowsComplete : Obligations.SpdmRowsComplete := by
  intro s p on up
  refine ⟨gives_spdm on up (exec_getVersion s) (Nat.zero_le _) rfl, fun stage => gives_spdm on up (exec_getCapabilities s) stage rfl,
    fun stage => gives_spdm on up (exec_negotiateAlgorithms s) stage (if_pos rfl), fun stage => ⟨gives_spdm on up (exec_getDigests s) stage rfl,
      fun off len within => gives_spdm on up (exec_getCertificate s) stage (if_neg (Nat.not_lt.mpr within)),
      fun nonce => gives_spdm on up (exec_challenge s) stage rfl, fun index nonce => gives_spdm on up (exec_getMeasurements s) stage rfl,
      fun session => gives_spdm on up (exec_keyExchange s) stage rfl, fun session opened => ⟨finish_secures on up stage opened false,
        finish_secures on up stage opened true, gives_spdm on up (exec_endSession s) stage (if_pos opened)⟩⟩⟩

/-! Recovery and the sideband (R391, R446) -/

/-- The sideband is served while Lighthouse's domains are on. -/
theorem gives_sideband {s : State} {i : Instr} {m' : Mach} {f : Mach → Mach} (served : s.m.lh.power ≠ .off)
    (row : exec i s = s.actAlways (fun x => x.sideband f)) (result : f s.m = m') : Gives i s m' :=
  gives_always row ((if_neg served).trans result)

/-- The slots once a recovery image is committed: it stands in slot A, which is active (log entry 52). -/
def Mach.recovered (m : Mach) : Mach :=
  m.setPair 0 { m.nv.fwSlots with
    a := m.lh.staged
    active := 0
    other := if m.nv.fwSlots.active = 1 then 1 else m.nv.fwSlots.other }

section
variable {s : State} (rom : s.m.lh.power = .rom)
include rom

theorem served_of_rom : s.m.lh.power ≠ .off := by rw [rom]; decide

theorem recoveryCommit_restarts {c : Mach} (passes : s.m.lhImageBad true s.m.lh.staged = none) (restarted : c = s.m.recovered.coldStart) :
    Gives .recoveryCommit s (({ c with lh := { c.lh with power := .on } } : Mach).emit (.sideband 0x11 [0] [])) := by
  subst restarted
  refine gives_sideband (served_of_rom rom) (exec_recoveryCommit s) ((if_neg (not_not.mpr rom)).trans ?_)
  simp only [passes, Mach.recovered]

end

/-- Settles O38: power-on and recovery by the state of power, readings and figures by what is taken. A recovery that is committed making slot
A active is log entry 52, the free values of the light bar's segments log entry 57. -/
theorem lighthouseRowsComplete : Obligations.LighthouseRowsComplete := by
  intro s
  refine ⟨fun b off => gives_always (exec_powerOn s) (if_pos (Or.inl off)), fun rom => ⟨fun data most room => ?_,
      fun c => recoveryCommit_restarts rom⟩, fun served => ⟨gives_sideband served (exec_ident s) rfl,
      gives_sideband served (exec_sidebandStatus s) rfl⟩, fun on => ⟨fun temps rails m0 m1 railed heated => ?_, fun f none_ => ?_,
      fun f h hs hours long => ?_⟩⟩
  · exact gives_sideband (served_of_rom rom) (exec_recoveryData s) (if_pos ⟨rom, most, room⟩)
  · subst railed heated
    exact gives_act on (exec_sensorSample s) rfl
  · exact gives_act on (exec_ageingFit s) (by simp only [none_])
  · have lasts : ¬ (hs.foldl min h < 2160 ∧ (s.m.fget Reg.LH_EOL_REMAIN_H = 0 ∨ 2160 ≤ s.m.fget Reg.LH_EOL_REMAIN_H)) :=
      fun short => Nat.not_lt.mpr long short.1
    exact gives_act on (exec_ageingFit s) (by simp only [hours, lasts, if_false])

end Sys2Proof.Machine
end

section
/-!
PROOFS. Power: the input, the modes and the cap (R423, R424, R431 to R434), and the statements O39 and O40.
-/

namespace Sys2Proof.Machine

/-! The input (R423, R424) -/

/-- A command gives one next machine. -/
theorem gives_unique {i : Instr} {s : State} {m1 m2 : Mach} (h1 : Gives i s m1) (h2 : Gives i s m2) : m1 = m2 := by
  have same : Host.Outcome.next { s with m := m1 } = .next { s with m := m2 } := h1.symm.trans h2
  exact congrArg State.m (Host.Outcome.next.inj same)

/-- An input voltage that is no power loss is read (log entry 51). -/
theorem underVoltage_reads (s : State) {mv us : Nat} (harmless : ¬ (mv < 45000 ∧ 2000 ≤ us)) :
    Gives (.underVoltage mv us) s (s.m.fset Reg.PW_INPUT_MV mv) :=
  gives_always (exec_underVoltage s) (if_neg harmless)

/-- Refutes O39: 50 V at reset is no power loss, and the module takes it for its reading (log entry 51), so that PW_INPUT, which read 0,
shows 50,000 mV: the machine is not as it was. -/
theorem not_inputRowsComplete : ¬ Obligations.InputRowsComplete := by
  intro h
  have kept : Gives (.underVoltage 50000 0) State.reset State.reset.m := (h State.reset 50000 0).2.1 (Or.inl (by decide))
  have unmoved : State.reset.m.fset Reg.PW_INPUT_MV 50000 = State.reset.m :=
    gives_unique (underVoltage_reads State.reset (by decide)) kept
  have shown : (State.reset.m.fset Reg.PW_INPUT_MV 50000).fget Reg.PW_INPUT_MV = 50000 := fget_fset _ Reg.PW_INPUT_MV 50000 (by decide)
  have unread : State.reset.m.fget Reg.PW_INPUT_MV = 0 := by decide +kernel
  exact absurd (unread.symm.trans ((congrArg (Mach.fget · Reg.PW_INPUT_MV) unmoved).symm.trans shown)) (by decide)

/-! A request (R431 to R433) -/

/-- What a request that finds no change under way comes to (log entry 49). -/
def Mach.modeAsked (m : Mach) (r : Nat) : Mach :=
  if r = m.fget Reg.PW_MODE_MODE then m.fset Reg.PW_MODE_STATUS 0
  else if m.fget Reg.PW_MODE_MODE = 3 then m.slackWake r
  else if r = 3 then (m.fset Reg.PW_MODE_BUSY 1).slackBegin
  else (((m.fset Reg.PW_MODE_BUSY 1).setMode (.waiting r)).holdIdle 0 (fun _ => true)).tryActions

theorem modeRequest_asked {s : State} {a : Agent} {req : BitVec 2} {m' : Mach} (on : On s) (may : MayOwn s.m a)
    (idle : s.m.pw.phase = .idle) (free : s.m.flag Reg.PW_MODE_BUSY = false) (asked : s.m.modeAsked req.toNat = m') :
    Gives (.modeRequest a req) s m' := by
  refine gives_owned on may (exec_modeRequest s) (Eq.trans ?_ asked)
  simp only [idle, free, Mach.modeAsked, reduceCtorEq, Bool.false_eq_true, if_false]

/-- Settles O40: a request by the mode asked for, the phases by the phase each command ends, the cap by the three bands of R434. -/
theorem modeRowsComplete : Obligations.ModeRowsComplete := by
  intro s a on
  refine ⟨fun may idle free => ⟨fun req same => ?_, fun req awake slack => ?_, fun req other awake active => ?_, fun awake => ?_⟩,
    fun r changing => ?_, fun r limit asked => ?_, fun limit idle awake jobless => ?_, fun entering ready => ?_,
    fun r leaving => ?_, fun watts us m shown => ?_⟩
  · exact modeRequest_asked on may idle free (if_pos same)
  · exact modeRequest_asked on may idle free ((if_neg (fun same => awake (same.trans slack))).trans (if_pos slack))
  · exact modeRequest_asked on may idle free ((if_neg other).trans ((if_neg awake).trans (if_neg active)))
  · exact modeRequest_asked on may idle free ((if_neg (fun same => awake same.symm)).trans ((if_neg awake).trans (if_pos rfl)))
  · exact gives_act on (exec_modeChangeDone s) (by simp only [changing])
  · refine gives_act on (exec_modeQlimitExpiry s) ?_
    rcases asked with waiting | entering
    · simp only [limit, waiting, if_false]
    · simp only [limit, entering, if_false]
  · exact gives_act on (exec_idleSlackExpiry s) (by simp [limit, idle, awake, jobless])
  · exact gives_act on (exec_slackEntry s) (if_pos ⟨entering, ready⟩)
  · exact gives_act on (exec_slackExitDone s) (by simp only [leaving])
  · subst shown
    refine ⟨fun above => ?_, fun within under => ?_, fun within near => ?_⟩
    · exact gives_act on (exec_capControl s) (congrArg Mach.setClocks (if_pos above))
    · exact gives_act on (exec_capControl s) (congrArg Mach.setClocks ((if_neg (Nat.not_lt.mpr within)).trans (if_pos under)))
    · exact gives_act on (exec_capControl s)
        (congrArg Mach.setClocks ((if_neg (Nat.not_lt.mpr within)).trans (if_neg (Nat.not_lt.mpr near))))

end Sys2Proof.Machine
end

section
/-!
PROOFS. The front edge: the button, a laser bay's latch and record, the owner's commands, powering down and the lever, and the statement O43
(R446 to R453, R456).
-/

namespace Sys2Proof.Machine

/-- A bay's record is checked, and the lanes that the bay retired retrain where its signature holds (the bytes it covers are log entry 54). -/
def Mach.bayRecorded (m : Mach) (b : Nat) (r : BayRecord) : Mach :=
  if m.verifies 1 r.sig (BayRecord.covered r) then
    (((({ m with lh := { m.lh with bays := (List.range 4).map (fun i =>
      if i = b then (r.bias, r.eol) else m.lh.bays.getD i (0, 0)) } } : Mach).rclear (Reg.LH_LASER b)).showHeadroom b).retrainBay b)
  else (m.logE 0x15 0x0601 b noJob 0).bayFault b

section
variable {s : State} (on : On s)
include on

theorem bayFitted_checks {b : Fin 4} {r : BayRecord} {m' : Mach} (empty : s.m.flag (latchBit b.val) = false) (shut : s.m.front ≠ 4)
    (checked : (s.m.fset (latchBit b.val) 1).bayRecorded b.val r = m') : Gives (.bayFitted b r) s m' := by
  refine gives_act on (exec_bayFitted s) (Eq.trans ?_ checked)
  simp only [empty, shut, false_and, Bool.false_eq_true, if_false, Mach.bayRecorded]

section
variable {a : Agent} {i : Instr} {f : Mach → Mach} {m' : Mach} (may : MayOwn s.m a) (free : s.m.flag Reg.LH_FRONT_STATE_BUSY = false)
include may free

/-- The owner's command is taken where none is under way (R258, R456). -/
theorem gives_frontCmd (row : exec i s = s.act (fun m => m.frontCmd a f)) (result : f s.m = m') : Gives i s m' :=
  gives_owned on may row ((if_neg (by simp only [free, Bool.false_eq_true, not_false_eq_true])).trans result)

end

/-! The button and the latch (R448, R450, R451) -/

theorem shortPress_returnsBay (safe : s.m.front = 3) : Gives .shortPress s s.m.bayBack :=
  gives_act on (exec_shortPress s) (by simp only [safe, OfNat.ofNat_ne_zero, Nat.reduceEqDiff, if_true, if_false])

theorem longPress_cancels (waits : s.m.front = 5) : Gives .longPress s s.m.cancelRemove :=
  gives_act on (exec_longPress s) (by simp only [waits, OfNat.ofNat_ne_zero, Nat.reduceEqDiff, if_true, if_false])

end

/-! The statement -/

/-- Settles O43: each row by the state of the front edge. EVENT 0x16 of the lever is log entry 57, the bytes that a bay's signature covers
log entry 54. -/
theorem frontEdgeRowsComplete : Obligations.FrontEdgeRowsComplete := by
  intro s a
  refine ⟨fun on => ⟨fun idle => ⟨?_, ?_⟩, fun selecting => ⟨?_, ?_, ?_⟩, fun quiescing one two => ?_, fun safe => ⟨?_, ?_⟩,
    fun waits => ⟨?_, ?_⟩, fun down => ?_, fun b m1 opened => ⟨fun safe mine => ?_, fun elsewhere => ?_⟩,
    fun b r m2 empty shut latched => ⟨fun holds => ?_, fun broken => ?_⟩,
    fun may free => ⟨fun b idle => ?_, fun safe => ?_, fun waits => ⟨?_, ?_⟩, fun idle => ⟨?_, ?_⟩⟩⟩,
    fun m1 runs => ⟨fun opened => ⟨fun removed => ?_, fun live => ?_⟩, fun closed => ?_⟩⟩
  · exact gives_act on (exec_shortPress s) (if_pos idle)
  · exact gives_act on (exec_longPress s) (if_pos idle)
  · exact gives_act on (exec_shortPress s) (by simp only [selecting, one_ne_zero, if_true, if_false])
  · exact gives_act on (exec_longPress s) (by simp only [selecting, one_ne_zero, if_true, if_false])
  · exact gives_act on (exec_selectTimeout s) (if_pos selecting)
  · exact gives_act on (exec_baySafe s) (if_pos ⟨quiescing, one, two⟩)
  · exact shortPress_returnsBay on safe
  · exact gives_act on (exec_swapWindowExpiry s) (if_pos safe)
  · exact longPress_cancels on waits
  · exact gives_act on (exec_graceExpiry s) (if_pos waits)
  · exact gives_act on (exec_powerDownDone s) (if_pos down)
  · subst opened
    exact gives_act on (exec_bayLatchOpen s) (if_pos ⟨safe, mine⟩)
  · subst opened
    exact gives_act on (exec_bayLatchOpen s) (if_neg (fun both => elsewhere both.1))
  · subst latched
    exact bayFitted_checks on empty shut (if_pos holds)
  · subst latched
    exact bayFitted_checks on empty shut (if_neg (by simp only [broken, Bool.false_eq_true, not_false_eq_true]))
  · exact gives_frontCmd on may free (exec_quiesceBay s) (if_pos idle)
  · exact gives_frontCmd on may free (exec_frontCancel s) (by simp only [safe, Nat.reduceEqDiff, OfNat.ofNat_ne_one, if_true, if_false])
  · exact gives_frontCmd on may free (exec_frontCancel s) (by simp only [waits, Nat.reduceEqDiff, OfNat.ofNat_ne_one, if_true, if_false])
  · exact gives_frontCmd on may free (exec_removeAck s) (if_pos waits)
  · exact gives_frontCmd on may free (exec_frontCancel s)
      (by simp only [idle, zero_ne_one, OfNat.zero_ne_ofNat, if_false])
  · exact gives_frontCmd on may free (exec_removeAck s) (by simp only [idle, OfNat.zero_ne_ofNat, if_false])
  · subst opened
    exact gives_always (exec_leverOpen s) (by simp only [runs, removed, Bool.not_true, Bool.false_eq_true, if_true, if_false])
  · subst opened
    exact gives_always (exec_leverOpen s) (by simp only [runs, live, Bool.not_true, Bool.false_eq_true, if_false])
  · subst closed
    exact gives_always (exec_leverClose s) (by simp only [runs, Bool.not_true, Bool.false_eq_true, if_false])

end Sys2Proof.Machine
end

section
/-!
PROOFS. A log record is numbered and buffered, or dropped and counted (R413), and the statement O55.
-/

namespace Sys2Proof.Machine

/-- The machine once a full buffer has dropped a record, before source 132 is raised. -/
def Mach.recordDropped (m : Mach) : Mach :=
  (({ m with log := { m.log with lost := m.log.lost + 1 } } : Mach).fadd Reg.LH_LOG_LOST_LOST 1).fset Reg.LH_ALERT_LOG 1

section
variable {m : Mach} (event status unit job addr : Nat) (data : List Nat)

theorem logD_buffered (room : m.log.buf.length < 4096) : m.logD event status unit job addr data =
    ({ m with log := { m.log with buf := m.log.buf ++
      [⟨m.fget Reg.LH_LOG_HEAD_SEQ, m.now, m.tideUnset, event, status, unit, job, addr, data⟩] } } : Mach).fadd Reg.LH_LOG_HEAD_SEQ 1 :=
  if_neg (Nat.not_le.mpr room)

theorem logD_dropped (full : 4096 ≤ m.log.buf.length) : m.logD event status unit job addr data =
    if m.fget Reg.LH_ALERT_LOG = 0 then m.recordDropped.raise 132 else m.recordDropped := by
  simp only [Mach.logD, full, if_true, beq_iff_eq, Mach.recordDropped]

end

/-- A field of a register that neither LH_LOG_LOST nor LH_ALERT is reads as before the record. -/
theorem recordDropped_fget (m : Mach) (f : Fld) (lost : f.reg ≠ Reg.LH_LOG_LOST) (alert : f.reg ≠ Reg.LH_ALERT) :
    m.recordDropped.fget f = m.fget f :=
  (fget_fset_ne _ Reg.LH_ALERT_LOG f _ alert).trans (fget_fset_ne _ Reg.LH_LOG_LOST_LOST f _ lost)

/-- Where source 132 goes does not hang on the record. -/
theorem recordDropped_raise_irq (m : Mach) : (m.recordDropped.raise 132).irq =
    if 2 ≤ m.fget Reg.HL_DRV_OWNER_OWNER ∨ m.flag (Reg.HL_IRQ_ROUTE_EN 132) = true then m.irq ++ [132] else m.irq := by
  have owner := recordDropped_fget m Reg.HL_DRV_OWNER_OWNER (by decide) (by decide)
  have enabled := recordDropped_fget m (Reg.HL_IRQ_ROUTE_EN 132) (by decide) (by decide)
  rw [raise_irq]
  simp only [Mach.flag, owner, enabled, Bool.or_eq_true, Bool.and_eq_true, decide_eq_true_eq, Nat.reduceLeDiff, true_and]
  rfl

section
variable {m : Mach} (event status unit job addr : Nat) (data : List Nat) (full : 4096 ≤ m.log.buf.length)
include full

/-- A record that finds the buffer full is counted, whether it raises source 132 or not. -/
theorem logD_full_log : (m.logD event status unit job addr data).log = { m.log with lost := m.log.lost + 1 } := by
  rw [logD_dropped event status unit job addr data full]
  split
  · exact raise_log m.recordDropped 132
  · rfl

theorem logD_full_alert : (m.logD event status unit job addr data).fget Reg.LH_ALERT_LOG = 1 := by
  have shown : m.recordDropped.fget Reg.LH_ALERT_LOG = 1 := fget_fset _ Reg.LH_ALERT_LOG 1 (by decide)
  rw [logD_dropped event status unit job addr data full]
  split
  · rw [raise_fget, shown]
  · exact shown

theorem logD_full_irq : (m.logD event status unit job addr data).irq =
    if m.fget Reg.LH_ALERT_LOG = 0 ∧ (2 ≤ m.fget Reg.HL_DRV_OWNER_OWNER ∨ m.flag (Reg.HL_IRQ_ROUTE_EN 132) = true)
      then m.irq ++ [132] else m.irq := by
  rw [logD_dropped event status unit job addr data full]
  by_cases rise : m.fget Reg.LH_ALERT_LOG = 0
  · simp only [rise, if_true, true_and, recordDropped_raise_irq]
  · simp only [rise, if_false, false_and]
    rfl

end

/-- The number after the record's is one more, up to the field's highest value. -/
theorem logD_room_seq {m : Mach} (event status unit job addr : Nat) (data : List Nat) (room : m.log.buf.length < 4096) :
    (m.logD event status unit job addr data).fget Reg.LH_LOG_HEAD_SEQ = min (m.fget Reg.LH_LOG_HEAD_SEQ + 1) (2 ^ 40 - 1) := by
  rw [logD_buffered event status unit job addr data room]
  exact (fget_fset _ Reg.LH_LOG_HEAD_SEQ _ (by decide)).trans
    (Nat.mod_eq_of_lt (Nat.lt_of_le_of_lt (Nat.min_le_right _ (2 ^ 40 - 1)) (by decide)))

/-- Settles O55: a record with room and one that finds the buffer full; the frame is that of every record. -/
theorem logRecords : Obligations.LogRecords := by
  intro m event status unit job addr data
  obtain ⟨regs, log, irq, frame⟩ := logD_frame m event status unit job addr data
  refine ⟨fun room => ⟨?_, logD_room_seq event status unit job addr data room, ?_⟩, fun full => ⟨?_, ?_, ?_, ?_⟩, ?_, ?_, ?_, ?_,
    fun r head lost alert => logD_rget m event status unit job addr data r head lost alert⟩
  · rw [logD_buffered event status unit job addr data room]; rfl
  · rw [logD_buffered event status unit job addr data room]; rfl
  · rw [logD_full_log event status unit job addr data full]
  · rw [logD_full_log event status unit job addr data full]
  · exact logD_full_alert event status unit job addr data full
  · exact logD_full_irq event status unit job addr data full
  all_goals rw [frame]

end Sys2Proof.Machine
end
